-- ==== Sys2Proof/Word.lean ====
section
/-! DEFINITION. The word types of the model: what the spec treats as bits.  Numbers that software never sees as a
word (counts, sizes, times) are `Nat` or `Int`. -/
namespace Sys2Proof

/-- One byte of a memory. -/
abbrev Byte := BitVec 8

/-- A 64-bit register (R406). -/
abbrev Reg := BitVec 64

/-- A 32-bit code, FP32 or INT32. -/
abbrev W32 := BitVec 32

/-- A time in ACLK phases: a quarter of a hall-time nanosecond (R55: ISSUE + PHASE / 4). -/
abbrev Phase := Nat

end Sys2Proof
end

