-- ==== Sys2Proof/Syntax.lean ====
section
/-! DEFINITION. The commands the module takes, one constructor per row of the spec's table of operations and events, and the
operands they carry.  The table gives its rows no bits and no fields, so the operands are the model's reading of what
each step needs from outside (log 1, 3). -/
namespace Sys2Proof

/-- The register pages of R415 and R416, a tile page with its tile. -/
inductive Page where
  | glb | hif | irq | htm | sch | pwr | thm | sec | bst | hyd | ltr | coop | swx | rack
  | zn (z : Fin 8) | kln (k : Fin 8) | mem (k : Fin 8) | lnk (p : Fin 12)
  | tctl (t : Fin 128) | tarr (t : Fin 128) | tvec (t : Fin 128) | tmil (t : Fin 128) | tspd (t : Fin 128)
deriving DecidableEq, Repr

/-- Which bits of a register an aligned access covers (R406): all 64, or one 32-bit half. -/
inductive Half where
  | whole | low | high
deriving DecidableEq, Repr

/-- A BAR0 write to a register whose place the command fixes.  For a half, the low 32 bits of `val` are the data. -/
structure RegW where
  half : Half
  val : Reg
deriving DecidableEq, Repr

/-- The streams of a tile (R55, R71). -/
inductive Stream where
  | f | b | s
deriving DecidableEq, Repr

/-- An instruction word of R55 less UNIT, CLASS and OP, which the command's row fixes.  `bad` says that the word was
read from a granule marked POISON (R57).  `codes` holds UNIT, CLASS and OP, UNIT lowest, of a word whose codes are reserved
or name a unit that its stream does not issue to (R55, R70): no row names such a word, and any row of its stream carries it. -/
structure Issue where
  phase : BitVec 2
  issue : BitVec 32
  desc : BitVec 12
  arg0 : BitVec 16
  arg1 : BitVec 16
  arg2 : BitVec 16
  vsrc : BitVec 2
  rsv : BitVec 7
  vcnt : Bool
  epoch : Bool
  last : Bool
  uspec : BitVec 5
  parity : Bool
  bad : Bool
  codes : Option (BitVec 16) := none
deriving DecidableEq, Repr

/-- An instruction that a front of tile `tile` issues; `loss` is the number of VCLK cycles its accesses lose to bank
conflicts under R187 (log 12). -/
structure TileIssue where
  tile : Fin 128
  stream : Stream
  word : Issue
  loss : Nat
deriving DecidableEq, Repr

/-- What the stack's ECC meets on one granule of a command (R329): granule number within the command, and whether the
pattern is uncorrectable or a single bit of word `word`. -/
structure EccErr where
  gran : Nat
  word : Fin 32
  uncorrectable : Bool
deriving DecidableEq, Repr

/-- An instruction of the lauter engine that reads HBM, and the errors that its granules meet (R243, R329). -/
structure LtrIssue where
  word : Issue
  ecc : List EccErr
deriving DecidableEq, Repr

/-- The channel whose first choice departs, and the errors that reading its row meets (R244, R329). -/
structure ChoiceRead where
  channel : BitVec 16
  ecc : List EccErr
deriving DecidableEq, Repr

/-- A controller that serves, and the errors that the granules it moves meet (R326, R329). -/
structure MemPart where
  k : Fin 8
  ecc : List EccErr
deriving DecidableEq, Repr

/-- A read of BAR0: its offset and its size in bytes (R337). -/
structure BarRead where
  off : BitVec 26
  size : Nat
deriving DecidableEq, Repr

/-- A 64-byte cell (R211): the header's fields and the 60 bytes after it, byte 4 in bits [7:0]. -/
structure FCell where
  kind : BitVec 2
  channel : BitVec 16
  index : BitVec 6
  missing : Bool
  deflected : Bool
  poison : Bool
  hop : BitVec 5
  body : BitVec 480
deriving DecidableEq, Repr

/-- One cell position of a codeword (R207): the 512 bits of the cell and its CRC-16. -/
structure SlotBits where
  cell : BitVec 512
  crc : BitVec 16
deriving DecidableEq, Repr

/-- A codeword as the receiver of a port takes it: how many symbols are wrong, HT at its arrival in 1/65,536 ns, its ten cell
positions, `none` where the OCC bit is clear, and FTYPE and TDATA of its framing field (R207, R208). -/
structure Codeword where
  symErr : Nat
  arrival : Nat
  slots : List (Option SlotBits)
  ftype : BitVec 4
  tdata : BitVec 26
deriving DecidableEq, Repr

/-- A switch of the fabric: an edge switch or a mesh router (R221). -/
inductive Sw where
  | west | east
  | router (t : Fin 128)
deriving DecidableEq, Repr

/-- An allocation request (R195): requester unit, pool, size in bytes, and the INIT field (count or owner). -/
structure AllocReq where
  unit : BitVec 16
  pool : Fin 16
  size : Nat
  init : BitVec 16
deriving DecidableEq, Repr

/-- What the host's enumeration leaves in configuration space: no row of the table writes it (log 6). -/
structure PcieCfg where
  msixEnable : Bool
  functionMask : Bool
  busMaster : Bool
  ptmEnable : Bool
deriving DecidableEq, Repr

/-- Speeds of R334, and of HIF_STATUS.SPEED. -/
inductive LinkSpeed where
  | gt8 | gt16 | gt32 | gt64
deriving DecidableEq, Repr

/-- Widths of R334. -/
inductive LinkWidth where
  | x1 | x2 | x4 | x8
deriving DecidableEq, Repr

/-- What an unmask of R420 clears. -/
inductive Unmask where
  | vector (v : Fin 64)
  | function
deriving DecidableEq, Repr

/-- How a loader's host read ends (R342). -/
inductive HostRead where
  | ok (data : List Byte)
  | bad (data : List Byte)
deriving DecidableEq, Repr

/-- Why a port goes DOWN (R233, R234). -/
inductive DownCause where
  | lanes (failed : BitVec 16)
  | codewords
  | framing
deriving DecidableEq, Repr

/-- The causes of a hard stop (R354). -/
inductive StopCause where
  | inputCurrent
  | zoneCurrent (z : Fin 8)
  | dieTemp (sensor : Fin 64)
  | stackTemp (k : Fin 8)
deriving DecidableEq, Repr

/-- The tamper sources, in the order of SEC_TAMPER_FIRST.SOURCE (R388). -/
inductive TamperSource where
  | pin | coreRail | secureRail | clock | cold | hot
deriving DecidableEq, Repr

/-- Outcome of a codeword-by-codeword training of a stack (R332) or of a self-test block (R396). -/
inductive TestResult where
  | pass | fail
deriving DecidableEq, Repr

/-- The commands of the module: one constructor per row of spec/opcode_table.json, in its order. -/
inductive Instr where
  | registerWrite (off : BitVec 26) (size : Nat) (val : Reg)
  | lowHalfRead (r : BarRead)
  | cntClr (p : Page) (w : RegW)
  | eventClear (p : Page) (w : RegW)
  | eventEnableWrite (p : Page) (w : RegW)
  | msixSend
  | msixUnmask (u : Unmask)
  | htmEnable (w : RegW)
  | htmDisable (w : RegW)
  | htmTodSet (w : RegW)
  | ptmReq (w : RegW)
  | ptmAutoDialogue
  | ptmResponse (host : Reg) (turnaround : BitVec 32)
  | timeSymbolSend (p : Fin 12)
  | timeSymbolRx (p : Fin 12) (sym : BitVec 256) (t4 : BitVec 80)
  | portTimeLost (p : Fin 12)
  | servoUpdate
  | freqAcquired
  | noGm
  | tickInEdge
  | gmLockTimer
  | tickInMissing
  | tickOutPulse
  | load (w : RegW)
  | load2 (w : RegW)
  | imageLoadComplete
  | arm (w : RegW)
  | stop (w : RegW)
  | unload (w : RegW)
  | seqPass
  | stepStart
  | untimedStepStart
  | untimedUStart
  | untimedStepEnd
  | feedRefill (section_ : Fin 521) (k : MemPart)
  | runsRefill (section_ : Fin 32) (k : MemPart)
  | runUnderrun (section_ : Fin 32)
  | digestTick
  | digestResult
  | verdictTick
  | commitDone
  | stepRecordWrite
  | hydTapEvent
  | snapshot
  | formatSelection
  | hydTabWrite (w : RegW)
  | arrLoad (i : TileIssue)
  | shadowCollision (t : Fin 128)
  | arrStream (i : TileIssue)
  | arrDrain (i : TileIssue)
  | decode (i : TileIssue)
  | decodeCompact (i : TileIssue)
  | scan (i : TileIssue)
  | encode (i : TileIssue)
  | encodeCoo (i : TileIssue)
  | encode24 (i : TileIssue)
  | encodeTp24 (i : TileIssue)
  | copy (i : TileIssue)
  | add (i : TileIssue)
  | sub (i : TileIssue)
  | mul (i : TileIssue)
  | fma (i : TileIssue)
  | div (i : TileIssue)
  | max (i : TileIssue)
  | min (i : TileIssue)
  | abs (i : TileIssue)
  | neg (i : TileIssue)
  | fill (i : TileIssue)
  | exp2 (i : TileIssue)
  | exp (i : TileIssue)
  | log2 (i : TileIssue)
  | recip (i : TileIssue)
  | rsqrt (i : TileIssue)
  | sqrt (i : TileIssue)
  | tanh (i : TileIssue)
  | sigmoid (i : TileIssue)
  | silu (i : TileIssue)
  | geluTanh (i : TileIssue)
  | sin (i : TileIssue)
  | cos (i : TileIssue)
  | rotary (i : TileIssue)
  | rsum (i : TileIssue)
  | rmax (i : TileIssue)
  | rmin (i : TileIssue)
  | rsumsq (i : TileIssue)
  | ramax (i : TileIssue)
  | scanSum (i : TileIssue)
  | scanMax (i : TileIssue)
  | scanMin (i : TileIssue)
  | scanLin (i : TileIssue)
  | softmax (i : TileIssue)
  | smState (i : TileIssue)
  | smMerge (i : TileIssue)
  | smRescale (i : TileIssue)
  | smFinal (i : TileIssue)
  | smBwd (i : TileIssue)
  | rmsnorm (i : TileIssue)
  | layernorm (i : TileIssue)
  | topk (i : TileIssue)
  | sortByNnz (i : TileIssue)
  | gather (i : TileIssue)
  | scatter (i : TileIssue)
  | scatterAdd (i : TileIssue)
  | dropout (i : TileIssue)
  | random (i : TileIssue)
  | spdInverse (i : TileIssue)
  | xferRead (i : TileIssue) (ecc : List EccErr)
  | xferWrite (i : TileIssue)
  | xferSend (i : TileIssue)
  | handoff (i : TileIssue)
  | bufRead (i : TileIssue) (ecc : List EccErr)
  | serviceWindow (k : MemPart)
  | lauterWindow (k : Fin 8)
  | poolWindow (k : Fin 8) (pool : Fin 16)
  | refWindow (k : Fin 8)
  | rfmWindow (k : Fin 8)
  | memRequestServe (k : MemPart)
  | codewordRx (p : Fin 12) (cw : Codeword)
  | headCell (sw : Sw) (input : Fin 32) (loss : Nat)
  | bodyCell (sw : Sw) (input : Fin 32) (loss : Nat)
  | beHeadCell (sw : Sw) (input : Fin 32) (loss : Nat)
  | beInject (t : Fin 128)
  | reduceCombine (sw : Sw) (channel : BitVec 16)
  | lnkEnable (p : Fin 12) (w : RegW)
  | lnkDisable (p : Fin 12) (w : RegW)
  | autoRetrain (p : Fin 12) (w : RegW)
  | portAdmit (p : Fin 12) (w : RegW)
  | portTrained (p : Fin 12) (peerHall : BitVec 16) (peerValid : Bool) (peerPort : BitVec 4)
  | portDown (p : Fin 12) (cause : DownCause)
  | retrainTimer (p : Fin 12)
  | swxHallIdWrite (w : RegW)
  | peerIdMessage (p : Fin 12) (peerHall : BitVec 16) (peerValid : Bool) (peerPort : BitVec 4)
  | allocRequest (r : AllocReq)
  | allocComplete
  | release (unit : BitVec 16) (buffer : BitVec 16)
  | bankOnRequest (t : Fin 128) (b : Fin 16)
  | bankRetentionRequest (t : Fin 128) (b : Fin 16)
  | bankOffRequest (t : Fin 128) (b : Fin 16)
  | bankTransitionDone (t : Fin 128) (b : Fin 16)
  | dispatch (w : Issue)
  | returnRows (w : LtrIssue)
  | gradOut (w : LtrIssue)
  | gradReturn (w : LtrIssue)
  | lauterChoiceDepart (channel : ChoiceRead)
  | runShort (channel : BitVec 16)
  | lauterPartArrival
  | gradArrival
  | returnArrival
  | quotaSwap (w : RegW)
  | ltrTabWrite (w : RegW)
  | handoffRecord (k : Fin 8)
  | update (k : Fin 8) (w : Issue) (ecc : List EccErr)
  | hyperSwap (k : Fin 8) (w : RegW)
  | klnTabWrite (k : Fin 8) (w : RegW)
  | openRack (k : Fin 8) (w : Issue)
  | rackSend (k : Fin 8) (w : Issue) (ecc : List EccErr)
  | rackChunkDepart (k : Fin 8) (channel : BitVec 16)
  | closeRack (k : Fin 8) (w : Issue)
  | rackPartArrival
  | rackTabWrite (w : RegW)
  | bar2Read (off : BitVec 36) (len : Nat)
  | bar2Write (off : BitVec 36) (data : List Byte)
  | lqSqTail (q : Fin 16) (w : RegW)
  | lqCqHead (q : Fin 16) (w : RegW)
  | lqDescriptor (q : Fin 16) (entry : BitVec 256) (host : HostRead)
  | lqCompletion (q : Fin 16)
  | lqEnable (q : Fin 16) (w : RegW)
  | lqDisable (q : Fin 16) (w : RegW)
  | flr
  | powerStateChange (d3hot : Bool)
  | pcieLinkUp (speed : LinkSpeed) (width : LinkWidth) (flit : Bool) (cfg : PcieCfg)
  | featAccept (w : RegW)
  | featClose (w : RegW)
  | inputSample (v : BitVec 16) (i : BitVec 16)
  | powerRestart
  | hardStop (c : StopCause)
  | faultCellRx (p : Fin 12) (data : BitVec 320)
  | sensorSample (die : List Int) (stks : List Int) (coolant : Int)
  | zoneRailSample (mv : List Nat) (da : List Nat)
  | zoneLimitClear (z : Fin 8)
  | coolantHigh
  | energyWindow (energy : Nat)
  | ballastDescentStep
  | opReq (z : Fin 8) (w : RegW)
  | zonePointStep
  | lcApply (w : RegW)
  | svnCommit (w : RegW)
  | recWrite (w : RegW)
  | tamper (c : TamperSource)
  | tamperEnd
  | lmsTreeGenerated
  | getVersion
  | getCapabilities
  | negotiateAlgorithms
  | getDigests
  | getCertificate (offset : BitVec 16) (length : BitVec 16)
  | challenge (nonce : BitVec 256)
  | getMeasurements (nonce : BitVec 256)
  | vendorDefinedRequest (handle : BitVec 128)
  | pmbusPage (page : BitVec 8)
  | clearFaults
  | statusWord
  | statusInput
  | statusTemperature
  | readVin
  | readIin
  | readVout
  | readIout
  | readTemperature1
  | readTemperature2
  | readPin
  | pmbusRevision
  | mfrId
  | pmbusUnsupported (code : BitVec 8) (isWrite : Bool)
  | powerOn
  | perstAssert
  | perstRelease
  | moduleReset (w : RegW)
  | coreReset (w : RegW)
  | fabricReset (w : RegW)
  | coreDone
  | fabricDone
  | auxRailsUp (addr0 : Fin 3) (addr1 : Fin 3) (addr2 : Fin 3)
  | bootVerify
  | firmwareStart
  | selftestBlockDone (r : TestResult)
  | hbmTrainingDone (k : Fin 8) (r : TestResult)
  | ready
  | shutdown (w : RegW)
  | selftestRecordWrite
  | retest (w : RegW)
  | bar2Resize (log2GiB : Fin 7)
  | hifCplTimeout (q : Fin 16)
  | doeDiscovery (index : BitVec 8)
  | managementRequest (c : FCell)
deriving DecidableEq, Repr

end Sys2Proof
end

