-- ==== Sys2Proof/Config.lean ====
section
/-! DEFINITION. What one part fixes at its factory, and the free values: constants with no body, so that nothing can be proved
of them but that they are the same each time. -/
namespace Sys2Proof

/-- A value that the spec leaves open, the `n`-th drawn (log 5). -/
opaque Config.freeReg : Nat → BitVec 64

/-- The errors of a stack that an access without an operand for them meets, the `n`-th value drawn (R329; log 5). -/
opaque Config.eccMet : Nat → List EccErr

/-- GLB_DEVICE.STEPPING, "per part" (R417). -/
opaque Config.stepping : BitVec 8

/-- HTM_PORT_TRIM of a port, "factory" (R49). -/
opaque Config.portTrim : Nat → BitVec 16

/-- SEC_SERIAL, from OTP (R388). -/
opaque Config.serial : BitVec 64

/-- Trellek's vendor ID in PCI Express, which the spec does not give (R334). -/
opaque Config.vendorId : BitVec 16

/-- The unique device secret of the fuses, and the measurement of the boot ROM (R372, R375, R383). -/
opaque Config.uds : BitVec 384
opaque Config.romMeasure : BitVec 384

/-- The key that the DICE engine derives from CDI0 for the self-test record (R398), and CDI1 from CDI0 and the first-stage
measurement (R383): TCG DICE layering, which the spec names and does not define (log 8). -/
opaque Config.recordKey : (cdi0 : BitVec 384) → BitVec 384
opaque Config.nextCdi : (cdi0 : BitVec 384) → (measure : BitVec 384) → BitVec 384

/-- The bytes of flash as the factory left them (log 7). -/
opaque Config.factoryFlash : Nat → BitVec 8

/-- Where a slot holds its Zhexal image, from the LENGTH of its first stage: the spec says the same slot and no place (log 65). -/
opaque Config.zhexalPlace : Nat → Nat

/-- The DeviceID key that the DICE engine derives from CDI0, and the Alias key from CDI1 (R383; log 8). -/
opaque Config.deviceKey : (cdi0 : BitVec 384) → BitVec 384
opaque Config.aliasKey : (cdi1 : BitVec 384) → BitVec 384

/-- An ECDSA P-384 signature by a key, r and s of 48 bytes each: the standard leaves each signature's random number open (R386; log 8). -/
opaque Config.ecdsaSign : (key : BitVec 384) → (msg : List (BitVec 8)) → List (BitVec 8)

/-- The length of the certificate of the DeviceID key in flash, and the certificate that a key issues for another: the spec gives neither
(R383; log 8). -/
opaque Config.deviceCertLen : Nat
opaque Config.issueCert : (signer subject : BitVec 384) → List (BitVec 8)

/-- An LMS signature of the level-1 tree that CDI0 gives, by a leaf; the public key of the level-2 tree that a seed gives; and an LMS
signature of that tree by a leaf: how the trees follow from CDI0 and from the seed the spec does not say (R384; log 8). -/
opaque Config.lms1Sign : (cdi0 : BitVec 384) → (leaf : Nat) → (msg : List (BitVec 8)) → List (BitVec 8)
opaque Config.lms2Key : (seed : BitVec 256) → List (BitVec 8)
opaque Config.lms2Sign : (seed : BitVec 256) → (leaf : Nat) → (msg : List (BitVec 8)) → List (BitVec 8)

/-- Whether the third pass of the `n`-th wipe still reads a word that is not zero (R381; log 66). -/
opaque Config.wipeFails : Nat → Bool

/-- What MFR_ID answers (R368): the spec gives no string. -/
opaque Config.mfrId : List (BitVec 8)

/-- SEC_LC_NONCE as the first start draws it (R378). -/
opaque Config.firstNonce : BitVec 64

/-- The digests of Trellek's two root keys, VENDOR_ECDSA_HASH and VENDOR_LMS_HASH (R372, R373). -/
opaque Config.trellekEcdsa : BitVec 384
opaque Config.trellekLms : BitVec 384

/-- The root correction that the proportional-integral servo of R37 applies after a combined offset, from that offset, the sum of the
offsets up to it and the last correction, in 10^-12: the spec gives its time constant and not its gains (log 9). -/
opaque Config.servo : (offset sum last : Int) → Int

/-- The magnitude of the filtered combined offset in ps that R45 adds to 60 ps: the filter is not given (log 9). -/
opaque Config.filtered : (offset : Int) → (last : Int) → Int

/-- Bytes between the metadata rows that the mill writes, as a multiple of 16 less one: R140 gives the rows and not their distance
(log 25). -/
opaque Config.millMetaStride : BitVec 12

/-- The block scale of a block, and the tensor scale, by which the mill ranks the elements of a scaled tile, from its descriptor and
the tile's scratchpad: the descriptor names no place for them, and the same inputs give the same scales (R25, R139; log 28). -/
opaque Config.millScale : (desc : BitVec 512) → (scratchpad : List (Nat × BitVec 8)) → (block : Nat) → BitVec 8
opaque Config.millTensorScale : (desc : BitVec 512) → (scratchpad : List (Nat × BitVec 8)) → BitVec 32

/-- Trays of the hall along X, Y and Z, each 1 to 16 (R231): no register of the module holds them (log 36). -/
opaque Config.hallSize : Fin 3 → Nat

end Sys2Proof
end

