-- ==== Sys2Proof/Machine/Pages.lean ====
section
/-! DEFINITION. Where the pages lie in BAR0 (R415, R416), and the shape of a register-table row. -/
namespace Sys2Proof.Machine

/-- A field of a register of a page: the register's offset in its page, and bits [hi:lo]. -/
structure Fld where
  off : Nat
  hi : Nat
  lo : Nat
deriving DecidableEq, Repr

/-- A register's offset in its page and the masks of its RW, RWL, W1C and WO bits; every other bit is RO (R3). -/
structure RegInfo where
  off : Nat
  rw : Nat
  rwl : Nat
  w1c : Nat
  wo : Nat
deriving DecidableEq, Repr

/-- BAR0 offset of a page (R415, R416). -/
def pageBase : Page → Nat
  | .glb => 0x0000_0000 | .hif => 0x0000_1000 | .irq => 0x0000_2000 | .htm => 0x0000_3000
  | .sch => 0x0000_4000 | .pwr => 0x0000_5000 | .thm => 0x0000_6000 | .sec => 0x0000_7000
  | .bst => 0x0000_8000 | .hyd => 0x0000_9000 | .ltr => 0x0000_A000 | .coop => 0x0000_B000
  | .swx => 0x0000_C000 | .rack => 0x0000_D000
  | .zn z => 0x0001_0000 + z.val * 0x1000
  | .kln k => 0x0002_0000 + k.val * 0x1000
  | .mem k => 0x0003_0000 + k.val * 0x1000
  | .lnk p => 0x0004_0000 + p.val * 0x1000
  | .tctl t => 0x0100_0000 + t.val * 0x1_0000
  | .tarr t => 0x0100_1000 + t.val * 0x1_0000
  | .tvec t => 0x0100_2000 + t.val * 0x1_0000
  | .tmil t => 0x0100_3000 + t.val * 0x1_0000
  | .tspd t => 0x0100_4000 + t.val * 0x1_0000

/-- The number a page has in its kind: zone, kiln, controller, port or tile (R411). -/
def pageNumber : Page → Nat
  | .zn z => z.val | .kln k => k.val | .mem k => k.val | .lnk p => p.val
  | .tctl t => t.val | .tarr t => t.val | .tvec t => t.val | .tmil t => t.val | .tspd t => t.val
  | _ => 0

/-- Order of pages for interrupt messages: chip page index, then tile pages by tile and window offset (R415, R420). -/
def pageOrder : Page → Nat
  | .glb => 0 | .hif => 1 | .irq => 2 | .htm => 3 | .sch => 4 | .pwr => 5 | .thm => 6 | .sec => 7 | .bst => 8
  | .hyd => 9 | .ltr => 10 | .coop => 11 | .swx => 12 | .rack => 13
  | .zn z => 14 + z.val | .kln k => 22 + k.val | .mem k => 30 + k.val | .lnk p => 38 + p.val
  | .tctl t => 50 + 5 * t.val | .tarr t => 51 + 5 * t.val | .tvec t => 52 + 5 * t.val
  | .tmil t => 53 + 5 * t.val | .tspd t => 54 + 5 * t.val

/-- The tile of a tile page. -/
def pageTile : Page → Option (Fin 128)
  | .tctl t | .tarr t | .tvec t | .tmil t | .tspd t => some t
  | _ => none

/-- The tile page at 4 KiB place `q` of the window of tile `t` (R416). -/
def tilePageAt (t : Fin 128) (q : Nat) : Option Page :=
  match q with
  | 0 => some (.tctl t) | 1 => some (.tarr t) | 2 => some (.tvec t) | 3 => some (.tmil t) | 4 => some (.tspd t)
  | _ => none

/-- The chip page at 4 KiB place `q`, for the first fourteen pages. -/
def chipPageAt (q : Nat) : Option Page :=
  match q with
  | 0 => some .glb | 1 => some .hif | 2 => some .irq | 3 => some .htm | 4 => some .sch | 5 => some .pwr
  | 6 => some .thm | 7 => some .sec | 8 => some .bst | 9 => some .hyd | 10 => some .ltr | 11 => some .coop
  | 12 => some .swx | 13 => some .rack
  | _ => none

/-- The page that holds a BAR0 offset, where the map of R415 and R416 assigns one (R407). -/
def pageAt (off : Nat) : Option Page :=
  let q := off / 0x1000 % 16
  match off / 0x1_0000 with
  | 0 => chipPageAt q
  | 1 => if h : q < 8 then some (.zn ⟨q, h⟩) else none
  | 2 => if h : q < 8 then some (.kln ⟨q, h⟩) else none
  | 3 => if h : q < 8 then some (.mem ⟨q, h⟩) else none
  | 4 => if h : q < 12 then some (.lnk ⟨q, h⟩) else none
  | w => if h : 256 ≤ w ∧ w < 384 then tilePageAt ⟨w - 256, by omega⟩ q else none

end Sys2Proof.Machine
end

