-- ==== Sys2Proof/Machine/RegTable.lean ====
section
/-! DEFINITION. The register tables of the spec, page by page: every field, event bit and counter under its own name, and for
each register which bits take a write (RW, RWL, W1C) and which act (WO).  R3, R408, R410. -/
namespace Sys2Proof.Machine

/-! GLB page (R417). -/
def GLB.CTRL_MODULE_RESET : Fld := ⟨0x010, 0, 0⟩
def GLB.CTRL_CORE_RESET : Fld := ⟨0x010, 1, 1⟩
def GLB.CTRL_FABRIC_RESET : Fld := ⟨0x010, 2, 2⟩
def GLB.STATUS_READY : Fld := ⟨0x018, 0, 0⟩
def GLB.STATUS_CLOSED : Fld := ⟨0x018, 1, 1⟩
def GLB.STATUS_TIMED_READY : Fld := ⟨0x018, 2, 2⟩
def GLB.STATUS_ALERT : Fld := ⟨0x018, 3, 3⟩
def GLB.STATUS_RESET_BUSY : Fld := ⟨0x018, 4, 4⟩
def GLB.EV_TIMED_READY_LOST : Nat := 0
def GLB.EV_FEAT_CLOSED : Nat := 1
def GLB.TIMED_READY_LOST_CNT : Fld := ⟨0x040, 63, 0⟩
def GLB.FEAT_OFFER : Fld := ⟨0x100, 15, 0⟩
def GLB.FEAT_ACCEPT : Fld := ⟨0x108, 15, 0⟩
def GLB.FEAT_CLOSE : Fld := ⟨0x110, 0, 0⟩
def GLB.FEAT_ACTIVE : Fld := ⟨0x118, 15, 0⟩
def GLB.DEVICE : Fld := ⟨0x120, 63, 0⟩
def GLB.DEVICE_DEVICE : Fld := ⟨0x120, 15, 0⟩
def GLB.DEVICE_STEPPING : Fld := ⟨0x120, 23, 16⟩
def GLB.DEVICE_PACKAGE : Fld := ⟨0x120, 31, 24⟩
def GLB.PART0 : Fld := ⟨0x128, 63, 0⟩
def GLB.PART1 : Fld := ⟨0x130, 63, 0⟩
def GLB.SCRATCH : Fld := ⟨0x138, 63, 0⟩
def GLB.EVENT_SUM : Fld := ⟨0x140, 49, 0⟩
def GLB.TILE_SUM0 : Fld := ⟨0x148, 63, 0⟩
def GLB.TILE_SUM1 : Fld := ⟨0x150, 63, 0⟩

def GLB.regs0 : List RegInfo := [
  ⟨0x000, 0x0, 0x0, 0x0, 0x0⟩, ⟨0x008, 0x0, 0x0, 0x0, 0x0⟩, ⟨0x010, 0x0, 0x0, 0x0, 0x8000000000000007⟩,
  ⟨0x018, 0x0, 0x0, 0x0, 0x0⟩, ⟨0x020, 0x0, 0x0, 0x3, 0x0⟩, ⟨0x028, 0x3, 0x0, 0x0, 0x0⟩,
  ⟨0x030, 0x0, 0x0, 0x0, 0x0⟩, ⟨0x038, 0x0, 0x0, 0x0, 0x0⟩, ⟨0x040, 0x0, 0x0, 0x0, 0x0⟩,
  ⟨0x100, 0x0, 0x0, 0x0, 0x0⟩, ⟨0x108, 0xffff, 0x0, 0x0, 0x0⟩, ⟨0x110, 0x0, 0x0, 0x0, 0x1⟩,
  ⟨0x118, 0x0, 0x0, 0x0, 0x0⟩, ⟨0x120, 0x0, 0x0, 0x0, 0x0⟩, ⟨0x128, 0x0, 0x0, 0x0, 0x0⟩,
  ⟨0x130, 0x0, 0x0, 0x0, 0x0⟩, ⟨0x138, 0xffffffffffffffff, 0x0, 0x0, 0x0⟩, ⟨0x140, 0x0, 0x0, 0x0, 0x0⟩,
  ⟨0x148, 0x0, 0x0, 0x0, 0x0⟩, ⟨0x150, 0x0, 0x0, 0x0, 0x0⟩]
/-- The registers of a GLB page (R417, R410). -/
def GLB.regs : List RegInfo := GLB.regs0

/-! HIF page (R350). -/
def HIF.STATUS_SPEED : Fld := ⟨0x018, 2, 0⟩
def HIF.STATUS_WIDTH : Fld := ⟨0x018, 7, 4⟩
def HIF.STATUS_FLIT : Fld := ⟨0x018, 8, 8⟩
def HIF.STATUS_CLOSED : Fld := ⟨0x018, 9, 9⟩
def HIF.STATUS_BAR2_SIZE : Fld := ⟨0x018, 14, 12⟩
def HIF.STATUS_LQ_ACTIVE : Fld := ⟨0x018, 31, 16⟩
def HIF.EV_LINK_DOWNGRADE : Nat := 0
def HIF.EV_BAD_ACCESS : Nat := 1
def HIF.EV_FEAT_IGNORED : Nat := 2
def HIF.EV_LQ_ERROR : Nat := 3
def HIF.EV_LQ_LATE : Nat := 4
def HIF.EV_FLR : Nat := 5
def HIF.BAD_ACCESS_CNT : Fld := ⟨0x040, 63, 0⟩
def HIF.FEAT_IGNORED_CNT : Fld := ⟨0x048, 63, 0⟩
def HIF.LQ_DESC_CNT : Fld := ⟨0x050, 63, 0⟩
def HIF.LQ_BYTES_CNT : Fld := ⟨0x058, 63, 0⟩
def HIF.LQ_ERR_CNT : Fld := ⟨0x060, 63, 0⟩
def HIF.LQ_LATE_CNT : Fld := ⟨0x068, 63, 0⟩
def HIF.DOORBELL_BAD_CNT : Fld := ⟨0x070, 63, 0⟩
def HIF.POISON_RD_CNT : Fld := ⟨0x078, 63, 0⟩
def HIF.BAR2_BASE : Fld := ⟨0x100, 63, 30⟩
def HIF.CPL_TIMEOUT : Fld := ⟨0x108, 31, 0⟩
def HIF.LQ_CTRL (i : Nat) : Fld := ⟨0x200 + 0x40 * i, 63, 0⟩
def HIF.LQ_CTRL_ENABLE (i : Nat) : Fld := ⟨0x200 + 0x40 * i, 0, 0⟩
def HIF.LQ_CTRL_VECTOR (i : Nat) : Fld := ⟨0x200 + 0x40 * i, 13, 8⟩
def HIF.LQ_CTRL_SQ_LOG (i : Nat) : Fld := ⟨0x200 + 0x40 * i, 20, 16⟩
def HIF.LQ_CTRL_CQ_LOG (i : Nat) : Fld := ⟨0x200 + 0x40 * i, 28, 24⟩
def HIF.LQ_SQ_BASE (i : Nat) : Fld := ⟨0x208 + 0x40 * i, 63, 12⟩
def HIF.LQ_CQ_BASE (i : Nat) : Fld := ⟨0x210 + 0x40 * i, 63, 12⟩
def HIF.LQ_SQ_TAIL (i : Nat) : Fld := ⟨0x218 + 0x40 * i, 15, 0⟩
def HIF.LQ_SQ_HEAD (i : Nat) : Fld := ⟨0x220 + 0x40 * i, 15, 0⟩
def HIF.LQ_CQ_HEAD (i : Nat) : Fld := ⟨0x228 + 0x40 * i, 15, 0⟩
def HIF.LQ_CQ_TAIL (i : Nat) : Fld := ⟨0x230 + 0x40 * i, 15, 0⟩
def HIF.MSIX_TABLE (i : Nat) : Fld := ⟨0x800 + 0x8 * i, 63, 0⟩
def HIF.MSIX_PBA : Fld := ⟨0xc00, 63, 0⟩

def HIF.regs0 : List RegInfo := [
  ⟨0x000, 0x0, 0x0, 0x0, 0x0⟩, ⟨0x008, 0x0, 0x0, 0x0, 0x0⟩, ⟨0x010, 0x0, 0x0, 0x0, 0x8000000000000000⟩,
  ⟨0x018, 0x0, 0x0, 0x0, 0x0⟩, ⟨0x020, 0x0, 0x0, 0x3f, 0x0⟩, ⟨0x028, 0x3f, 0x0, 0x0, 0x0⟩,
  ⟨0x030, 0x0, 0x0, 0x0, 0x0⟩, ⟨0x038, 0x0, 0x0, 0x0, 0x0⟩, ⟨0x040, 0x0, 0x0, 0x0, 0x0⟩,
  ⟨0x048, 0x0, 0x0, 0x0, 0x0⟩, ⟨0x050, 0x0, 0x0, 0x0, 0x0⟩, ⟨0x058, 0x0, 0x0, 0x0, 0x0⟩,
  ⟨0x060, 0x0, 0x0, 0x0, 0x0⟩, ⟨0x068, 0x0, 0x0, 0x0, 0x0⟩, ⟨0x070, 0x0, 0x0, 0x0, 0x0⟩,
  ⟨0x078, 0x0, 0x0, 0x0, 0x0⟩, ⟨0x100, 0xffffffffc0000000, 0x0, 0x0, 0x0⟩, ⟨0x108, 0x0, 0xffffffff, 0x0, 0x0⟩,
  ⟨0x200, 0x0, 0x1f1f3f01, 0x0, 0x0⟩, ⟨0x208, 0x0, 0xfffffffffffff000, 0x0, 0x0⟩, ⟨0x210, 0x0, 0xfffffffffffff000, 0x0, 0x0⟩,
  ⟨0x218, 0xffff, 0x0, 0x0, 0x0⟩, ⟨0x220, 0x0, 0x0, 0x0, 0x0⟩, ⟨0x228, 0xffff, 0x0, 0x0, 0x0⟩]
def HIF.regs1 : List RegInfo := [
  ⟨0x230, 0x0, 0x0, 0x0, 0x0⟩, ⟨0x240, 0x0, 0x1f1f3f01, 0x0, 0x0⟩, ⟨0x248, 0x0, 0xfffffffffffff000, 0x0, 0x0⟩,
  ⟨0x250, 0x0, 0xfffffffffffff000, 0x0, 0x0⟩, ⟨0x258, 0xffff, 0x0, 0x0, 0x0⟩, ⟨0x260, 0x0, 0x0, 0x0, 0x0⟩,
  ⟨0x268, 0xffff, 0x0, 0x0, 0x0⟩, ⟨0x270, 0x0, 0x0, 0x0, 0x0⟩, ⟨0x280, 0x0, 0x1f1f3f01, 0x0, 0x0⟩,
  ⟨0x288, 0x0, 0xfffffffffffff000, 0x0, 0x0⟩, ⟨0x290, 0x0, 0xfffffffffffff000, 0x0, 0x0⟩, ⟨0x298, 0xffff, 0x0, 0x0, 0x0⟩,
  ⟨0x2a0, 0x0, 0x0, 0x0, 0x0⟩, ⟨0x2a8, 0xffff, 0x0, 0x0, 0x0⟩, ⟨0x2b0, 0x0, 0x0, 0x0, 0x0⟩,
  ⟨0x2c0, 0x0, 0x1f1f3f01, 0x0, 0x0⟩, ⟨0x2c8, 0x0, 0xfffffffffffff000, 0x0, 0x0⟩, ⟨0x2d0, 0x0, 0xfffffffffffff000, 0x0, 0x0⟩,
  ⟨0x2d8, 0xffff, 0x0, 0x0, 0x0⟩, ⟨0x2e0, 0x0, 0x0, 0x0, 0x0⟩, ⟨0x2e8, 0xffff, 0x0, 0x0, 0x0⟩,
  ⟨0x2f0, 0x0, 0x0, 0x0, 0x0⟩, ⟨0x300, 0x0, 0x1f1f3f01, 0x0, 0x0⟩, ⟨0x308, 0x0, 0xfffffffffffff000, 0x0, 0x0⟩]
def HIF.regs2 : List RegInfo := [
  ⟨0x310, 0x0, 0xfffffffffffff000, 0x0, 0x0⟩, ⟨0x318, 0xffff, 0x0, 0x0, 0x0⟩, ⟨0x320, 0x0, 0x0, 0x0, 0x0⟩,
  ⟨0x328, 0xffff, 0x0, 0x0, 0x0⟩, ⟨0x330, 0x0, 0x0, 0x0, 0x0⟩, ⟨0x340, 0x0, 0x1f1f3f01, 0x0, 0x0⟩,
  ⟨0x348, 0x0, 0xfffffffffffff000, 0x0, 0x0⟩, ⟨0x350, 0x0, 0xfffffffffffff000, 0x0, 0x0⟩, ⟨0x358, 0xffff, 0x0, 0x0, 0x0⟩,
  ⟨0x360, 0x0, 0x0, 0x0, 0x0⟩, ⟨0x368, 0xffff, 0x0, 0x0, 0x0⟩, ⟨0x370, 0x0, 0x0, 0x0, 0x0⟩,
  ⟨0x380, 0x0, 0x1f1f3f01, 0x0, 0x0⟩, ⟨0x388, 0x0, 0xfffffffffffff000, 0x0, 0x0⟩, ⟨0x390, 0x0, 0xfffffffffffff000, 0x0, 0x0⟩,
  ⟨0x398, 0xffff, 0x0, 0x0, 0x0⟩, ⟨0x3a0, 0x0, 0x0, 0x0, 0x0⟩, ⟨0x3a8, 0xffff, 0x0, 0x0, 0x0⟩,
  ⟨0x3b0, 0x0, 0x0, 0x0, 0x0⟩, ⟨0x3c0, 0x0, 0x1f1f3f01, 0x0, 0x0⟩, ⟨0x3c8, 0x0, 0xfffffffffffff000, 0x0, 0x0⟩,
  ⟨0x3d0, 0x0, 0xfffffffffffff000, 0x0, 0x0⟩, ⟨0x3d8, 0xffff, 0x0, 0x0, 0x0⟩, ⟨0x3e0, 0x0, 0x0, 0x0, 0x0⟩]
def HIF.regs3 : List RegInfo := [
  ⟨0x3e8, 0xffff, 0x0, 0x0, 0x0⟩, ⟨0x3f0, 0x0, 0x0, 0x0, 0x0⟩, ⟨0x400, 0x0, 0x1f1f3f01, 0x0, 0x0⟩,
  ⟨0x408, 0x0, 0xfffffffffffff000, 0x0, 0x0⟩, ⟨0x410, 0x0, 0xfffffffffffff000, 0x0, 0x0⟩, ⟨0x418, 0xffff, 0x0, 0x0, 0x0⟩,
  ⟨0x420, 0x0, 0x0, 0x0, 0x0⟩, ⟨0x428, 0xffff, 0x0, 0x0, 0x0⟩, ⟨0x430, 0x0, 0x0, 0x0, 0x0⟩,
  ⟨0x440, 0x0, 0x1f1f3f01, 0x0, 0x0⟩, ⟨0x448, 0x0, 0xfffffffffffff000, 0x0, 0x0⟩, ⟨0x450, 0x0, 0xfffffffffffff000, 0x0, 0x0⟩,
  ⟨0x458, 0xffff, 0x0, 0x0, 0x0⟩, ⟨0x460, 0x0, 0x0, 0x0, 0x0⟩, ⟨0x468, 0xffff, 0x0, 0x0, 0x0⟩,
  ⟨0x470, 0x0, 0x0, 0x0, 0x0⟩, ⟨0x480, 0x0, 0x1f1f3f01, 0x0, 0x0⟩, ⟨0x488, 0x0, 0xfffffffffffff000, 0x0, 0x0⟩,
  ⟨0x490, 0x0, 0xfffffffffffff000, 0x0, 0x0⟩, ⟨0x498, 0xffff, 0x0, 0x0, 0x0⟩, ⟨0x4a0, 0x0, 0x0, 0x0, 0x0⟩,
  ⟨0x4a8, 0xffff, 0x0, 0x0, 0x0⟩, ⟨0x4b0, 0x0, 0x0, 0x0, 0x0⟩, ⟨0x4c0, 0x0, 0x1f1f3f01, 0x0, 0x0⟩]
def HIF.regs4 : List RegInfo := [
  ⟨0x4c8, 0x0, 0xfffffffffffff000, 0x0, 0x0⟩, ⟨0x4d0, 0x0, 0xfffffffffffff000, 0x0, 0x0⟩, ⟨0x4d8, 0xffff, 0x0, 0x0, 0x0⟩,
  ⟨0x4e0, 0x0, 0x0, 0x0, 0x0⟩, ⟨0x4e8, 0xffff, 0x0, 0x0, 0x0⟩, ⟨0x4f0, 0x0, 0x0, 0x0, 0x0⟩,
  ⟨0x500, 0x0, 0x1f1f3f01, 0x0, 0x0⟩, ⟨0x508, 0x0, 0xfffffffffffff000, 0x0, 0x0⟩, ⟨0x510, 0x0, 0xfffffffffffff000, 0x0, 0x0⟩,
  ⟨0x518, 0xffff, 0x0, 0x0, 0x0⟩, ⟨0x520, 0x0, 0x0, 0x0, 0x0⟩, ⟨0x528, 0xffff, 0x0, 0x0, 0x0⟩,
  ⟨0x530, 0x0, 0x0, 0x0, 0x0⟩, ⟨0x540, 0x0, 0x1f1f3f01, 0x0, 0x0⟩, ⟨0x548, 0x0, 0xfffffffffffff000, 0x0, 0x0⟩,
  ⟨0x550, 0x0, 0xfffffffffffff000, 0x0, 0x0⟩, ⟨0x558, 0xffff, 0x0, 0x0, 0x0⟩, ⟨0x560, 0x0, 0x0, 0x0, 0x0⟩,
  ⟨0x568, 0xffff, 0x0, 0x0, 0x0⟩, ⟨0x570, 0x0, 0x0, 0x0, 0x0⟩, ⟨0x580, 0x0, 0x1f1f3f01, 0x0, 0x0⟩,
  ⟨0x588, 0x0, 0xfffffffffffff000, 0x0, 0x0⟩, ⟨0x590, 0x0, 0xfffffffffffff000, 0x0, 0x0⟩, ⟨0x598, 0xffff, 0x0, 0x0, 0x0⟩]
def HIF.regs5 : List RegInfo := [
  ⟨0x5a0, 0x0, 0x0, 0x0, 0x0⟩, ⟨0x5a8, 0xffff, 0x0, 0x0, 0x0⟩, ⟨0x5b0, 0x0, 0x0, 0x0, 0x0⟩,
  ⟨0x5c0, 0x0, 0x1f1f3f01, 0x0, 0x0⟩, ⟨0x5c8, 0x0, 0xfffffffffffff000, 0x0, 0x0⟩, ⟨0x5d0, 0x0, 0xfffffffffffff000, 0x0, 0x0⟩,
  ⟨0x5d8, 0xffff, 0x0, 0x0, 0x0⟩, ⟨0x5e0, 0x0, 0x0, 0x0, 0x0⟩, ⟨0x5e8, 0xffff, 0x0, 0x0, 0x0⟩,
  ⟨0x5f0, 0x0, 0x0, 0x0, 0x0⟩, ⟨0x800, 0xffffffffffffffff, 0x0, 0x0, 0x0⟩, ⟨0x808, 0xffffffffffffffff, 0x0, 0x0, 0x0⟩,
  ⟨0x810, 0xffffffffffffffff, 0x0, 0x0, 0x0⟩, ⟨0x818, 0xffffffffffffffff, 0x0, 0x0, 0x0⟩, ⟨0x820, 0xffffffffffffffff, 0x0, 0x0, 0x0⟩,
  ⟨0x828, 0xffffffffffffffff, 0x0, 0x0, 0x0⟩, ⟨0x830, 0xffffffffffffffff, 0x0, 0x0, 0x0⟩, ⟨0x838, 0xffffffffffffffff, 0x0, 0x0, 0x0⟩,
  ⟨0x840, 0xffffffffffffffff, 0x0, 0x0, 0x0⟩, ⟨0x848, 0xffffffffffffffff, 0x0, 0x0, 0x0⟩, ⟨0x850, 0xffffffffffffffff, 0x0, 0x0, 0x0⟩,
  ⟨0x858, 0xffffffffffffffff, 0x0, 0x0, 0x0⟩, ⟨0x860, 0xffffffffffffffff, 0x0, 0x0, 0x0⟩, ⟨0x868, 0xffffffffffffffff, 0x0, 0x0, 0x0⟩]
def HIF.regs6 : List RegInfo := [
  ⟨0x870, 0xffffffffffffffff, 0x0, 0x0, 0x0⟩, ⟨0x878, 0xffffffffffffffff, 0x0, 0x0, 0x0⟩, ⟨0x880, 0xffffffffffffffff, 0x0, 0x0, 0x0⟩,
  ⟨0x888, 0xffffffffffffffff, 0x0, 0x0, 0x0⟩, ⟨0x890, 0xffffffffffffffff, 0x0, 0x0, 0x0⟩, ⟨0x898, 0xffffffffffffffff, 0x0, 0x0, 0x0⟩,
  ⟨0x8a0, 0xffffffffffffffff, 0x0, 0x0, 0x0⟩, ⟨0x8a8, 0xffffffffffffffff, 0x0, 0x0, 0x0⟩, ⟨0x8b0, 0xffffffffffffffff, 0x0, 0x0, 0x0⟩,
  ⟨0x8b8, 0xffffffffffffffff, 0x0, 0x0, 0x0⟩, ⟨0x8c0, 0xffffffffffffffff, 0x0, 0x0, 0x0⟩, ⟨0x8c8, 0xffffffffffffffff, 0x0, 0x0, 0x0⟩,
  ⟨0x8d0, 0xffffffffffffffff, 0x0, 0x0, 0x0⟩, ⟨0x8d8, 0xffffffffffffffff, 0x0, 0x0, 0x0⟩, ⟨0x8e0, 0xffffffffffffffff, 0x0, 0x0, 0x0⟩,
  ⟨0x8e8, 0xffffffffffffffff, 0x0, 0x0, 0x0⟩, ⟨0x8f0, 0xffffffffffffffff, 0x0, 0x0, 0x0⟩, ⟨0x8f8, 0xffffffffffffffff, 0x0, 0x0, 0x0⟩,
  ⟨0x900, 0xffffffffffffffff, 0x0, 0x0, 0x0⟩, ⟨0x908, 0xffffffffffffffff, 0x0, 0x0, 0x0⟩, ⟨0x910, 0xffffffffffffffff, 0x0, 0x0, 0x0⟩,
  ⟨0x918, 0xffffffffffffffff, 0x0, 0x0, 0x0⟩, ⟨0x920, 0xffffffffffffffff, 0x0, 0x0, 0x0⟩, ⟨0x928, 0xffffffffffffffff, 0x0, 0x0, 0x0⟩]
def HIF.regs7 : List RegInfo := [
  ⟨0x930, 0xffffffffffffffff, 0x0, 0x0, 0x0⟩, ⟨0x938, 0xffffffffffffffff, 0x0, 0x0, 0x0⟩, ⟨0x940, 0xffffffffffffffff, 0x0, 0x0, 0x0⟩,
  ⟨0x948, 0xffffffffffffffff, 0x0, 0x0, 0x0⟩, ⟨0x950, 0xffffffffffffffff, 0x0, 0x0, 0x0⟩, ⟨0x958, 0xffffffffffffffff, 0x0, 0x0, 0x0⟩,
  ⟨0x960, 0xffffffffffffffff, 0x0, 0x0, 0x0⟩, ⟨0x968, 0xffffffffffffffff, 0x0, 0x0, 0x0⟩, ⟨0x970, 0xffffffffffffffff, 0x0, 0x0, 0x0⟩,
  ⟨0x978, 0xffffffffffffffff, 0x0, 0x0, 0x0⟩, ⟨0x980, 0xffffffffffffffff, 0x0, 0x0, 0x0⟩, ⟨0x988, 0xffffffffffffffff, 0x0, 0x0, 0x0⟩,
  ⟨0x990, 0xffffffffffffffff, 0x0, 0x0, 0x0⟩, ⟨0x998, 0xffffffffffffffff, 0x0, 0x0, 0x0⟩, ⟨0x9a0, 0xffffffffffffffff, 0x0, 0x0, 0x0⟩,
  ⟨0x9a8, 0xffffffffffffffff, 0x0, 0x0, 0x0⟩, ⟨0x9b0, 0xffffffffffffffff, 0x0, 0x0, 0x0⟩, ⟨0x9b8, 0xffffffffffffffff, 0x0, 0x0, 0x0⟩,
  ⟨0x9c0, 0xffffffffffffffff, 0x0, 0x0, 0x0⟩, ⟨0x9c8, 0xffffffffffffffff, 0x0, 0x0, 0x0⟩, ⟨0x9d0, 0xffffffffffffffff, 0x0, 0x0, 0x0⟩,
  ⟨0x9d8, 0xffffffffffffffff, 0x0, 0x0, 0x0⟩, ⟨0x9e0, 0xffffffffffffffff, 0x0, 0x0, 0x0⟩, ⟨0x9e8, 0xffffffffffffffff, 0x0, 0x0, 0x0⟩]
def HIF.regs8 : List RegInfo := [
  ⟨0x9f0, 0xffffffffffffffff, 0x0, 0x0, 0x0⟩, ⟨0x9f8, 0xffffffffffffffff, 0x0, 0x0, 0x0⟩, ⟨0xa00, 0xffffffffffffffff, 0x0, 0x0, 0x0⟩,
  ⟨0xa08, 0xffffffffffffffff, 0x0, 0x0, 0x0⟩, ⟨0xa10, 0xffffffffffffffff, 0x0, 0x0, 0x0⟩, ⟨0xa18, 0xffffffffffffffff, 0x0, 0x0, 0x0⟩,
  ⟨0xa20, 0xffffffffffffffff, 0x0, 0x0, 0x0⟩, ⟨0xa28, 0xffffffffffffffff, 0x0, 0x0, 0x0⟩, ⟨0xa30, 0xffffffffffffffff, 0x0, 0x0, 0x0⟩,
  ⟨0xa38, 0xffffffffffffffff, 0x0, 0x0, 0x0⟩, ⟨0xa40, 0xffffffffffffffff, 0x0, 0x0, 0x0⟩, ⟨0xa48, 0xffffffffffffffff, 0x0, 0x0, 0x0⟩,
  ⟨0xa50, 0xffffffffffffffff, 0x0, 0x0, 0x0⟩, ⟨0xa58, 0xffffffffffffffff, 0x0, 0x0, 0x0⟩, ⟨0xa60, 0xffffffffffffffff, 0x0, 0x0, 0x0⟩,
  ⟨0xa68, 0xffffffffffffffff, 0x0, 0x0, 0x0⟩, ⟨0xa70, 0xffffffffffffffff, 0x0, 0x0, 0x0⟩, ⟨0xa78, 0xffffffffffffffff, 0x0, 0x0, 0x0⟩,
  ⟨0xa80, 0xffffffffffffffff, 0x0, 0x0, 0x0⟩, ⟨0xa88, 0xffffffffffffffff, 0x0, 0x0, 0x0⟩, ⟨0xa90, 0xffffffffffffffff, 0x0, 0x0, 0x0⟩,
  ⟨0xa98, 0xffffffffffffffff, 0x0, 0x0, 0x0⟩, ⟨0xaa0, 0xffffffffffffffff, 0x0, 0x0, 0x0⟩, ⟨0xaa8, 0xffffffffffffffff, 0x0, 0x0, 0x0⟩]
def HIF.regs9 : List RegInfo := [
  ⟨0xab0, 0xffffffffffffffff, 0x0, 0x0, 0x0⟩, ⟨0xab8, 0xffffffffffffffff, 0x0, 0x0, 0x0⟩, ⟨0xac0, 0xffffffffffffffff, 0x0, 0x0, 0x0⟩,
  ⟨0xac8, 0xffffffffffffffff, 0x0, 0x0, 0x0⟩, ⟨0xad0, 0xffffffffffffffff, 0x0, 0x0, 0x0⟩, ⟨0xad8, 0xffffffffffffffff, 0x0, 0x0, 0x0⟩,
  ⟨0xae0, 0xffffffffffffffff, 0x0, 0x0, 0x0⟩, ⟨0xae8, 0xffffffffffffffff, 0x0, 0x0, 0x0⟩, ⟨0xaf0, 0xffffffffffffffff, 0x0, 0x0, 0x0⟩,
  ⟨0xaf8, 0xffffffffffffffff, 0x0, 0x0, 0x0⟩, ⟨0xb00, 0xffffffffffffffff, 0x0, 0x0, 0x0⟩, ⟨0xb08, 0xffffffffffffffff, 0x0, 0x0, 0x0⟩,
  ⟨0xb10, 0xffffffffffffffff, 0x0, 0x0, 0x0⟩, ⟨0xb18, 0xffffffffffffffff, 0x0, 0x0, 0x0⟩, ⟨0xb20, 0xffffffffffffffff, 0x0, 0x0, 0x0⟩,
  ⟨0xb28, 0xffffffffffffffff, 0x0, 0x0, 0x0⟩, ⟨0xb30, 0xffffffffffffffff, 0x0, 0x0, 0x0⟩, ⟨0xb38, 0xffffffffffffffff, 0x0, 0x0, 0x0⟩,
  ⟨0xb40, 0xffffffffffffffff, 0x0, 0x0, 0x0⟩, ⟨0xb48, 0xffffffffffffffff, 0x0, 0x0, 0x0⟩, ⟨0xb50, 0xffffffffffffffff, 0x0, 0x0, 0x0⟩,
  ⟨0xb58, 0xffffffffffffffff, 0x0, 0x0, 0x0⟩, ⟨0xb60, 0xffffffffffffffff, 0x0, 0x0, 0x0⟩, ⟨0xb68, 0xffffffffffffffff, 0x0, 0x0, 0x0⟩]
def HIF.regs10 : List RegInfo := [
  ⟨0xb70, 0xffffffffffffffff, 0x0, 0x0, 0x0⟩, ⟨0xb78, 0xffffffffffffffff, 0x0, 0x0, 0x0⟩, ⟨0xb80, 0xffffffffffffffff, 0x0, 0x0, 0x0⟩,
  ⟨0xb88, 0xffffffffffffffff, 0x0, 0x0, 0x0⟩, ⟨0xb90, 0xffffffffffffffff, 0x0, 0x0, 0x0⟩, ⟨0xb98, 0xffffffffffffffff, 0x0, 0x0, 0x0⟩,
  ⟨0xba0, 0xffffffffffffffff, 0x0, 0x0, 0x0⟩, ⟨0xba8, 0xffffffffffffffff, 0x0, 0x0, 0x0⟩, ⟨0xbb0, 0xffffffffffffffff, 0x0, 0x0, 0x0⟩,
  ⟨0xbb8, 0xffffffffffffffff, 0x0, 0x0, 0x0⟩, ⟨0xbc0, 0xffffffffffffffff, 0x0, 0x0, 0x0⟩, ⟨0xbc8, 0xffffffffffffffff, 0x0, 0x0, 0x0⟩,
  ⟨0xbd0, 0xffffffffffffffff, 0x0, 0x0, 0x0⟩, ⟨0xbd8, 0xffffffffffffffff, 0x0, 0x0, 0x0⟩, ⟨0xbe0, 0xffffffffffffffff, 0x0, 0x0, 0x0⟩,
  ⟨0xbe8, 0xffffffffffffffff, 0x0, 0x0, 0x0⟩, ⟨0xbf0, 0xffffffffffffffff, 0x0, 0x0, 0x0⟩, ⟨0xbf8, 0xffffffffffffffff, 0x0, 0x0, 0x0⟩,
  ⟨0xc00, 0x0, 0x0, 0x0, 0x0⟩]
/-- The registers of a HIF page (R350, R410). -/
def HIF.regs : List RegInfo := HIF.regs0 ++ HIF.regs1 ++ HIF.regs2 ++ HIF.regs3 ++ HIF.regs4 ++ HIF.regs5 ++ HIF.regs6 ++ HIF.regs7 ++ HIF.regs8 ++ HIF.regs9 ++ HIF.regs10

/-! IRQ page (R421). -/
def IRQ.STATUS_MSIX_ENABLE : Fld := ⟨0x018, 0, 0⟩
def IRQ.STATUS_FUNCTION_MASK : Fld := ⟨0x018, 1, 1⟩
def IRQ.STATUS_BUS_MASTER : Fld := ⟨0x018, 2, 2⟩
def IRQ.EV_DROPPED : Nat := 0
def IRQ.MSG_SENT_CNT : Fld := ⟨0x040, 63, 0⟩
def IRQ.MSG_PENDED_CNT : Fld := ⟨0x048, 63, 0⟩
def IRQ.MSG_DROPPED_CNT : Fld := ⟨0x050, 63, 0⟩
def IRQ.ROUTE (i : Nat) : Fld := ⟨0x100 + 0x8 * i, 63, 0⟩
def IRQ.ROUTE_VECTOR (i : Nat) : Fld := ⟨0x100 + 0x8 * i, 5, 0⟩
def IRQ.ROUTE_ENABLE (i : Nat) : Fld := ⟨0x100 + 0x8 * i, 8, 8⟩
def IRQ.TILE_ROUTE (i : Nat) : Fld := ⟨0x300 + 0x8 * i, 63, 0⟩
def IRQ.TILE_ROUTE_VECTOR (i : Nat) : Fld := ⟨0x300 + 0x8 * i, 5, 0⟩
def IRQ.TILE_ROUTE_ENABLE (i : Nat) : Fld := ⟨0x300 + 0x8 * i, 8, 8⟩
def IRQ.CAP_ROUTE : Fld := ⟨0x340, 63, 0⟩
def IRQ.CAP_ROUTE_DOE_VECTOR : Fld := ⟨0x340, 5, 0⟩
def IRQ.CAP_ROUTE_AER_VECTOR : Fld := ⟨0x340, 13, 8⟩

def IRQ.regs0 : List RegInfo := [
  ⟨0x000, 0x0, 0x0, 0x0, 0x0⟩, ⟨0x008, 0x0, 0x0, 0x0, 0x0⟩, ⟨0x010, 0x0, 0x0, 0x0, 0x8000000000000000⟩,
  ⟨0x018, 0x0, 0x0, 0x0, 0x0⟩, ⟨0x020, 0x0, 0x0, 0x1, 0x0⟩, ⟨0x028, 0x1, 0x0, 0x0, 0x0⟩,
  ⟨0x030, 0x0, 0x0, 0x0, 0x0⟩, ⟨0x038, 0x0, 0x0, 0x0, 0x0⟩, ⟨0x040, 0x0, 0x0, 0x0, 0x0⟩,
  ⟨0x048, 0x0, 0x0, 0x0, 0x0⟩, ⟨0x050, 0x0, 0x0, 0x0, 0x0⟩, ⟨0x100, 0x13f, 0x0, 0x0, 0x0⟩,
  ⟨0x108, 0x13f, 0x0, 0x0, 0x0⟩, ⟨0x110, 0x13f, 0x0, 0x0, 0x0⟩, ⟨0x118, 0x13f, 0x0, 0x0, 0x0⟩,
  ⟨0x120, 0x13f, 0x0, 0x0, 0x0⟩, ⟨0x128, 0x13f, 0x0, 0x0, 0x0⟩, ⟨0x130, 0x13f, 0x0, 0x0, 0x0⟩,
  ⟨0x138, 0x13f, 0x0, 0x0, 0x0⟩, ⟨0x140, 0x13f, 0x0, 0x0, 0x0⟩, ⟨0x148, 0x13f, 0x0, 0x0, 0x0⟩,
  ⟨0x150, 0x13f, 0x0, 0x0, 0x0⟩, ⟨0x158, 0x13f, 0x0, 0x0, 0x0⟩, ⟨0x160, 0x13f, 0x0, 0x0, 0x0⟩]
def IRQ.regs1 : List RegInfo := [
  ⟨0x168, 0x13f, 0x0, 0x0, 0x0⟩, ⟨0x170, 0x13f, 0x0, 0x0, 0x0⟩, ⟨0x178, 0x13f, 0x0, 0x0, 0x0⟩,
  ⟨0x180, 0x13f, 0x0, 0x0, 0x0⟩, ⟨0x188, 0x13f, 0x0, 0x0, 0x0⟩, ⟨0x190, 0x13f, 0x0, 0x0, 0x0⟩,
  ⟨0x198, 0x13f, 0x0, 0x0, 0x0⟩, ⟨0x1a0, 0x13f, 0x0, 0x0, 0x0⟩, ⟨0x1a8, 0x13f, 0x0, 0x0, 0x0⟩,
  ⟨0x1b0, 0x13f, 0x0, 0x0, 0x0⟩, ⟨0x1b8, 0x13f, 0x0, 0x0, 0x0⟩, ⟨0x1c0, 0x13f, 0x0, 0x0, 0x0⟩,
  ⟨0x1c8, 0x13f, 0x0, 0x0, 0x0⟩, ⟨0x1d0, 0x13f, 0x0, 0x0, 0x0⟩, ⟨0x1d8, 0x13f, 0x0, 0x0, 0x0⟩,
  ⟨0x1e0, 0x13f, 0x0, 0x0, 0x0⟩, ⟨0x1e8, 0x13f, 0x0, 0x0, 0x0⟩, ⟨0x1f0, 0x13f, 0x0, 0x0, 0x0⟩,
  ⟨0x1f8, 0x13f, 0x0, 0x0, 0x0⟩, ⟨0x200, 0x13f, 0x0, 0x0, 0x0⟩, ⟨0x208, 0x13f, 0x0, 0x0, 0x0⟩,
  ⟨0x210, 0x13f, 0x0, 0x0, 0x0⟩, ⟨0x218, 0x13f, 0x0, 0x0, 0x0⟩, ⟨0x220, 0x13f, 0x0, 0x0, 0x0⟩]
def IRQ.regs2 : List RegInfo := [
  ⟨0x228, 0x13f, 0x0, 0x0, 0x0⟩, ⟨0x230, 0x13f, 0x0, 0x0, 0x0⟩, ⟨0x238, 0x13f, 0x0, 0x0, 0x0⟩,
  ⟨0x240, 0x13f, 0x0, 0x0, 0x0⟩, ⟨0x248, 0x13f, 0x0, 0x0, 0x0⟩, ⟨0x250, 0x13f, 0x0, 0x0, 0x0⟩,
  ⟨0x258, 0x13f, 0x0, 0x0, 0x0⟩, ⟨0x260, 0x13f, 0x0, 0x0, 0x0⟩, ⟨0x268, 0x13f, 0x0, 0x0, 0x0⟩,
  ⟨0x270, 0x13f, 0x0, 0x0, 0x0⟩, ⟨0x278, 0x13f, 0x0, 0x0, 0x0⟩, ⟨0x280, 0x13f, 0x0, 0x0, 0x0⟩,
  ⟨0x288, 0x13f, 0x0, 0x0, 0x0⟩, ⟨0x300, 0x13f, 0x0, 0x0, 0x0⟩, ⟨0x308, 0x13f, 0x0, 0x0, 0x0⟩,
  ⟨0x310, 0x13f, 0x0, 0x0, 0x0⟩, ⟨0x318, 0x13f, 0x0, 0x0, 0x0⟩, ⟨0x320, 0x13f, 0x0, 0x0, 0x0⟩,
  ⟨0x328, 0x13f, 0x0, 0x0, 0x0⟩, ⟨0x330, 0x13f, 0x0, 0x0, 0x0⟩, ⟨0x338, 0x13f, 0x0, 0x0, 0x0⟩,
  ⟨0x340, 0x3f3f, 0x0, 0x0, 0x0⟩]
/-- The registers of a IRQ page (R421, R410). -/
def IRQ.regs : List RegInfo := IRQ.regs0 ++ IRQ.regs1 ++ IRQ.regs2

/-! HTM page (R49). -/
def HTM.CTRL_ENABLE : Fld := ⟨0x010, 0, 0⟩
def HTM.CTRL_GRANDMASTER : Fld := ⟨0x010, 1, 1⟩
def HTM.CTRL_TICK_IN_EN : Fld := ⟨0x010, 2, 2⟩
def HTM.CTRL_TICK_OUT_EN : Fld := ⟨0x010, 3, 3⟩
def HTM.CTRL_PTM_AUTO : Fld := ⟨0x010, 4, 4⟩
def HTM.CTRL_PTM_REQ : Fld := ⟨0x010, 5, 5⟩
def HTM.CTRL_PARENT : Fld := ⟨0x010, 19, 16⟩
def HTM.CTRL_PARENT_ALT : Fld := ⟨0x010, 23, 20⟩
def HTM.CTRL_PORT_MASK : Fld := ⟨0x010, 43, 32⟩
def HTM.STATUS_STATE : Fld := ⟨0x018, 2, 0⟩
def HTM.STATUS_LOCKED : Fld := ⟨0x018, 4, 4⟩
def HTM.STATUS_HOLDOVER : Fld := ⟨0x018, 5, 5⟩
def HTM.STATUS_TIME_FAULT : Fld := ⟨0x018, 6, 6⟩
def HTM.STATUS_NO_GM : Fld := ⟨0x018, 7, 7⟩
def HTM.STATUS_PHASE_ONLY : Fld := ⟨0x018, 8, 8⟩
def HTM.STATUS_PORT_CONTRIB : Fld := ⟨0x018, 27, 16⟩
def HTM.STATUS_PORT_TIME_LOST : Fld := ⟨0x018, 43, 32⟩
def HTM.STATUS_STRATUM : Fld := ⟨0x018, 55, 48⟩
def HTM.EV_LOCKED : Nat := 0
def HTM.EV_HOLDOVER_ENTER : Nat := 1
def HTM.EV_TIME_FAULT : Nat := 2
def HTM.EV_PORT_TIME_LOST : Nat := 3
def HTM.EV_PARENT_SWITCH : Nat := 4
def HTM.EV_GM_CONFLICT : Nat := 5
def HTM.EV_NO_GM : Nat := 6
def HTM.EV_TICK_IN_MISSING : Nat := 7
def HTM.SYM_RX_CNT : Fld := ⟨0x040, 63, 0⟩
def HTM.SYM_CRC_CNT : Fld := ⟨0x048, 63, 0⟩
def HTM.TIME_LOST_CNT : Fld := ⟨0x050, 63, 0⟩
def HTM.HOLDOVER_CNT : Fld := ⟨0x058, 63, 0⟩
def HTM.TIME_FAULT_CNT : Fld := ⟨0x060, 63, 0⟩
def HTM.GM_CONFLICT_CNT : Fld := ⟨0x068, 63, 0⟩
def HTM.TOD_IGNORED_CNT : Fld := ⟨0x070, 63, 0⟩
def HTM.TIME : Fld := ⟨0x100, 63, 0⟩
def HTM.TIME_FRAC : Fld := ⟨0x108, 15, 0⟩
def HTM.ERR_EST : Fld := ⟨0x110, 15, 0⟩
def HTM.OFFSET : Fld := ⟨0x118, 31, 0⟩
def HTM.FREQ_ADJ : Fld := ⟨0x120, 31, 0⟩
def HTM.TOD_SET : Fld := ⟨0x128, 63, 0⟩
def HTM.HOLD_TIME : Fld := ⟨0x130, 31, 0⟩
def HTM.GM_ID : Fld := ⟨0x138, 15, 0⟩
def HTM.PTM_HOST : Fld := ⟨0x140, 63, 0⟩
def HTM.PTM_HT : Fld := ⟨0x148, 63, 0⟩
def HTM.PTM_RTT : Fld := ⟨0x150, 31, 0⟩
def HTM.PORT_DELAY (i : Nat) : Fld := ⟨0x200 + 0x8 * i, 63, 0⟩
def HTM.PORT_DELAY_DELAY_PS (i : Nat) : Fld := ⟨0x200 + 0x8 * i, 23, 0⟩
def HTM.PORT_DELAY_VALID (i : Nat) : Fld := ⟨0x200 + 0x8 * i, 31, 31⟩
def HTM.PORT_TRIM (i : Nat) : Fld := ⟨0x280 + 0x8 * i, 15, 0⟩
def HTM.PORT_OFFSET (i : Nat) : Fld := ⟨0x300 + 0x8 * i, 31, 0⟩

def HTM.regs0 : List RegInfo := [
  ⟨0x000, 0x0, 0x0, 0x0, 0x0⟩, ⟨0x008, 0x0, 0x0, 0x0, 0x0⟩, ⟨0x010, 0x0, 0xfff00ff001f, 0x0, 0x8000000000000020⟩,
  ⟨0x018, 0x0, 0x0, 0x0, 0x0⟩, ⟨0x020, 0x0, 0x0, 0xff, 0x0⟩, ⟨0x028, 0xff, 0x0, 0x0, 0x0⟩,
  ⟨0x030, 0x0, 0x0, 0x0, 0x0⟩, ⟨0x038, 0x0, 0x0, 0x0, 0x0⟩, ⟨0x040, 0x0, 0x0, 0x0, 0x0⟩,
  ⟨0x048, 0x0, 0x0, 0x0, 0x0⟩, ⟨0x050, 0x0, 0x0, 0x0, 0x0⟩, ⟨0x058, 0x0, 0x0, 0x0, 0x0⟩,
  ⟨0x060, 0x0, 0x0, 0x0, 0x0⟩, ⟨0x068, 0x0, 0x0, 0x0, 0x0⟩, ⟨0x070, 0x0, 0x0, 0x0, 0x0⟩,
  ⟨0x100, 0x0, 0x0, 0x0, 0x0⟩, ⟨0x108, 0x0, 0x0, 0x0, 0x0⟩, ⟨0x110, 0x0, 0x0, 0x0, 0x0⟩,
  ⟨0x118, 0x0, 0x0, 0x0, 0x0⟩, ⟨0x120, 0x0, 0x0, 0x0, 0x0⟩, ⟨0x128, 0x0, 0xffffffffffffffff, 0x0, 0x0⟩,
  ⟨0x130, 0x0, 0x0, 0x0, 0x0⟩, ⟨0x138, 0x0, 0x0, 0x0, 0x0⟩, ⟨0x140, 0x0, 0x0, 0x0, 0x0⟩]
def HTM.regs1 : List RegInfo := [
  ⟨0x148, 0x0, 0x0, 0x0, 0x0⟩, ⟨0x150, 0x0, 0x0, 0x0, 0x0⟩, ⟨0x200, 0x0, 0x0, 0x0, 0x0⟩,
  ⟨0x208, 0x0, 0x0, 0x0, 0x0⟩, ⟨0x210, 0x0, 0x0, 0x0, 0x0⟩, ⟨0x218, 0x0, 0x0, 0x0, 0x0⟩,
  ⟨0x220, 0x0, 0x0, 0x0, 0x0⟩, ⟨0x228, 0x0, 0x0, 0x0, 0x0⟩, ⟨0x230, 0x0, 0x0, 0x0, 0x0⟩,
  ⟨0x238, 0x0, 0x0, 0x0, 0x0⟩, ⟨0x240, 0x0, 0x0, 0x0, 0x0⟩, ⟨0x248, 0x0, 0x0, 0x0, 0x0⟩,
  ⟨0x250, 0x0, 0x0, 0x0, 0x0⟩, ⟨0x258, 0x0, 0x0, 0x0, 0x0⟩, ⟨0x280, 0x0, 0x0, 0x0, 0x0⟩,
  ⟨0x288, 0x0, 0x0, 0x0, 0x0⟩, ⟨0x290, 0x0, 0x0, 0x0, 0x0⟩, ⟨0x298, 0x0, 0x0, 0x0, 0x0⟩,
  ⟨0x2a0, 0x0, 0x0, 0x0, 0x0⟩, ⟨0x2a8, 0x0, 0x0, 0x0, 0x0⟩, ⟨0x2b0, 0x0, 0x0, 0x0, 0x0⟩,
  ⟨0x2b8, 0x0, 0x0, 0x0, 0x0⟩, ⟨0x2c0, 0x0, 0x0, 0x0, 0x0⟩, ⟨0x2c8, 0x0, 0x0, 0x0, 0x0⟩]
def HTM.regs2 : List RegInfo := [
  ⟨0x2d0, 0x0, 0x0, 0x0, 0x0⟩, ⟨0x2d8, 0x0, 0x0, 0x0, 0x0⟩, ⟨0x300, 0x0, 0x0, 0x0, 0x0⟩,
  ⟨0x308, 0x0, 0x0, 0x0, 0x0⟩, ⟨0x310, 0x0, 0x0, 0x0, 0x0⟩, ⟨0x318, 0x0, 0x0, 0x0, 0x0⟩,
  ⟨0x320, 0x0, 0x0, 0x0, 0x0⟩, ⟨0x328, 0x0, 0x0, 0x0, 0x0⟩, ⟨0x330, 0x0, 0x0, 0x0, 0x0⟩,
  ⟨0x338, 0x0, 0x0, 0x0, 0x0⟩, ⟨0x340, 0x0, 0x0, 0x0, 0x0⟩, ⟨0x348, 0x0, 0x0, 0x0, 0x0⟩,
  ⟨0x350, 0x0, 0x0, 0x0, 0x0⟩, ⟨0x358, 0x0, 0x0, 0x0, 0x0⟩]
/-- The registers of a HTM page (R49, R410). -/
def HTM.regs : List RegInfo := HTM.regs0 ++ HTM.regs1 ++ HTM.regs2

/-! SCH page (R75). -/
def SCH.CTRL_LOAD : Fld := ⟨0x010, 0, 0⟩
def SCH.CTRL_LOAD2 : Fld := ⟨0x010, 1, 1⟩
def SCH.CTRL_ARM : Fld := ⟨0x010, 2, 2⟩
def SCH.CTRL_STOP : Fld := ⟨0x010, 3, 3⟩
def SCH.CTRL_UNLOAD : Fld := ⟨0x010, 4, 4⟩
def SCH.CTRL_AUTO : Fld := ⟨0x010, 8, 8⟩
def SCH.CTRL_UNTIMED : Fld := ⟨0x010, 9, 9⟩
def SCH.STATUS_STATE : Fld := ⟨0x018, 2, 0⟩
def SCH.STATUS_TIMED : Fld := ⟨0x018, 3, 3⟩
def SCH.STATUS_LOCKED : Fld := ⟨0x018, 4, 4⟩
def SCH.STATUS_IMG2_LOADED : Fld := ⟨0x018, 5, 5⟩
def SCH.STATUS_LAST_VALID : Fld := ⟨0x018, 6, 6⟩
def SCH.STATUS_LOAD_ERR : Fld := ⟨0x018, 11, 8⟩
def SCH.STATUS_LOAD2_ERR : Fld := ⟨0x018, 15, 12⟩
def SCH.EV_LOAD_DONE : Nat := 0
def SCH.EV_LOAD_ERROR : Nat := 1
def SCH.EV_STEP_START : Nat := 2
def SCH.EV_VERDICT_VALID : Nat := 3
def SCH.EV_VERDICT_INVALID : Nat := 4
def SCH.EV_COMMIT_DONE : Nat := 5
def SCH.EV_SCHED_FAULT : Nat := 6
def SCH.EV_HELD : Nat := 7
def SCH.EV_ARM_REFUSED : Nat := 8
def SCH.EV_LOCK_WRITE : Nat := 9
def SCH.EV_SECOND_FAULT : Nat := 10
def SCH.STEP_CNT : Fld := ⟨0x040, 63, 0⟩
def SCH.VALID_CNT : Fld := ⟨0x048, 63, 0⟩
def SCH.INVALID_CNT : Fld := ⟨0x050, 63, 0⟩
def SCH.FAULT_CNT : Fld := ⟨0x058, 63, 0⟩
def SCH.FAULT2_CNT : Fld := ⟨0x060, 63, 0⟩
def SCH.UNDERRUN_CNT : Fld := ⟨0x068, 63, 0⟩
def SCH.LOCK_WRITE_CNT : Fld := ⟨0x070, 63, 0⟩
def SCH.ARM_REFUSED_CNT : Fld := ⟨0x078, 63, 0⟩
def SCH.CMD_IGNORED_CNT : Fld := ⟨0x080, 63, 0⟩
def SCH.IMG_BASE : Fld := ⟨0x100, 63, 12⟩
def SCH.IMG_LEN : Fld := ⟨0x108, 63, 0⟩
def SCH.IMG2_BASE : Fld := ⟨0x110, 63, 12⟩
def SCH.IMG2_LEN : Fld := ⟨0x118, 63, 0⟩
def SCH.NEXT_START : Fld := ⟨0x120, 63, 0⟩
def SCH.STEP_START : Fld := ⟨0x128, 63, 0⟩
def SCH.STEP_INDEX : Fld := ⟨0x130, 31, 0⟩
def SCH.STEP_PERIOD : Fld := ⟨0x138, 31, 0⟩
def SCH.LAST_DIGEST : Fld := ⟨0x140, 31, 0⟩
def SCH.OPMAP : Fld := ⟨0x148, 15, 0⟩
def SCH.VERDICT : Fld := ⟨0x150, 5, 0⟩
def SCH.FAULT_FIRST : Fld := ⟨0x158, 63, 0⟩
def SCH.FAULT_FIRST_CODE : Fld := ⟨0x158, 3, 0⟩
def SCH.FAULT_FIRST_STREAM : Fld := ⟨0x158, 5, 4⟩
def SCH.FAULT_FIRST_TILE : Fld := ⟨0x158, 14, 8⟩
def SCH.FAULT_FIRST_UNIT : Fld := ⟨0x158, 19, 16⟩
def SCH.FAULT_FIRST_VALID : Fld := ⟨0x158, 31, 31⟩
def SCH.FAULT_FIRST_ISSUE : Fld := ⟨0x158, 63, 32⟩
def SCH.FAULT_TIME : Fld := ⟨0x160, 63, 0⟩
def SCH.LOCK_WR_FIRST : Fld := ⟨0x168, 63, 0⟩
def SCH.LOCK_WR_FIRST_OFFSET : Fld := ⟨0x168, 27, 0⟩
def SCH.LOCK_WR_FIRST_VALID : Fld := ⟨0x168, 31, 31⟩
def SCH.IMG_DIGEST (i : Nat) : Fld := ⟨0x180 + 0x8 * i, 63, 0⟩
def SCH.IMG2_DIGEST (i : Nat) : Fld := ⟨0x1b0 + 0x8 * i, 63, 0⟩

def SCH.regs0 : List RegInfo := [
  ⟨0x000, 0x0, 0x0, 0x0, 0x0⟩, ⟨0x008, 0x0, 0x0, 0x0, 0x0⟩, ⟨0x010, 0x0, 0x300, 0x0, 0x800000000000001f⟩,
  ⟨0x018, 0x0, 0x0, 0x0, 0x0⟩, ⟨0x020, 0x0, 0x0, 0x7ff, 0x0⟩, ⟨0x028, 0x7ff, 0x0, 0x0, 0x0⟩,
  ⟨0x030, 0x0, 0x0, 0x0, 0x0⟩, ⟨0x038, 0x0, 0x0, 0x0, 0x0⟩, ⟨0x040, 0x0, 0x0, 0x0, 0x0⟩,
  ⟨0x048, 0x0, 0x0, 0x0, 0x0⟩, ⟨0x050, 0x0, 0x0, 0x0, 0x0⟩, ⟨0x058, 0x0, 0x0, 0x0, 0x0⟩,
  ⟨0x060, 0x0, 0x0, 0x0, 0x0⟩, ⟨0x068, 0x0, 0x0, 0x0, 0x0⟩, ⟨0x070, 0x0, 0x0, 0x0, 0x0⟩,
  ⟨0x078, 0x0, 0x0, 0x0, 0x0⟩, ⟨0x080, 0x0, 0x0, 0x0, 0x0⟩, ⟨0x100, 0x0, 0xfffffffffffff000, 0x0, 0x0⟩,
  ⟨0x108, 0x0, 0xffffffffffffffff, 0x0, 0x0⟩, ⟨0x110, 0x0, 0xfffffffffffff000, 0x0, 0x0⟩, ⟨0x118, 0x0, 0xffffffffffffffff, 0x0, 0x0⟩,
  ⟨0x120, 0xffffffffffffffff, 0x0, 0x0, 0x0⟩, ⟨0x128, 0x0, 0x0, 0x0, 0x0⟩, ⟨0x130, 0x0, 0xffffffff, 0x0, 0x0⟩]
def SCH.regs1 : List RegInfo := [
  ⟨0x138, 0x0, 0x0, 0x0, 0x0⟩, ⟨0x140, 0x0, 0x0, 0x0, 0x0⟩, ⟨0x148, 0x0, 0x0, 0x0, 0x0⟩,
  ⟨0x150, 0x0, 0x0, 0x0, 0x0⟩, ⟨0x158, 0x0, 0x0, 0x0, 0x0⟩, ⟨0x160, 0x0, 0x0, 0x0, 0x0⟩,
  ⟨0x168, 0x0, 0x0, 0x0, 0x0⟩, ⟨0x180, 0x0, 0x0, 0x0, 0x0⟩, ⟨0x188, 0x0, 0x0, 0x0, 0x0⟩,
  ⟨0x190, 0x0, 0x0, 0x0, 0x0⟩, ⟨0x198, 0x0, 0x0, 0x0, 0x0⟩, ⟨0x1a0, 0x0, 0x0, 0x0, 0x0⟩,
  ⟨0x1a8, 0x0, 0x0, 0x0, 0x0⟩, ⟨0x1b0, 0x0, 0x0, 0x0, 0x0⟩, ⟨0x1b8, 0x0, 0x0, 0x0, 0x0⟩,
  ⟨0x1c0, 0x0, 0x0, 0x0, 0x0⟩, ⟨0x1c8, 0x0, 0x0, 0x0, 0x0⟩, ⟨0x1d0, 0x0, 0x0, 0x0, 0x0⟩,
  ⟨0x1d8, 0x0, 0x0, 0x0, 0x0⟩]
/-- The registers of a SCH page (R75, R410). -/
def SCH.regs : List RegInfo := SCH.regs0 ++ SCH.regs1

/-! PWR page (R369). -/
def PWR.STATUS_UV_WARN : Fld := ⟨0x018, 0, 0⟩
def PWR.STATUS_OV_WARN : Fld := ⟨0x018, 1, 1⟩
def PWR.STATUS_SHAPING : Fld := ⟨0x018, 2, 2⟩
def PWR.STATUS_DESCENT : Fld := ⟨0x018, 3, 3⟩
def PWR.EV_UV_WARN : Nat := 0
def PWR.EV_DIP_END : Nat := 1
def PWR.EV_OV_WARN : Nat := 2
def PWR.EV_POWER_EXCESS : Nat := 3
def PWR.EV_SLEW_EXCESS : Nat := 4
def PWR.EV_POWER_REJECT : Nat := 5
def PWR.DIP_CNT : Fld := ⟨0x040, 63, 0⟩
def PWR.OV_WARN_CNT : Fld := ⟨0x048, 63, 0⟩
def PWR.EXCESS_CNT : Fld := ⟨0x050, 63, 0⟩
def PWR.SLEW_EXCESS_CNT : Fld := ⟨0x058, 63, 0⟩
def PWR.REJECT_CNT : Fld := ⟨0x060, 63, 0⟩
def PWR.SLEW_MAX : Fld := ⟨0x100, 6, 0⟩
def PWR.VIN : Fld := ⟨0x108, 15, 0⟩
def PWR.IIN : Fld := ⟨0x110, 15, 0⟩
def PWR.PIN : Fld := ⟨0x118, 31, 0⟩
def PWR.DIP_LAST : Fld := ⟨0x120, 63, 0⟩
def PWR.DIP_LAST_DURATION : Fld := ⟨0x120, 31, 0⟩
def PWR.DIP_LAST_MIN : Fld := ⟨0x120, 47, 32⟩
def PWR.DIP_LAST_VALID : Fld := ⟨0x120, 63, 63⟩
def PWR.LAST_STOP : Fld := ⟨0x128, 63, 0⟩
def PWR.LAST_STOP_CAUSE : Fld := ⟨0x128, 3, 0⟩
def PWR.LAST_STOP_UNIT : Fld := ⟨0x128, 7, 4⟩
def PWR.LAST_STOP_VALID : Fld := ⟨0x128, 15, 15⟩
def PWR.LAST_STOP_HT : Fld := ⟨0x128, 63, 16⟩
def PWR.DECL_FIRST : Fld := ⟨0x130, 63, 0⟩
def PWR.DECL_FIRST_WINDOW : Fld := ⟨0x130, 31, 0⟩
def PWR.DECL_FIRST_CODE : Fld := ⟨0x130, 35, 32⟩
def PWR.DECL_FIRST_COLUMN : Fld := ⟨0x130, 39, 36⟩
def PWR.DECL_FIRST_VALID : Fld := ⟨0x130, 63, 63⟩
def PWR.EXCESS_FIRST : Fld := ⟨0x138, 63, 0⟩
def PWR.EXCESS_FIRST_WINDOW : Fld := ⟨0x138, 31, 0⟩
def PWR.EXCESS_FIRST_SLEW : Fld := ⟨0x138, 32, 32⟩
def PWR.EXCESS_FIRST_VALID : Fld := ⟨0x138, 63, 63⟩

def PWR.regs0 : List RegInfo := [
  ⟨0x000, 0x0, 0x0, 0x0, 0x0⟩, ⟨0x008, 0x0, 0x0, 0x0, 0x0⟩, ⟨0x010, 0x0, 0x0, 0x0, 0x8000000000000000⟩,
  ⟨0x018, 0x0, 0x0, 0x0, 0x0⟩, ⟨0x020, 0x0, 0x0, 0x3f, 0x0⟩, ⟨0x028, 0x3f, 0x0, 0x0, 0x0⟩,
  ⟨0x030, 0x0, 0x0, 0x0, 0x0⟩, ⟨0x038, 0x0, 0x0, 0x0, 0x0⟩, ⟨0x040, 0x0, 0x0, 0x0, 0x0⟩,
  ⟨0x048, 0x0, 0x0, 0x0, 0x0⟩, ⟨0x050, 0x0, 0x0, 0x0, 0x0⟩, ⟨0x058, 0x0, 0x0, 0x0, 0x0⟩,
  ⟨0x060, 0x0, 0x0, 0x0, 0x0⟩, ⟨0x100, 0x0, 0x7f, 0x0, 0x0⟩, ⟨0x108, 0x0, 0x0, 0x0, 0x0⟩,
  ⟨0x110, 0x0, 0x0, 0x0, 0x0⟩, ⟨0x118, 0x0, 0x0, 0x0, 0x0⟩, ⟨0x120, 0x0, 0x0, 0x0, 0x0⟩,
  ⟨0x128, 0xffffffffffff80ff, 0x0, 0x0, 0x0⟩, ⟨0x130, 0x0, 0x0, 0x0, 0x0⟩, ⟨0x138, 0x0, 0x0, 0x0, 0x0⟩]
/-- The registers of a PWR page (R369, R410). -/
def PWR.regs : List RegInfo := PWR.regs0

/-! THM page (R370). -/
def THM.STATUS_HOT : Fld := ⟨0x018, 0, 0⟩
def THM.STATUS_STACK_HOT : Fld := ⟨0x018, 1, 1⟩
def THM.STATUS_COOLANT_HIGH : Fld := ⟨0x018, 2, 2⟩
def THM.EV_HOT : Nat := 0
def THM.EV_HOT_CLEAR : Nat := 1
def THM.EV_COOLANT_HIGH : Nat := 2
def THM.HOT_CNT : Fld := ⟨0x040, 63, 0⟩
def THM.THROTTLE_CNT : Fld := ⟨0x048, 63, 0⟩
def THM.SENSOR (i : Nat) : Fld := ⟨0x100 + 0x8 * i, 63, 0⟩
def THM.MAX : Fld := ⟨0x180, 63, 0⟩
def THM.MAX_TEMP : Fld := ⟨0x180, 15, 0⟩
def THM.MAX_SENSOR : Fld := ⟨0x180, 21, 16⟩
def THM.COOLANT : Fld := ⟨0x188, 15, 0⟩

def THM.regs0 : List RegInfo := [
  ⟨0x000, 0x0, 0x0, 0x0, 0x0⟩, ⟨0x008, 0x0, 0x0, 0x0, 0x0⟩, ⟨0x010, 0x0, 0x0, 0x0, 0x8000000000000000⟩,
  ⟨0x018, 0x0, 0x0, 0x0, 0x0⟩, ⟨0x020, 0x0, 0x0, 0x7, 0x0⟩, ⟨0x028, 0x7, 0x0, 0x0, 0x0⟩,
  ⟨0x030, 0x0, 0x0, 0x0, 0x0⟩, ⟨0x038, 0x0, 0x0, 0x0, 0x0⟩, ⟨0x040, 0x0, 0x0, 0x0, 0x0⟩,
  ⟨0x048, 0x0, 0x0, 0x0, 0x0⟩, ⟨0x100, 0x0, 0x0, 0x0, 0x0⟩, ⟨0x108, 0x0, 0x0, 0x0, 0x0⟩,
  ⟨0x110, 0x0, 0x0, 0x0, 0x0⟩, ⟨0x118, 0x0, 0x0, 0x0, 0x0⟩, ⟨0x120, 0x0, 0x0, 0x0, 0x0⟩,
  ⟨0x128, 0x0, 0x0, 0x0, 0x0⟩, ⟨0x130, 0x0, 0x0, 0x0, 0x0⟩, ⟨0x138, 0x0, 0x0, 0x0, 0x0⟩,
  ⟨0x140, 0x0, 0x0, 0x0, 0x0⟩, ⟨0x148, 0x0, 0x0, 0x0, 0x0⟩, ⟨0x150, 0x0, 0x0, 0x0, 0x0⟩,
  ⟨0x158, 0x0, 0x0, 0x0, 0x0⟩, ⟨0x160, 0x0, 0x0, 0x0, 0x0⟩, ⟨0x168, 0x0, 0x0, 0x0, 0x0⟩]
def THM.regs1 : List RegInfo := [
  ⟨0x170, 0x0, 0x0, 0x0, 0x0⟩, ⟨0x178, 0x0, 0x0, 0x0, 0x0⟩, ⟨0x180, 0x0, 0x0, 0x0, 0x0⟩,
  ⟨0x188, 0x0, 0x0, 0x0, 0x0⟩]
/-- The registers of a THM page (R370, R410). -/
def THM.regs : List RegInfo := THM.regs0 ++ THM.regs1

/-! SEC page (R388). -/
def SEC.CTRL_LC_APPLY : Fld := ⟨0x010, 0, 0⟩
def SEC.CTRL_SVN_COMMIT : Fld := ⟨0x010, 1, 1⟩
def SEC.CTRL_REC_WRITE : Fld := ⟨0x010, 2, 2⟩
def SEC.STATUS_LC : Fld := ⟨0x018, 2, 0⟩
def SEC.STATUS_SLOT : Fld := ⟨0x018, 3, 3⟩
def SEC.STATUS_RECOVERY : Fld := ⟨0x018, 4, 4⟩
def SEC.STATUS_OWNER_VALID : Fld := ⟨0x018, 5, 5⟩
def SEC.STATUS_FORCE_SIGNED : Fld := ⟨0x018, 6, 6⟩
def SEC.STATUS_LMS2_READY : Fld := ⟨0x018, 7, 7⟩
def SEC.STATUS_LMS_EXHAUSTED : Fld := ⟨0x018, 8, 8⟩
def SEC.STATUS_WIPE_FAIL : Fld := ⟨0x018, 9, 9⟩
def SEC.STATUS_TAMPER_HOLD : Fld := ⟨0x018, 10, 10⟩
def SEC.EV_TAMPER : Nat := 0
def SEC.EV_WIPE_DONE : Nat := 1
def SEC.EV_TOKEN_BAD : Nat := 2
def SEC.EV_SVN_DONE : Nat := 3
def SEC.EV_BOOT_FAIL : Nat := 4
def SEC.EV_LMS1_LOW : Nat := 5
def SEC.EV_CMD_IGNORED : Nat := 6
def SEC.TAMPER_CNT : Fld := ⟨0x040, 63, 0⟩
def SEC.TOKEN_BAD_CNT : Fld := ⟨0x048, 63, 0⟩
def SEC.BOOT_FAIL_CNT : Fld := ⟨0x050, 63, 0⟩
def SEC.CMD_IGNORED_CNT : Fld := ⟨0x058, 63, 0⟩
def SEC.SIGN_CNT : Fld := ⟨0x060, 63, 0⟩
def SEC.SERIAL : Fld := ⟨0x100, 63, 0⟩
def SEC.LC_NONCE : Fld := ⟨0x108, 63, 0⟩
def SEC.TOKEN_ADDR : Fld := ⟨0x110, 63, 6⟩
def SEC.SVN : Fld := ⟨0x118, 63, 0⟩
def SEC.SVN_COUNT : Fld := ⟨0x118, 6, 0⟩
def SEC.SVN_RUNNING : Fld := ⟨0x118, 14, 8⟩
def SEC.LMS : Fld := ⟨0x120, 63, 0⟩
def SEC.LMS_LMS1_USED : Fld := ⟨0x120, 12, 0⟩
def SEC.LMS_LMS2_INDEX : Fld := ⟨0x120, 31, 16⟩
def SEC.TAMPER_FIRST : Fld := ⟨0x128, 63, 0⟩
def SEC.TAMPER_FIRST_SOURCE : Fld := ⟨0x128, 2, 0⟩
def SEC.TAMPER_FIRST_VALID : Fld := ⟨0x128, 15, 15⟩
def SEC.TAMPER_FIRST_HT : Fld := ⟨0x128, 63, 16⟩
def SEC.REC_SLOT : Fld := ⟨0x130, 0, 0⟩
def SEC.REC_LEN : Fld := ⟨0x138, 24, 0⟩

def SEC.regs0 : List RegInfo := [
  ⟨0x000, 0x0, 0x0, 0x0, 0x0⟩, ⟨0x008, 0x0, 0x0, 0x0, 0x0⟩, ⟨0x010, 0x0, 0x0, 0x0, 0x8000000000000007⟩,
  ⟨0x018, 0x0, 0x0, 0x0, 0x0⟩, ⟨0x020, 0x0, 0x0, 0x7f, 0x0⟩, ⟨0x028, 0x7f, 0x0, 0x0, 0x0⟩,
  ⟨0x030, 0x0, 0x0, 0x0, 0x0⟩, ⟨0x038, 0x0, 0x0, 0x0, 0x0⟩, ⟨0x040, 0x0, 0x0, 0x0, 0x0⟩,
  ⟨0x048, 0x0, 0x0, 0x0, 0x0⟩, ⟨0x050, 0x0, 0x0, 0x0, 0x0⟩, ⟨0x058, 0x0, 0x0, 0x0, 0x0⟩,
  ⟨0x060, 0x0, 0x0, 0x0, 0x0⟩, ⟨0x100, 0x0, 0x0, 0x0, 0x0⟩, ⟨0x108, 0x0, 0x0, 0x0, 0x0⟩,
  ⟨0x110, 0xffffffffffffffc0, 0x0, 0x0, 0x0⟩, ⟨0x118, 0x0, 0x0, 0x0, 0x0⟩, ⟨0x120, 0x0, 0x0, 0x0, 0x0⟩,
  ⟨0x128, 0x0, 0x0, 0x0, 0x0⟩, ⟨0x130, 0x1, 0x0, 0x0, 0x0⟩, ⟨0x138, 0x1ffffff, 0x0, 0x0, 0x0⟩]
/-- The registers of a SEC page (R388, R410). -/
def SEC.regs : List RegInfo := SEC.regs0

/-! BST page (R405). -/
def BST.CTRL_SHUTDOWN : Fld := ⟨0x010, 0, 0⟩
def BST.CTRL_RETEST : Fld := ⟨0x010, 1, 1⟩
def BST.CTRL_ALERT_DEGRADED : Fld := ⟨0x010, 2, 2⟩
def BST.STATUS_STAGE : Fld := ⟨0x018, 3, 0⟩
def BST.STATUS_RECORD_USED : Fld := ⟨0x018, 4, 4⟩
def BST.STATUS_TEST_AT_START : Fld := ⟨0x018, 5, 5⟩
def BST.STATUS_FAILED : Fld := ⟨0x018, 6, 6⟩
def BST.STATUS_ALERT : Fld := ⟨0x018, 7, 7⟩
def BST.STATUS_BLOCK : Fld := ⟨0x018, 15, 8⟩
def BST.EV_READY : Nat := 0
def BST.EV_SHUTDOWN_DONE : Nat := 1
def BST.EV_CORE_DONE : Nat := 2
def BST.EV_FABRIC_DONE : Nat := 3
def BST.EV_DEGRADED : Nat := 4
def BST.EV_STEP_INVALID : Nat := 5
def BST.EV_FATAL_LOGGED : Nat := 6
def BST.EV_PEER_FAULT : Nat := 7
def BST.EV_RECORD_BAD : Nat := 8
def BST.EV_CMD_IGNORED : Nat := 9
def BST.CORE_RESET_CNT : Fld := ⟨0x040, 63, 0⟩
def BST.FABRIC_RESET_CNT : Fld := ⟨0x048, 63, 0⟩
def BST.DEGRADED_CNT : Fld := ⟨0x050, 63, 0⟩
def BST.STEP_INVALID_CNT : Fld := ⟨0x058, 63, 0⟩
def BST.PEER_FAULT_CNT : Fld := ⟨0x060, 63, 0⟩
def BST.RECORD_BAD_CNT : Fld := ⟨0x068, 63, 0⟩
def BST.CMD_IGNORED_CNT : Fld := ⟨0x070, 63, 0⟩
def BST.RESULT (i : Nat) : Fld := ⟨0x100 + 0x8 * i, 63, 0⟩
def BST.START_TIME : Fld := ⟨0x118, 63, 0⟩
def BST.START_TIME_READY_MS : Fld := ⟨0x118, 15, 0⟩
def BST.START_TIME_SELFTEST_MS : Fld := ⟨0x118, 31, 16⟩
def BST.LAST_RESET : Fld := ⟨0x120, 63, 0⟩
def BST.LAST_RESET_SCOPE : Fld := ⟨0x120, 2, 0⟩
def BST.LAST_RESET_SOURCE : Fld := ⟨0x120, 7, 4⟩
def BST.LAST_RESET_VALID : Fld := ⟨0x120, 15, 15⟩
def BST.LAST_RESET_HT : Fld := ⟨0x120, 63, 16⟩
def BST.FATAL_LAST : Fld := ⟨0x128, 63, 0⟩
def BST.FATAL_LAST_CAUSE : Fld := ⟨0x128, 3, 0⟩
def BST.FATAL_LAST_VALID : Fld := ⟨0x128, 15, 15⟩
def BST.FATAL_LAST_HT : Fld := ⟨0x128, 63, 16⟩
def BST.PEER_FAULT : Fld := ⟨0x130, 63, 0⟩
def BST.PEER_FAULT_SRC_HALL : Fld := ⟨0x130, 15, 0⟩
def BST.PEER_FAULT_PORT : Fld := ⟨0x130, 19, 16⟩
def BST.PEER_FAULT_LOCAL_PORT : Fld := ⟨0x130, 23, 20⟩
def BST.PEER_FAULT_CAUSE : Fld := ⟨0x130, 27, 24⟩
def BST.PEER_FAULT_VALID : Fld := ⟨0x130, 31, 31⟩
def BST.RECORD : Fld := ⟨0x138, 63, 0⟩

def BST.regs0 : List RegInfo := [
  ⟨0x000, 0x0, 0x0, 0x0, 0x0⟩, ⟨0x008, 0x0, 0x0, 0x0, 0x0⟩, ⟨0x010, 0x4, 0x0, 0x0, 0x8000000000000003⟩,
  ⟨0x018, 0x0, 0x0, 0x0, 0x0⟩, ⟨0x020, 0x0, 0x0, 0x3ff, 0x0⟩, ⟨0x028, 0x3ff, 0x0, 0x0, 0x0⟩,
  ⟨0x030, 0x0, 0x0, 0x0, 0x0⟩, ⟨0x038, 0x0, 0x0, 0x0, 0x0⟩, ⟨0x040, 0x0, 0x0, 0x0, 0x0⟩,
  ⟨0x048, 0x0, 0x0, 0x0, 0x0⟩, ⟨0x050, 0x0, 0x0, 0x0, 0x0⟩, ⟨0x058, 0x0, 0x0, 0x0, 0x0⟩,
  ⟨0x060, 0x0, 0x0, 0x0, 0x0⟩, ⟨0x068, 0x0, 0x0, 0x0, 0x0⟩, ⟨0x070, 0x0, 0x0, 0x0, 0x0⟩,
  ⟨0x100, 0x0, 0x0, 0x0, 0x0⟩, ⟨0x108, 0x0, 0x0, 0x0, 0x0⟩, ⟨0x110, 0x0, 0x0, 0x0, 0x0⟩,
  ⟨0x118, 0x0, 0x0, 0x0, 0x0⟩, ⟨0x120, 0x0, 0x0, 0x0, 0x0⟩, ⟨0x128, 0xffffffffffff800f, 0x0, 0x0, 0x0⟩,
  ⟨0x130, 0x8fffffff, 0x0, 0x0, 0x0⟩, ⟨0x138, 0x0, 0x0, 0x0, 0x0⟩]
/-- The registers of a BST page (R405, R410). -/
def BST.regs : List RegInfo := BST.regs0

/-! HYD page (R299). -/
def HYD.STATUS_SNAP_BUSY : Fld := ⟨0x018, 0, 0⟩
def HYD.STATUS_SELECT_BUSY : Fld := ⟨0x018, 1, 1⟩
def HYD.STATUS_SELECT_PEND : Fld := ⟨0x018, 2, 2⟩
def HYD.EV_SILENT_TENSOR : Nat := 0
def HYD.EV_FMT_SPILL : Nat := 1
def HYD.EV_SELECT_HOLD : Nat := 2
def HYD.EV_SELECT_LATE : Nat := 3
def HYD.EV_TABLE_REJECT : Nat := 4
def HYD.SILENT_CNT : Fld := ⟨0x040, 63, 0⟩
def HYD.SPILL_CNT : Fld := ⟨0x048, 63, 0⟩
def HYD.SELECT_HOLD_CNT : Fld := ⟨0x050, 63, 0⟩
def HYD.SELECT_LATE_CNT : Fld := ⟨0x058, 63, 0⟩
def HYD.SELECT_CHANGE_CNT : Fld := ⟨0x060, 63, 0⟩
def HYD.TABLE_REJECT_CNT : Fld := ⟨0x068, 63, 0⟩
def HYD.RECORD_CNT : Fld := ⟨0x070, 63, 0⟩
def HYD.REC_BASE : Fld := ⟨0x100, 63, 12⟩
def HYD.SNAP_BASE : Fld := ⟨0x108, 63, 12⟩
def HYD.RED_BASE : Fld := ⟨0x110, 63, 12⟩
def HYD.SNAP_TICK : Fld := ⟨0x118, 31, 0⟩
def HYD.TAB_SEL : Fld := ⟨0x120, 63, 0⟩
def HYD.TAB_SEL_TABLE : Fld := ⟨0x120, 1, 0⟩
def HYD.TAB_SEL_INDEX : Fld := ⟨0x120, 27, 16⟩
def HYD.TAB_DATA : Fld := ⟨0x128, 63, 0⟩
def HYD.SILENT_FIRST : Fld := ⟨0x130, 63, 0⟩
def HYD.SILENT_FIRST_TENSOR : Fld := ⟨0x130, 11, 0⟩
def HYD.SILENT_FIRST_VALID : Fld := ⟨0x130, 15, 15⟩
def HYD.SILENT_FIRST_SCH_TICK_INDEX : Fld := ⟨0x130, 63, 32⟩

def HYD.regs0 : List RegInfo := [
  ⟨0x000, 0x0, 0x0, 0x0, 0x0⟩, ⟨0x008, 0x0, 0x0, 0x0, 0x0⟩, ⟨0x010, 0x0, 0x0, 0x0, 0x8000000000000000⟩,
  ⟨0x018, 0x0, 0x0, 0x0, 0x0⟩, ⟨0x020, 0x0, 0x0, 0x1f, 0x0⟩, ⟨0x028, 0x1f, 0x0, 0x0, 0x0⟩,
  ⟨0x030, 0x0, 0x0, 0x0, 0x0⟩, ⟨0x038, 0x0, 0x0, 0x0, 0x0⟩, ⟨0x040, 0x0, 0x0, 0x0, 0x0⟩,
  ⟨0x048, 0x0, 0x0, 0x0, 0x0⟩, ⟨0x050, 0x0, 0x0, 0x0, 0x0⟩, ⟨0x058, 0x0, 0x0, 0x0, 0x0⟩,
  ⟨0x060, 0x0, 0x0, 0x0, 0x0⟩, ⟨0x068, 0x0, 0x0, 0x0, 0x0⟩, ⟨0x070, 0x0, 0x0, 0x0, 0x0⟩,
  ⟨0x100, 0x0, 0xfffffffffffff000, 0x0, 0x0⟩, ⟨0x108, 0x0, 0xfffffffffffff000, 0x0, 0x0⟩, ⟨0x110, 0x0, 0xfffffffffffff000, 0x0, 0x0⟩,
  ⟨0x118, 0x0, 0xffffffff, 0x0, 0x0⟩, ⟨0x120, 0xfff0003, 0x0, 0x0, 0x0⟩, ⟨0x128, 0xffffffffffffffff, 0x0, 0x0, 0x0⟩,
  ⟨0x130, 0xffffffff00008fff, 0x0, 0x0, 0x0⟩]
/-- The registers of a HYD page (R299, R410). -/
def HYD.regs : List RegInfo := HYD.regs0

/-! LTR page (R261). -/
def LTR.CTRL_QUOTA_SWAP : Fld := ⟨0x010, 0, 0⟩
def LTR.STATUS_BUSY : Fld := ⟨0x018, 0, 0⟩
def LTR.STATUS_SWAP_PEND : Fld := ⟨0x018, 1, 1⟩
def LTR.STATUS_SELF_VALID : Fld := ⟨0x018, 2, 2⟩
def LTR.STATUS_SELF : Fld := ⟨0x018, 7, 4⟩
def LTR.STATUS_OUT_QUEUE : Fld := ⟨0x018, 31, 16⟩
def LTR.STATUS_RET_QUEUE : Fld := ⟨0x018, 47, 32⟩
def LTR.EV_DROPPED_QUOTA : Nat := 0
def LTR.EV_ALL_DROPPED : Nat := 1
def LTR.EV_SKEW : Nat := 2
def LTR.EV_BAD_EXPERT : Nat := 3
def LTR.EV_DUP_EXPERT : Nat := 4
def LTR.EV_RX_DROP : Nat := 5
def LTR.EV_INTAKE_FULL : Nat := 6
def LTR.EV_RX_INCOMPLETE : Nat := 7
def LTR.EV_QUEUE_FULL : Nat := 8
def LTR.EV_RUN_SHORT : Nat := 9
def LTR.EV_BWD_UNMATCHED : Nat := 10
def LTR.EV_RENORM_SKIP : Nat := 11
def LTR.EV_QUOTA_REJECT : Nat := 12
def LTR.EV_TABLE_REJECT : Nat := 13
def LTR.CHOICE_CNT : Fld := ⟨0x040, 63, 0⟩
def LTR.SENT_CNT : Fld := ⟨0x048, 63, 0⟩
def LTR.DROPPED_QUOTA_CNT : Fld := ⟨0x050, 63, 0⟩
def LTR.NONE_CNT : Fld := ⟨0x058, 63, 0⟩
def LTR.MASKED_CNT : Fld := ⟨0x060, 63, 0⟩
def LTR.ALL_DROPPED_CNT : Fld := ⟨0x068, 63, 0⟩
def LTR.BAD_EXPERT_CNT : Fld := ⟨0x070, 63, 0⟩
def LTR.DUP_EXPERT_CNT : Fld := ⟨0x078, 63, 0⟩
def LTR.RX_CNT : Fld := ⟨0x080, 63, 0⟩
def LTR.RX_DROP_CNT : Fld := ⟨0x088, 63, 0⟩
def LTR.INTAKE_FULL_CNT : Fld := ⟨0x090, 63, 0⟩
def LTR.RX_INCOMPLETE_CNT : Fld := ⟨0x098, 63, 0⟩
def LTR.QUEUE_FULL_CNT : Fld := ⟨0x0a0, 63, 0⟩
def LTR.RUN_SHORT_CNT : Fld := ⟨0x0a8, 63, 0⟩
def LTR.BWD_UNMATCHED_CNT : Fld := ⟨0x0b0, 63, 0⟩
def LTR.RENORM_SKIP_CNT : Fld := ⟨0x0b8, 63, 0⟩
def LTR.QUOTA_REJECT_CNT : Fld := ⟨0x0c0, 63, 0⟩
def LTR.TABLE_REJECT_CNT : Fld := ⟨0x0c8, 63, 0⟩
def LTR.SKEW_CNT : Fld := ⟨0x0d0, 63, 0⟩
def LTR.TAB_SEL : Fld := ⟨0x100, 63, 0⟩
def LTR.TAB_SEL_TABLE : Fld := ⟨0x100, 2, 0⟩
def LTR.TAB_SEL_INDEX : Fld := ⟨0x100, 31, 16⟩
def LTR.TAB_DATA (i : Nat) : Fld := ⟨0x108 + 0x8 * i, 63, 0⟩
def LTR.SKEW_LIMIT : Fld := ⟨0x128, 31, 0⟩
def LTR.DROP_FIRST : Fld := ⟨0x130, 63, 0⟩
def LTR.DROP_FIRST_LAYER : Fld := ⟨0x130, 6, 0⟩
def LTR.DROP_FIRST_HALF : Fld := ⟨0x130, 7, 7⟩
def LTR.DROP_FIRST_EXPERT : Fld := ⟨0x130, 13, 8⟩
def LTR.DROP_FIRST_STATUS : Fld := ⟨0x130, 18, 16⟩
def LTR.DROP_FIRST_VALID : Fld := ⟨0x130, 31, 31⟩
def LTR.DROP_FIRST_TOKEN : Fld := ⟨0x130, 47, 32⟩
def LTR.REJECT_INFO : Fld := ⟨0x138, 63, 0⟩
def LTR.REJECT_INFO_LAYER : Fld := ⟨0x138, 6, 0⟩
def LTR.REJECT_INFO_HALF : Fld := ⟨0x138, 7, 7⟩
def LTR.REJECT_INFO_MEMBER : Fld := ⟨0x138, 11, 8⟩
def LTR.REJECT_INFO_VALID : Fld := ⟨0x138, 15, 15⟩
def LTR.REJECT_INFO_SUM : Fld := ⟨0x138, 31, 16⟩

def LTR.regs0 : List RegInfo := [
  ⟨0x000, 0x0, 0x0, 0x0, 0x0⟩, ⟨0x008, 0x0, 0x0, 0x0, 0x0⟩, ⟨0x010, 0x0, 0x0, 0x0, 0x8000000000000001⟩,
  ⟨0x018, 0x0, 0x0, 0x0, 0x0⟩, ⟨0x020, 0x0, 0x0, 0x3fff, 0x0⟩, ⟨0x028, 0x3fff, 0x0, 0x0, 0x0⟩,
  ⟨0x030, 0x0, 0x0, 0x0, 0x0⟩, ⟨0x038, 0x0, 0x0, 0x0, 0x0⟩, ⟨0x040, 0x0, 0x0, 0x0, 0x0⟩,
  ⟨0x048, 0x0, 0x0, 0x0, 0x0⟩, ⟨0x050, 0x0, 0x0, 0x0, 0x0⟩, ⟨0x058, 0x0, 0x0, 0x0, 0x0⟩,
  ⟨0x060, 0x0, 0x0, 0x0, 0x0⟩, ⟨0x068, 0x0, 0x0, 0x0, 0x0⟩, ⟨0x070, 0x0, 0x0, 0x0, 0x0⟩,
  ⟨0x078, 0x0, 0x0, 0x0, 0x0⟩, ⟨0x080, 0x0, 0x0, 0x0, 0x0⟩, ⟨0x088, 0x0, 0x0, 0x0, 0x0⟩,
  ⟨0x090, 0x0, 0x0, 0x0, 0x0⟩, ⟨0x098, 0x0, 0x0, 0x0, 0x0⟩, ⟨0x0a0, 0x0, 0x0, 0x0, 0x0⟩,
  ⟨0x0a8, 0x0, 0x0, 0x0, 0x0⟩, ⟨0x0b0, 0x0, 0x0, 0x0, 0x0⟩, ⟨0x0b8, 0x0, 0x0, 0x0, 0x0⟩]
def LTR.regs1 : List RegInfo := [
  ⟨0x0c0, 0x0, 0x0, 0x0, 0x0⟩, ⟨0x0c8, 0x0, 0x0, 0x0, 0x0⟩, ⟨0x0d0, 0x0, 0x0, 0x0, 0x0⟩,
  ⟨0x100, 0xffff0007, 0x0, 0x0, 0x0⟩, ⟨0x108, 0xffffffffffffffff, 0x0, 0x0, 0x0⟩, ⟨0x110, 0xffffffffffffffff, 0x0, 0x0, 0x0⟩,
  ⟨0x118, 0xffffffffffffffff, 0x0, 0x0, 0x0⟩, ⟨0x120, 0xffffffffffffffff, 0x0, 0x0, 0x0⟩, ⟨0x128, 0xffffffff, 0x0, 0x0, 0x0⟩,
  ⟨0x130, 0x0, 0x0, 0x0, 0x0⟩, ⟨0x138, 0x0, 0x0, 0x0, 0x0⟩]
/-- The registers of a LTR page (R261, R410). -/
def LTR.regs : List RegInfo := LTR.regs0 ++ LTR.regs1

/-! COOP page (R205). -/
def COOP.STATUS_POOL_EN : Fld := ⟨0x018, 15, 0⟩
def COOP.STATUS_LIVE : Fld := ⟨0x018, 47, 32⟩
def COOP.EV_ALLOC_FAIL : Nat := 0
def COOP.EV_STRAY_RELEASE : Nat := 1
def COOP.EV_FOREIGN_RELEASE : Nat := 2
def COOP.EV_PORT_LIMIT : Nat := 3
def COOP.EV_REQ_BAD : Nat := 4
def COOP.ALLOC_CNT : Fld := ⟨0x040, 63, 0⟩
def COOP.FALLBACK_CNT : Fld := ⟨0x048, 63, 0⟩
def COOP.FAIL_CNT : Fld := ⟨0x050, 63, 0⟩
def COOP.RELEASE_CNT : Fld := ⟨0x058, 63, 0⟩
def COOP.STRAY_CNT : Fld := ⟨0x060, 63, 0⟩
def COOP.FOREIGN_CNT : Fld := ⟨0x068, 63, 0⟩
def COOP.PORT_LIMIT_CNT : Fld := ⟨0x070, 63, 0⟩
def COOP.REQ_BAD_CNT : Fld := ⟨0x078, 63, 0⟩
def COOP.QUERY_ID : Fld := ⟨0x100, 15, 0⟩
def COOP.QUERY : Fld := ⟨0x108, 63, 0⟩
def COOP.QUERY_POOL : Fld := ⟨0x108, 3, 0⟩
def COOP.QUERY_CLASS : Fld := ⟨0x108, 6, 4⟩
def COOP.QUERY_LIVE : Fld := ⟨0x108, 7, 7⟩
def COOP.QUERY_COUNT : Fld := ⟨0x108, 15, 8⟩
def COOP.QUERY_OWNER : Fld := ⟨0x108, 31, 16⟩
def COOP.QUERY_VALID : Fld := ⟨0x108, 47, 32⟩
def COOP.QUERY_ID_VALID : Fld := ⟨0x108, 63, 63⟩
def COOP.POOL_FREE_A (i : Nat) : Fld := ⟨0x200 + 0x20 * i, 63, 0⟩
def COOP.POOL_FREE_B (i : Nat) : Fld := ⟨0x208 + 0x20 * i, 31, 0⟩
def COOP.POOL_FAIL (i : Nat) : Fld := ⟨0x210 + 0x20 * i, 63, 0⟩
def COOP.POOL_LOW (i : Nat) : Fld := ⟨0x218 + 0x20 * i, 63, 0⟩

def COOP.regs0 : List RegInfo := [
  ⟨0x000, 0x0, 0x0, 0x0, 0x0⟩, ⟨0x008, 0x0, 0x0, 0x0, 0x0⟩, ⟨0x010, 0x0, 0x0, 0x0, 0x8000000000000000⟩,
  ⟨0x018, 0x0, 0x0, 0x0, 0x0⟩, ⟨0x020, 0x0, 0x0, 0x1f, 0x0⟩, ⟨0x028, 0x1f, 0x0, 0x0, 0x0⟩,
  ⟨0x030, 0x0, 0x0, 0x0, 0x0⟩, ⟨0x038, 0x0, 0x0, 0x0, 0x0⟩, ⟨0x040, 0x0, 0x0, 0x0, 0x0⟩,
  ⟨0x048, 0x0, 0x0, 0x0, 0x0⟩, ⟨0x050, 0x0, 0x0, 0x0, 0x0⟩, ⟨0x058, 0x0, 0x0, 0x0, 0x0⟩,
  ⟨0x060, 0x0, 0x0, 0x0, 0x0⟩, ⟨0x068, 0x0, 0x0, 0x0, 0x0⟩, ⟨0x070, 0x0, 0x0, 0x0, 0x0⟩,
  ⟨0x078, 0x0, 0x0, 0x0, 0x0⟩, ⟨0x100, 0xffff, 0x0, 0x0, 0x0⟩, ⟨0x108, 0x0, 0x0, 0x0, 0x0⟩,
  ⟨0x200, 0x0, 0x0, 0x0, 0x0⟩, ⟨0x208, 0x0, 0x0, 0x0, 0x0⟩, ⟨0x210, 0x0, 0x0, 0x0, 0x0⟩,
  ⟨0x218, 0x0, 0x0, 0x0, 0x0⟩, ⟨0x220, 0x0, 0x0, 0x0, 0x0⟩, ⟨0x228, 0x0, 0x0, 0x0, 0x0⟩]
def COOP.regs1 : List RegInfo := [
  ⟨0x230, 0x0, 0x0, 0x0, 0x0⟩, ⟨0x238, 0x0, 0x0, 0x0, 0x0⟩, ⟨0x240, 0x0, 0x0, 0x0, 0x0⟩,
  ⟨0x248, 0x0, 0x0, 0x0, 0x0⟩, ⟨0x250, 0x0, 0x0, 0x0, 0x0⟩, ⟨0x258, 0x0, 0x0, 0x0, 0x0⟩,
  ⟨0x260, 0x0, 0x0, 0x0, 0x0⟩, ⟨0x268, 0x0, 0x0, 0x0, 0x0⟩, ⟨0x270, 0x0, 0x0, 0x0, 0x0⟩,
  ⟨0x278, 0x0, 0x0, 0x0, 0x0⟩, ⟨0x280, 0x0, 0x0, 0x0, 0x0⟩, ⟨0x288, 0x0, 0x0, 0x0, 0x0⟩,
  ⟨0x290, 0x0, 0x0, 0x0, 0x0⟩, ⟨0x298, 0x0, 0x0, 0x0, 0x0⟩, ⟨0x2a0, 0x0, 0x0, 0x0, 0x0⟩,
  ⟨0x2a8, 0x0, 0x0, 0x0, 0x0⟩, ⟨0x2b0, 0x0, 0x0, 0x0, 0x0⟩, ⟨0x2b8, 0x0, 0x0, 0x0, 0x0⟩,
  ⟨0x2c0, 0x0, 0x0, 0x0, 0x0⟩, ⟨0x2c8, 0x0, 0x0, 0x0, 0x0⟩, ⟨0x2d0, 0x0, 0x0, 0x0, 0x0⟩,
  ⟨0x2d8, 0x0, 0x0, 0x0, 0x0⟩, ⟨0x2e0, 0x0, 0x0, 0x0, 0x0⟩, ⟨0x2e8, 0x0, 0x0, 0x0, 0x0⟩]
def COOP.regs2 : List RegInfo := [
  ⟨0x2f0, 0x0, 0x0, 0x0, 0x0⟩, ⟨0x2f8, 0x0, 0x0, 0x0, 0x0⟩, ⟨0x300, 0x0, 0x0, 0x0, 0x0⟩,
  ⟨0x308, 0x0, 0x0, 0x0, 0x0⟩, ⟨0x310, 0x0, 0x0, 0x0, 0x0⟩, ⟨0x318, 0x0, 0x0, 0x0, 0x0⟩,
  ⟨0x320, 0x0, 0x0, 0x0, 0x0⟩, ⟨0x328, 0x0, 0x0, 0x0, 0x0⟩, ⟨0x330, 0x0, 0x0, 0x0, 0x0⟩,
  ⟨0x338, 0x0, 0x0, 0x0, 0x0⟩, ⟨0x340, 0x0, 0x0, 0x0, 0x0⟩, ⟨0x348, 0x0, 0x0, 0x0, 0x0⟩,
  ⟨0x350, 0x0, 0x0, 0x0, 0x0⟩, ⟨0x358, 0x0, 0x0, 0x0, 0x0⟩, ⟨0x360, 0x0, 0x0, 0x0, 0x0⟩,
  ⟨0x368, 0x0, 0x0, 0x0, 0x0⟩, ⟨0x370, 0x0, 0x0, 0x0, 0x0⟩, ⟨0x378, 0x0, 0x0, 0x0, 0x0⟩,
  ⟨0x380, 0x0, 0x0, 0x0, 0x0⟩, ⟨0x388, 0x0, 0x0, 0x0, 0x0⟩, ⟨0x390, 0x0, 0x0, 0x0, 0x0⟩,
  ⟨0x398, 0x0, 0x0, 0x0, 0x0⟩, ⟨0x3a0, 0x0, 0x0, 0x0, 0x0⟩, ⟨0x3a8, 0x0, 0x0, 0x0, 0x0⟩]
def COOP.regs3 : List RegInfo := [
  ⟨0x3b0, 0x0, 0x0, 0x0, 0x0⟩, ⟨0x3b8, 0x0, 0x0, 0x0, 0x0⟩, ⟨0x3c0, 0x0, 0x0, 0x0, 0x0⟩,
  ⟨0x3c8, 0x0, 0x0, 0x0, 0x0⟩, ⟨0x3d0, 0x0, 0x0, 0x0, 0x0⟩, ⟨0x3d8, 0x0, 0x0, 0x0, 0x0⟩,
  ⟨0x3e0, 0x0, 0x0, 0x0, 0x0⟩, ⟨0x3e8, 0x0, 0x0, 0x0, 0x0⟩, ⟨0x3f0, 0x0, 0x0, 0x0, 0x0⟩,
  ⟨0x3f8, 0x0, 0x0, 0x0, 0x0⟩]
/-- The registers of a COOP page (R205, R410). -/
def COOP.regs : List RegInfo := COOP.regs0 ++ COOP.regs1 ++ COOP.regs2 ++ COOP.regs3

/-! SWX page (R238). -/
def SWX.CTRL_BE_EN : Fld := ⟨0x010, 0, 0⟩
def SWX.STATUS_PORT_ADMITTED : Fld := ⟨0x018, 11, 0⟩
def SWX.STATUS_PORT_LOCKED : Fld := ⟨0x018, 27, 16⟩
def SWX.EV_SCHEDULE_COLLISION : Nat := 0
def SWX.EV_RUN_MISMATCH : Nat := 1
def SWX.EV_HOP_DROP : Nat := 2
def SWX.EV_NO_OUTPUT_DROP : Nat := 3
def SWX.EV_BE_TRUNC : Nat := 4
def SWX.EV_MISSING : Nat := 5
def SWX.EV_NO_CHANNEL : Nat := 6
def SWX.EV_DEFLECT_DISCARD : Nat := 7
def SWX.EV_STRAY_BODY : Nat := 8
def SWX.EV_RED_OVERFLOW : Nat := 9
def SWX.EV_DIGEST_LATE : Nat := 10
def SWX.COLL_CNT : Fld := ⟨0x040, 63, 0⟩
def SWX.RUN_MISMATCH_CNT : Fld := ⟨0x048, 63, 0⟩
def SWX.DEFLECT_CNT : Fld := ⟨0x050, 63, 0⟩
def SWX.HOP_DROP_CNT : Fld := ⟨0x058, 63, 0⟩
def SWX.NO_OUTPUT_CNT : Fld := ⟨0x060, 63, 0⟩
def SWX.BE_TRUNC_CNT : Fld := ⟨0x068, 63, 0⟩
def SWX.MISSING_CNT : Fld := ⟨0x070, 63, 0⟩
def SWX.NO_CHANNEL_CNT : Fld := ⟨0x078, 63, 0⟩
def SWX.DEFLECT_DISCARD_CNT : Fld := ⟨0x080, 63, 0⟩
def SWX.STRAY_BODY_CNT : Fld := ⟨0x088, 63, 0⟩
def SWX.REDUCE_CNT : Fld := ⟨0x090, 63, 0⟩
def SWX.RED_OVERFLOW_CNT : Fld := ⟨0x098, 63, 0⟩
def SWX.DIGEST_LATE_CNT : Fld := ⟨0x0a0, 63, 0⟩
def SWX.HALL_ID : Fld := ⟨0x100, 63, 0⟩
def SWX.HALL_ID_HALL_ID : Fld := ⟨0x100, 15, 0⟩
def SWX.HALL_ID_VALID : Fld := ⟨0x100, 31, 31⟩
def SWX.DIGEST_SENT : Fld := ⟨0x108, 63, 0⟩
def SWX.DIGEST_RECV : Fld := ⟨0x110, 63, 0⟩
def SWX.DIGEST_SCRC : Fld := ⟨0x118, 63, 0⟩
def SWX.DIGEST_RCRC : Fld := ⟨0x120, 63, 0⟩
def SWX.COLL_FIRST : Fld := ⟨0x128, 63, 0⟩
def SWX.COLL_FIRST_CHANNEL : Fld := ⟨0x128, 15, 0⟩
def SWX.COLL_FIRST_OUTPUT : Fld := ⟨0x128, 20, 16⟩
def SWX.COLL_FIRST_VALID : Fld := ⟨0x128, 31, 31⟩
def SWX.COLL_FIRST_SLOT : Fld := ⟨0x128, 63, 32⟩
def SWX.VERDICT_RESULT : Fld := ⟨0x130, 63, 0⟩
def SWX.VERDICT_RESULT_CAUSE : Fld := ⟨0x130, 5, 0⟩
def SWX.VERDICT_RESULT_MISSING : Fld := ⟨0x130, 6, 6⟩
def SWX.VERDICT_RESULT_BALANCED : Fld := ⟨0x130, 7, 7⟩
def SWX.VERDICT_RESULT_VALID : Fld := ⟨0x130, 31, 31⟩

def SWX.regs0 : List RegInfo := [
  ⟨0x000, 0x0, 0x0, 0x0, 0x0⟩, ⟨0x008, 0x0, 0x0, 0x0, 0x0⟩, ⟨0x010, 0x0, 0x1, 0x0, 0x8000000000000000⟩,
  ⟨0x018, 0x0, 0x0, 0x0, 0x0⟩, ⟨0x020, 0x0, 0x0, 0x7ff, 0x0⟩, ⟨0x028, 0x7ff, 0x0, 0x0, 0x0⟩,
  ⟨0x030, 0x0, 0x0, 0x0, 0x0⟩, ⟨0x038, 0x0, 0x0, 0x0, 0x0⟩, ⟨0x040, 0x0, 0x0, 0x0, 0x0⟩,
  ⟨0x048, 0x0, 0x0, 0x0, 0x0⟩, ⟨0x050, 0x0, 0x0, 0x0, 0x0⟩, ⟨0x058, 0x0, 0x0, 0x0, 0x0⟩,
  ⟨0x060, 0x0, 0x0, 0x0, 0x0⟩, ⟨0x068, 0x0, 0x0, 0x0, 0x0⟩, ⟨0x070, 0x0, 0x0, 0x0, 0x0⟩,
  ⟨0x078, 0x0, 0x0, 0x0, 0x0⟩, ⟨0x080, 0x0, 0x0, 0x0, 0x0⟩, ⟨0x088, 0x0, 0x0, 0x0, 0x0⟩,
  ⟨0x090, 0x0, 0x0, 0x0, 0x0⟩, ⟨0x098, 0x0, 0x0, 0x0, 0x0⟩, ⟨0x0a0, 0x0, 0x0, 0x0, 0x0⟩,
  ⟨0x100, 0x0, 0x8000ffff, 0x0, 0x0⟩, ⟨0x108, 0x0, 0x0, 0x0, 0x0⟩, ⟨0x110, 0x0, 0x0, 0x0, 0x0⟩]
def SWX.regs1 : List RegInfo := [
  ⟨0x118, 0x0, 0x0, 0x0, 0x0⟩, ⟨0x120, 0x0, 0x0, 0x0, 0x0⟩, ⟨0x128, 0x0, 0x0, 0x0, 0x0⟩,
  ⟨0x130, 0x0, 0x0, 0x0, 0x0⟩]
/-- The registers of a SWX page (R238, R410). -/
def SWX.regs : List RegInfo := SWX.regs0 ++ SWX.regs1

/-! RACK page (R320). -/
def RACK.STATUS_OPEN : Fld := ⟨0x018, 7, 0⟩
def RACK.STATUS_SEQ_BUSY : Fld := ⟨0x018, 8, 8⟩
def RACK.STATUS_LAST2_VALID : Fld := ⟨0x018, 9, 9⟩
def RACK.EV_EPOCH_FENCE : Nat := 0
def RACK.EV_OVERWRITE_GUARD : Nat := 1
def RACK.EV_COPY_BAD : Nat := 2
def RACK.EV_STALE_RED : Nat := 3
def RACK.EV_SEQ_OVER : Nat := 4
def RACK.EV_SEQ_BAD : Nat := 5
def RACK.EV_SEQ_LATE : Nat := 6
def RACK.EV_CARVE_OUT : Nat := 7
def RACK.EV_CARVE_OUT2 : Nat := 8
def RACK.EV_VERDICT2_INVALID : Nat := 9
def RACK.EV_TABLE_REJECT : Nat := 10
def RACK.FENCE_CNT : Fld := ⟨0x040, 63, 0⟩
def RACK.CHUNK_SENT_CNT : Fld := ⟨0x048, 63, 0⟩
def RACK.CHUNK_RECV_CNT : Fld := ⟨0x050, 63, 0⟩
def RACK.GUARD_CNT : Fld := ⟨0x058, 63, 0⟩
def RACK.STRAY_CNT : Fld := ⟨0x060, 63, 0⟩
def RACK.EPOCH_CNT : Fld := ⟨0x068, 63, 0⟩
def RACK.DUP_CNT : Fld := ⟨0x070, 63, 0⟩
def RACK.INCOMPLETE_CNT : Fld := ⟨0x078, 63, 0⟩
def RACK.STALE_RED_CNT : Fld := ⟨0x080, 63, 0⟩
def RACK.SEQ_OVER_CNT : Fld := ⟨0x088, 63, 0⟩
def RACK.SEQ_BAD_CNT : Fld := ⟨0x090, 63, 0⟩
def RACK.SEQ_LATE_CNT : Fld := ⟨0x098, 63, 0⟩
def RACK.CARVE_OUT_CNT : Fld := ⟨0x0a0, 63, 0⟩
def RACK.CARVE_OUT2_CNT : Fld := ⟨0x0a8, 63, 0⟩
def RACK.TABLE_REJECT_CNT : Fld := ⟨0x0b0, 63, 0⟩
def RACK.TAB_SEL : Fld := ⟨0x100, 63, 0⟩
def RACK.TAB_SEL_TABLE : Fld := ⟨0x100, 1, 0⟩
def RACK.TAB_SEL_CTRL : Fld := ⟨0x100, 6, 4⟩
def RACK.TAB_SEL_INDEX : Fld := ⟨0x100, 27, 16⟩
def RACK.TAB_DATA (i : Nat) : Fld := ⟨0x108 + 0x8 * i, 63, 0⟩
def RACK.FIRST : Fld := ⟨0x128, 63, 0⟩
def RACK.FIRST_TENSOR : Fld := ⟨0x128, 11, 0⟩
def RACK.FIRST_CTRL : Fld := ⟨0x128, 14, 12⟩
def RACK.FIRST_CAUSE : Fld := ⟨0x128, 19, 16⟩
def RACK.FIRST_VALID : Fld := ⟨0x128, 31, 31⟩
def RACK.FIRST_CHUNK : Fld := ⟨0x128, 63, 32⟩
def RACK.COPY_BAD : Fld := ⟨0x130, 63, 0⟩
def RACK.SEQ_FIRST : Fld := ⟨0x138, 63, 0⟩
def RACK.SEQ_FIRST_BATCH : Fld := ⟨0x138, 7, 0⟩
def RACK.SEQ_FIRST_CAUSE : Fld := ⟨0x138, 9, 8⟩
def RACK.SEQ_FIRST_VALID : Fld := ⟨0x138, 15, 15⟩
def RACK.SEQ_FIRST_ENTRY : Fld := ⟨0x138, 31, 16⟩
def RACK.VERDICT2 : Fld := ⟨0x140, 63, 0⟩
def RACK.VERDICT2_CAUSE : Fld := ⟨0x140, 5, 0⟩
def RACK.VERDICT2_VALID_LAST : Fld := ⟨0x140, 6, 6⟩
def RACK.VERDICT2_VALID : Fld := ⟨0x140, 31, 31⟩

def RACK.regs0 : List RegInfo := [
  ⟨0x000, 0x0, 0x0, 0x0, 0x0⟩, ⟨0x008, 0x0, 0x0, 0x0, 0x0⟩, ⟨0x010, 0x0, 0x0, 0x0, 0x8000000000000000⟩,
  ⟨0x018, 0x0, 0x0, 0x0, 0x0⟩, ⟨0x020, 0x0, 0x0, 0x7ff, 0x0⟩, ⟨0x028, 0x7ff, 0x0, 0x0, 0x0⟩,
  ⟨0x030, 0x0, 0x0, 0x0, 0x0⟩, ⟨0x038, 0x0, 0x0, 0x0, 0x0⟩, ⟨0x040, 0x0, 0x0, 0x0, 0x0⟩,
  ⟨0x048, 0x0, 0x0, 0x0, 0x0⟩, ⟨0x050, 0x0, 0x0, 0x0, 0x0⟩, ⟨0x058, 0x0, 0x0, 0x0, 0x0⟩,
  ⟨0x060, 0x0, 0x0, 0x0, 0x0⟩, ⟨0x068, 0x0, 0x0, 0x0, 0x0⟩, ⟨0x070, 0x0, 0x0, 0x0, 0x0⟩,
  ⟨0x078, 0x0, 0x0, 0x0, 0x0⟩, ⟨0x080, 0x0, 0x0, 0x0, 0x0⟩, ⟨0x088, 0x0, 0x0, 0x0, 0x0⟩,
  ⟨0x090, 0x0, 0x0, 0x0, 0x0⟩, ⟨0x098, 0x0, 0x0, 0x0, 0x0⟩, ⟨0x0a0, 0x0, 0x0, 0x0, 0x0⟩,
  ⟨0x0a8, 0x0, 0x0, 0x0, 0x0⟩, ⟨0x0b0, 0x0, 0x0, 0x0, 0x0⟩, ⟨0x100, 0xfff0073, 0x0, 0x0, 0x0⟩]
def RACK.regs1 : List RegInfo := [
  ⟨0x108, 0xffffffffffffffff, 0x0, 0x0, 0x0⟩, ⟨0x110, 0xffffffffffffffff, 0x0, 0x0, 0x0⟩, ⟨0x118, 0xffffffffffffffff, 0x0, 0x0, 0x0⟩,
  ⟨0x120, 0xffffffffffffffff, 0x0, 0x0, 0x0⟩, ⟨0x128, 0x0, 0x0, 0x0, 0x0⟩, ⟨0x130, 0x0, 0x0, 0x0, 0x0⟩,
  ⟨0x138, 0x0, 0x0, 0x0, 0x0⟩, ⟨0x140, 0x0, 0x0, 0x0, 0x0⟩]
/-- The registers of a RACK page (R320, R410). -/
def RACK.regs : List RegInfo := RACK.regs0 ++ RACK.regs1

/-! ZN page (R371). -/
def ZN.CTRL_OP_REQ : Fld := ⟨0x010, 1, 0⟩
def ZN.STATUS_OP : Fld := ⟨0x018, 1, 0⟩
def ZN.STATUS_TRANS : Fld := ⟨0x018, 2, 2⟩
def ZN.STATUS_LIMIT : Fld := ⟨0x018, 3, 3⟩
def ZN.STATUS_BALLAST : Fld := ⟨0x018, 7, 4⟩
def ZN.STATUS_RAIL : Fld := ⟨0x018, 31, 16⟩
def ZN.STATUS_TEMP : Fld := ⟨0x018, 47, 32⟩
def ZN.EV_TRANS_DONE : Nat := 0
def ZN.EV_ZONE_LIMIT : Nat := 1
def ZN.TRANS_CNT : Fld := ⟨0x040, 63, 0⟩
def ZN.LIMIT_CNT : Fld := ⟨0x048, 63, 0⟩
def ZN.REQ_BAD_CNT : Fld := ⟨0x050, 63, 0⟩
def ZN.IRAIL : Fld := ⟨0x100, 15, 0⟩
def ZN.LIMIT_FIRST : Fld := ⟨0x108, 63, 0⟩
def ZN.LIMIT_FIRST_KIND : Fld := ⟨0x108, 1, 0⟩
def ZN.LIMIT_FIRST_NEIGHBOUR : Fld := ⟨0x108, 6, 4⟩
def ZN.LIMIT_FIRST_VALID : Fld := ⟨0x108, 15, 15⟩
def ZN.LIMIT_FIRST_HT : Fld := ⟨0x108, 63, 16⟩

def ZN.regs0 : List RegInfo := [
  ⟨0x000, 0x0, 0x0, 0x0, 0x0⟩, ⟨0x008, 0x0, 0x0, 0x0, 0x0⟩, ⟨0x010, 0x0, 0x3, 0x0, 0x8000000000000000⟩,
  ⟨0x018, 0x0, 0x0, 0x0, 0x0⟩, ⟨0x020, 0x0, 0x0, 0x3, 0x0⟩, ⟨0x028, 0x3, 0x0, 0x0, 0x0⟩,
  ⟨0x030, 0x0, 0x0, 0x0, 0x0⟩, ⟨0x038, 0x0, 0x0, 0x0, 0x0⟩, ⟨0x040, 0x0, 0x0, 0x0, 0x0⟩,
  ⟨0x048, 0x0, 0x0, 0x0, 0x0⟩, ⟨0x050, 0x0, 0x0, 0x0, 0x0⟩, ⟨0x100, 0x0, 0x0, 0x0, 0x0⟩,
  ⟨0x108, 0x0, 0x0, 0x0, 0x0⟩]
/-- The registers of a ZN page (R371, R410). -/
def ZN.regs : List RegInfo := ZN.regs0

/-! KLN page (R281). -/
def KLN.CTRL_HYPER_SWAP : Fld := ⟨0x010, 0, 0⟩
def KLN.STATUS_BUSY : Fld := ⟨0x018, 0, 0⟩
def KLN.STATUS_SWAP_PEND : Fld := ⟨0x018, 1, 1⟩
def KLN.STATUS_COMMIT_INCOMPLETE : Fld := ⟨0x018, 2, 2⟩
def KLN.STATUS_HANDED : Fld := ⟨0x018, 28, 16⟩
def KLN.EV_DOUBLE_GRADIENT : Nat := 0
def KLN.EV_STALE_EPOCH : Nat := 1
def KLN.EV_LATE_HANDOFF : Nat := 2
def KLN.EV_HANDOFF_BAD : Nat := 3
def KLN.EV_NO_GRADIENT : Nat := 4
def KLN.EV_GRAD_NONFINITE : Nat := 5
def KLN.EV_STATE_NONFINITE : Nat := 6
def KLN.EV_MASTER_OVERFLOW : Nat := 7
def KLN.EV_WC_OVERFLOW : Nat := 8
def KLN.EV_TABLE_REJECT : Nat := 9
def KLN.EV_HYPER_REJECT : Nat := 10
def KLN.EV_COMMIT_INCOMPLETE : Nat := 11
def KLN.EV_UPDATE_STALE : Nat := 12
def KLN.UPDATE_CNT : Fld := ⟨0x040, 63, 0⟩
def KLN.ELEM_CNT : Fld := ⟨0x048, 63, 0⟩
def KLN.ROWS_SKIPPED_CNT : Fld := ⟨0x050, 63, 0⟩
def KLN.HANDOFF_CNT : Fld := ⟨0x058, 63, 0⟩
def KLN.DOUBLE_CNT : Fld := ⟨0x060, 63, 0⟩
def KLN.STALE_CNT : Fld := ⟨0x068, 63, 0⟩
def KLN.LATE_CNT : Fld := ⟨0x070, 63, 0⟩
def KLN.HANDOFF_BAD_CNT : Fld := ⟨0x078, 63, 0⟩
def KLN.NO_GRAD_CNT : Fld := ⟨0x080, 63, 0⟩
def KLN.GRAD_NONFINITE_CNT : Fld := ⟨0x088, 63, 0⟩
def KLN.STATE_NONFINITE_CNT : Fld := ⟨0x090, 63, 0⟩
def KLN.MASTER_OVF_CNT : Fld := ⟨0x098, 63, 0⟩
def KLN.WC_OVF_CNT : Fld := ⟨0x0a0, 63, 0⟩
def KLN.TABLE_REJECT_CNT : Fld := ⟨0x0a8, 63, 0⟩
def KLN.HYPER_REJECT_CNT : Fld := ⟨0x0b0, 63, 0⟩
def KLN.UPDATE_STALE_CNT : Fld := ⟨0x0b8, 63, 0⟩
def KLN.SEED : Fld := ⟨0x100, 63, 0⟩
def KLN.TAB_SEL : Fld := ⟨0x108, 63, 0⟩
def KLN.TAB_SEL_TABLE : Fld := ⟨0x108, 1, 0⟩
def KLN.TAB_SEL_INDEX : Fld := ⟨0x108, 27, 16⟩
def KLN.TAB_DATA (i : Nat) : Fld := ⟨0x110 + 0x8 * i, 63, 0⟩
def KLN.HANDOFF_FIRST : Fld := ⟨0x150, 63, 0⟩
def KLN.HANDOFF_FIRST_TENSOR : Fld := ⟨0x150, 11, 0⟩
def KLN.HANDOFF_FIRST_REASON : Fld := ⟨0x150, 14, 12⟩
def KLN.HANDOFF_FIRST_VALID : Fld := ⟨0x150, 15, 15⟩
def KLN.HANDOFF_FIRST_TICK : Fld := ⟨0x150, 63, 32⟩
def KLN.REJECT_INFO : Fld := ⟨0x158, 63, 0⟩
def KLN.REJECT_INFO_TENSOR : Fld := ⟨0x158, 11, 0⟩
def KLN.REJECT_INFO_CHECK : Fld := ⟨0x158, 15, 12⟩
def KLN.REJECT_INFO_HYPER : Fld := ⟨0x158, 16, 16⟩
def KLN.REJECT_INFO_VALID : Fld := ⟨0x158, 31, 31⟩
def KLN.COMMIT_FIRST : Fld := ⟨0x160, 63, 0⟩
def KLN.COMMIT_FIRST_TENSOR : Fld := ⟨0x160, 11, 0⟩
def KLN.COMMIT_FIRST_CAUSE : Fld := ⟨0x160, 19, 16⟩
def KLN.COMMIT_FIRST_VALID : Fld := ⟨0x160, 31, 31⟩
def KLN.COMMIT_FIRST_TICK : Fld := ⟨0x160, 63, 32⟩

def KLN.regs0 : List RegInfo := [
  ⟨0x000, 0x0, 0x0, 0x0, 0x0⟩, ⟨0x008, 0x0, 0x0, 0x0, 0x0⟩, ⟨0x010, 0x0, 0x0, 0x0, 0x8000000000000001⟩,
  ⟨0x018, 0x0, 0x0, 0x0, 0x0⟩, ⟨0x020, 0x0, 0x0, 0x1fff, 0x0⟩, ⟨0x028, 0x1fff, 0x0, 0x0, 0x0⟩,
  ⟨0x030, 0x0, 0x0, 0x0, 0x0⟩, ⟨0x038, 0x0, 0x0, 0x0, 0x0⟩, ⟨0x040, 0x0, 0x0, 0x0, 0x0⟩,
  ⟨0x048, 0x0, 0x0, 0x0, 0x0⟩, ⟨0x050, 0x0, 0x0, 0x0, 0x0⟩, ⟨0x058, 0x0, 0x0, 0x0, 0x0⟩,
  ⟨0x060, 0x0, 0x0, 0x0, 0x0⟩, ⟨0x068, 0x0, 0x0, 0x0, 0x0⟩, ⟨0x070, 0x0, 0x0, 0x0, 0x0⟩,
  ⟨0x078, 0x0, 0x0, 0x0, 0x0⟩, ⟨0x080, 0x0, 0x0, 0x0, 0x0⟩, ⟨0x088, 0x0, 0x0, 0x0, 0x0⟩,
  ⟨0x090, 0x0, 0x0, 0x0, 0x0⟩, ⟨0x098, 0x0, 0x0, 0x0, 0x0⟩, ⟨0x0a0, 0x0, 0x0, 0x0, 0x0⟩,
  ⟨0x0a8, 0x0, 0x0, 0x0, 0x0⟩, ⟨0x0b0, 0x0, 0x0, 0x0, 0x0⟩, ⟨0x0b8, 0x0, 0x0, 0x0, 0x0⟩]
def KLN.regs1 : List RegInfo := [
  ⟨0x100, 0x0, 0xffffffffffffffff, 0x0, 0x0⟩, ⟨0x108, 0xfff0003, 0x0, 0x0, 0x0⟩, ⟨0x110, 0xffffffffffffffff, 0x0, 0x0, 0x0⟩,
  ⟨0x118, 0xffffffffffffffff, 0x0, 0x0, 0x0⟩, ⟨0x120, 0xffffffffffffffff, 0x0, 0x0, 0x0⟩, ⟨0x128, 0xffffffffffffffff, 0x0, 0x0, 0x0⟩,
  ⟨0x130, 0xffffffffffffffff, 0x0, 0x0, 0x0⟩, ⟨0x138, 0xffffffffffffffff, 0x0, 0x0, 0x0⟩, ⟨0x140, 0xffffffffffffffff, 0x0, 0x0, 0x0⟩,
  ⟨0x148, 0xffffffffffffffff, 0x0, 0x0, 0x0⟩, ⟨0x150, 0x0, 0x0, 0x0, 0x0⟩, ⟨0x158, 0x0, 0x0, 0x0, 0x0⟩,
  ⟨0x160, 0x0, 0x0, 0x0, 0x0⟩]
/-- The registers of a KLN page (R281, R410). -/
def KLN.regs : List RegInfo := KLN.regs0 ++ KLN.regs1

/-! MEM page (R333). -/
def MEM.STATUS_STATE : Fld := ⟨0x018, 2, 0⟩
def MEM.STATUS_WINDOWED : Fld := ⟨0x018, 3, 3⟩
def MEM.STATUS_U_ACTIVE : Fld := ⟨0x018, 4, 4⟩
def MEM.EV_CE : Nat := 0
def MEM.EV_UE : Nat := 1
def MEM.EV_POISON_READ : Nat := 2
def MEM.EV_WINDOW_MISS : Nat := 3
def MEM.EV_PC_OVER : Nat := 4
def MEM.EV_ADDR_RANGE : Nat := 5
def MEM.EV_CTRL_BAD : Nat := 6
def MEM.EV_TRAIN_FAIL : Nat := 7
def MEM.RD_GRAN_CNT : Fld := ⟨0x040, 63, 0⟩
def MEM.WR_GRAN_CNT : Fld := ⟨0x048, 63, 0⟩
def MEM.CE_CNT : Fld := ⟨0x050, 63, 0⟩
def MEM.UE_CNT : Fld := ⟨0x058, 63, 0⟩
def MEM.POISON_WR_CNT : Fld := ⟨0x060, 63, 0⟩
def MEM.POISON_RD_CNT : Fld := ⟨0x068, 63, 0⟩
def MEM.WINDOW_MISS_CNT : Fld := ⟨0x070, 63, 0⟩
def MEM.PC_OVER_CNT : Fld := ⟨0x078, 63, 0⟩
def MEM.ADDR_RANGE_CNT : Fld := ⟨0x080, 63, 0⟩
def MEM.CTRL_BAD_CNT : Fld := ⟨0x088, 63, 0⟩
def MEM.REF_CNT : Fld := ⟨0x090, 63, 0⟩
def MEM.RFM_CNT : Fld := ⟨0x098, 63, 0⟩
def MEM.UE_FIRST : Fld := ⟨0x100, 63, 0⟩
def MEM.UE_FIRST_P : Fld := ⟨0x100, 8, 0⟩
def MEM.UE_FIRST_O : Fld := ⟨0x100, 30, 9⟩
def MEM.UE_FIRST_VALID : Fld := ⟨0x100, 31, 31⟩
def MEM.UE_FIRST_TICK : Fld := ⟨0x100, 63, 32⟩
def MEM.CE_LAST : Fld := ⟨0x108, 63, 0⟩
def MEM.CE_LAST_P : Fld := ⟨0x108, 8, 0⟩
def MEM.CE_LAST_O : Fld := ⟨0x108, 30, 9⟩
def MEM.CE_LAST_VALID : Fld := ⟨0x108, 31, 31⟩
def MEM.CE_LAST_WORD : Fld := ⟨0x108, 37, 32⟩
def MEM.MISS_FIRST : Fld := ⟨0x110, 63, 0⟩
def MEM.MISS_FIRST_P : Fld := ⟨0x110, 8, 0⟩
def MEM.MISS_FIRST_KIND : Fld := ⟨0x110, 15, 12⟩
def MEM.MISS_FIRST_OVER : Fld := ⟨0x110, 16, 16⟩
def MEM.MISS_FIRST_VALID : Fld := ⟨0x110, 31, 31⟩
def MEM.MISS_FIRST_TICK : Fld := ⟨0x110, 63, 32⟩
def MEM.WIN_PTR : Fld := ⟨0x118, 31, 0⟩
def MEM.TEMP : Fld := ⟨0x120, 7, 0⟩

def MEM.regs0 : List RegInfo := [
  ⟨0x000, 0x0, 0x0, 0x0, 0x0⟩, ⟨0x008, 0x0, 0x0, 0x0, 0x0⟩, ⟨0x010, 0x0, 0x0, 0x0, 0x8000000000000000⟩,
  ⟨0x018, 0x0, 0x0, 0x0, 0x0⟩, ⟨0x020, 0x0, 0x0, 0xff, 0x0⟩, ⟨0x028, 0xff, 0x0, 0x0, 0x0⟩,
  ⟨0x030, 0x0, 0x0, 0x0, 0x0⟩, ⟨0x038, 0x0, 0x0, 0x0, 0x0⟩, ⟨0x040, 0x0, 0x0, 0x0, 0x0⟩,
  ⟨0x048, 0x0, 0x0, 0x0, 0x0⟩, ⟨0x050, 0x0, 0x0, 0x0, 0x0⟩, ⟨0x058, 0x0, 0x0, 0x0, 0x0⟩,
  ⟨0x060, 0x0, 0x0, 0x0, 0x0⟩, ⟨0x068, 0x0, 0x0, 0x0, 0x0⟩, ⟨0x070, 0x0, 0x0, 0x0, 0x0⟩,
  ⟨0x078, 0x0, 0x0, 0x0, 0x0⟩, ⟨0x080, 0x0, 0x0, 0x0, 0x0⟩, ⟨0x088, 0x0, 0x0, 0x0, 0x0⟩,
  ⟨0x090, 0x0, 0x0, 0x0, 0x0⟩, ⟨0x098, 0x0, 0x0, 0x0, 0x0⟩, ⟨0x100, 0x0, 0x0, 0x0, 0x0⟩,
  ⟨0x108, 0x0, 0x0, 0x0, 0x0⟩, ⟨0x110, 0x0, 0x0, 0x0, 0x0⟩, ⟨0x118, 0x0, 0x0, 0x0, 0x0⟩]
def MEM.regs1 : List RegInfo := [
  ⟨0x120, 0x0, 0x0, 0x0, 0x0⟩]
/-- The registers of a MEM page (R333, R410). -/
def MEM.regs : List RegInfo := MEM.regs0 ++ MEM.regs1

/-! LNK page (R237). -/
def LNK.CTRL_ENABLE : Fld := ⟨0x010, 0, 0⟩
def LNK.CTRL_ADMIT : Fld := ⟨0x010, 1, 1⟩
def LNK.CTRL_AUTO_RETRAIN : Fld := ⟨0x010, 2, 2⟩
def LNK.STATUS_STATE : Fld := ⟨0x018, 2, 0⟩
def LNK.STATUS_ADMIT_PEND : Fld := ⟨0x018, 3, 3⟩
def LNK.STATUS_LANES : Fld := ⟨0x018, 8, 4⟩
def LNK.STATUS_LANE_LOCK : Fld := ⟨0x018, 31, 16⟩
def LNK.EV_UP : Nat := 0
def LNK.EV_DOWN : Nat := 1
def LNK.EV_ADMITTED : Nat := 2
def LNK.EV_FEC_UNCORR : Nat := 3
def LNK.EV_CRC_DROP : Nat := 4
def LNK.EV_DESKEW_DROP : Nat := 5
def LNK.EV_DEAD_PORT_DROP : Nat := 6
def LNK.EV_LANE_FAIL : Nat := 7
def LNK.EV_RUN_UNDERRUN : Nat := 8
def LNK.CELL_TX_CNT : Fld := ⟨0x040, 63, 0⟩
def LNK.CELL_RX_CNT : Fld := ⟨0x048, 63, 0⟩
def LNK.IDLE_CNT : Fld := ⟨0x050, 63, 0⟩
def LNK.FEC_CORR_CNT : Fld := ⟨0x058, 63, 0⟩
def LNK.FEC_UNCORR_CNT : Fld := ⟨0x060, 63, 0⟩
def LNK.CRC_DROP_CNT : Fld := ⟨0x068, 63, 0⟩
def LNK.DESKEW_DROP_CNT : Fld := ⟨0x070, 63, 0⟩
def LNK.DEAD_PORT_DROP_CNT : Fld := ⟨0x078, 63, 0⟩
def LNK.DOWN_CNT : Fld := ⟨0x080, 63, 0⟩
def LNK.RUN_UNDERRUN_CNT : Fld := ⟨0x088, 63, 0⟩
def LNK.PEER : Fld := ⟨0x100, 63, 0⟩
def LNK.PEER_HALL_ID : Fld := ⟨0x100, 15, 0⟩
def LNK.PEER_PORT : Fld := ⟨0x100, 19, 16⟩
def LNK.PEER_VALID : Fld := ⟨0x100, 31, 31⟩
def LNK.LANE_FAIL : Fld := ⟨0x108, 15, 0⟩
def LNK.DOWN_TIME : Fld := ⟨0x110, 63, 0⟩
def LNK.RUN_PTR : Fld := ⟨0x118, 31, 0⟩
def LNK.TALLY_SENT : Fld := ⟨0x120, 63, 0⟩
def LNK.TALLY_RECV : Fld := ⟨0x128, 63, 0⟩

def LNK.regs0 : List RegInfo := [
  ⟨0x000, 0x0, 0x0, 0x0, 0x0⟩, ⟨0x008, 0x0, 0x0, 0x0, 0x0⟩, ⟨0x010, 0x0, 0x5, 0x0, 0x8000000000000002⟩,
  ⟨0x018, 0x0, 0x0, 0x0, 0x0⟩, ⟨0x020, 0x0, 0x0, 0x1ff, 0x0⟩, ⟨0x028, 0x1ff, 0x0, 0x0, 0x0⟩,
  ⟨0x030, 0x0, 0x0, 0x0, 0x0⟩, ⟨0x038, 0x0, 0x0, 0x0, 0x0⟩, ⟨0x040, 0x0, 0x0, 0x0, 0x0⟩,
  ⟨0x048, 0x0, 0x0, 0x0, 0x0⟩, ⟨0x050, 0x0, 0x0, 0x0, 0x0⟩, ⟨0x058, 0x0, 0x0, 0x0, 0x0⟩,
  ⟨0x060, 0x0, 0x0, 0x0, 0x0⟩, ⟨0x068, 0x0, 0x0, 0x0, 0x0⟩, ⟨0x070, 0x0, 0x0, 0x0, 0x0⟩,
  ⟨0x078, 0x0, 0x0, 0x0, 0x0⟩, ⟨0x080, 0x0, 0x0, 0x0, 0x0⟩, ⟨0x088, 0x0, 0x0, 0x0, 0x0⟩,
  ⟨0x100, 0x0, 0x0, 0x0, 0x0⟩, ⟨0x108, 0x0, 0x0, 0x0, 0x0⟩, ⟨0x110, 0x0, 0x0, 0x0, 0x0⟩,
  ⟨0x118, 0x0, 0x0, 0x0, 0x0⟩, ⟨0x120, 0x0, 0x0, 0x0, 0x0⟩, ⟨0x128, 0x0, 0x0, 0x0, 0x0⟩]
/-- The registers of a LNK page (R237, R410). -/
def LNK.regs : List RegInfo := LNK.regs0

/-! TCTL page (R124). -/
def TCTL.STATUS_OP : Fld := ⟨0x018, 1, 0⟩
def TCTL.STATUS_F_END : Fld := ⟨0x018, 8, 8⟩
def TCTL.STATUS_B_END : Fld := ⟨0x018, 9, 9⟩
def TCTL.STATUS_S_END : Fld := ⟨0x018, 10, 10⟩
def TCTL.STATUS_PENDING : Fld := ⟨0x018, 12, 12⟩
def TCTL.EV_FAULT : Nat := 0
def TCTL.EV_FAULT2 : Nat := 1
def TCTL.EV_POISON_OUT : Nat := 2
def TCTL.F_ISSUE_CNT : Fld := ⟨0x040, 63, 0⟩
def TCTL.B_ISSUE_CNT : Fld := ⟨0x048, 63, 0⟩
def TCTL.S_ISSUE_CNT : Fld := ⟨0x050, 63, 0⟩
def TCTL.FAULT_CNT : Fld := ⟨0x058, 63, 0⟩
def TCTL.FAULT2_CNT : Fld := ⟨0x060, 63, 0⟩
def TCTL.POISON_CNT : Fld := ⟨0x068, 63, 0⟩
def TCTL.POS : Fld := ⟨0x100, 63, 0⟩
def TCTL.POS_TILE : Fld := ⟨0x100, 6, 0⟩
def TCTL.POS_COLUMN : Fld := ⟨0x100, 11, 8⟩
def TCTL.POS_ROW : Fld := ⟨0x100, 14, 12⟩
def TCTL.POS_ZONE : Fld := ⟨0x100, 18, 16⟩
def TCTL.POS_DIE : Fld := ⟨0x100, 20, 20⟩
def TCTL.F_PTR : Fld := ⟨0x108, 31, 0⟩
def TCTL.B_PTR : Fld := ⟨0x110, 31, 0⟩
def TCTL.S_PTR : Fld := ⟨0x118, 31, 0⟩
def TCTL.FAULT_FIRST : Fld := ⟨0x120, 63, 0⟩
def TCTL.FAULT_FIRST_CODE : Fld := ⟨0x120, 3, 0⟩
def TCTL.FAULT_FIRST_STREAM : Fld := ⟨0x120, 5, 4⟩
def TCTL.FAULT_FIRST_UNIT : Fld := ⟨0x120, 19, 16⟩
def TCTL.FAULT_FIRST_VALID : Fld := ⟨0x120, 31, 31⟩
def TCTL.FAULT_FIRST_ISSUE : Fld := ⟨0x120, 63, 32⟩

def TCTL.regs0 : List RegInfo := [
  ⟨0x000, 0x0, 0x0, 0x0, 0x0⟩, ⟨0x008, 0x0, 0x0, 0x0, 0x0⟩, ⟨0x010, 0x0, 0x0, 0x0, 0x8000000000000000⟩,
  ⟨0x018, 0x0, 0x0, 0x0, 0x0⟩, ⟨0x020, 0x0, 0x0, 0x7, 0x0⟩, ⟨0x028, 0x7, 0x0, 0x0, 0x0⟩,
  ⟨0x030, 0x0, 0x0, 0x0, 0x0⟩, ⟨0x038, 0x0, 0x0, 0x0, 0x0⟩, ⟨0x040, 0x0, 0x0, 0x0, 0x0⟩,
  ⟨0x048, 0x0, 0x0, 0x0, 0x0⟩, ⟨0x050, 0x0, 0x0, 0x0, 0x0⟩, ⟨0x058, 0x0, 0x0, 0x0, 0x0⟩,
  ⟨0x060, 0x0, 0x0, 0x0, 0x0⟩, ⟨0x068, 0x0, 0x0, 0x0, 0x0⟩, ⟨0x100, 0x0, 0x0, 0x0, 0x0⟩,
  ⟨0x108, 0x0, 0x0, 0x0, 0x0⟩, ⟨0x110, 0x0, 0x0, 0x0, 0x0⟩, ⟨0x118, 0x0, 0x0, 0x0, 0x0⟩,
  ⟨0x120, 0x0, 0x0, 0x0, 0x0⟩]
/-- The registers of a TCTL page (R124, R410). -/
def TCTL.regs : List RegInfo := TCTL.regs0

/-! TARR page (R125). -/
def TARR.STATUS_SHADOW : Fld := ⟨0x018, 1, 0⟩
def TARR.STATUS_ACTIVE : Fld := ⟨0x018, 2, 2⟩
def TARR.STATUS_ACTIVE_24 : Fld := ⟨0x018, 3, 3⟩
def TARR.STATUS_ACTIVE_FMT : Fld := ⟨0x018, 7, 4⟩
def TARR.STATUS_HALF_A_PENDING : Fld := ⟨0x018, 8, 8⟩
def TARR.STATUS_HALF_B_PENDING : Fld := ⟨0x018, 9, 9⟩
def TARR.STATUS_HALF_A_POISON : Fld := ⟨0x018, 10, 10⟩
def TARR.STATUS_HALF_B_POISON : Fld := ⟨0x018, 11, 11⟩
def TARR.STATUS_SHADOW_POISON : Fld := ⟨0x018, 12, 12⟩
def TARR.STATUS_ACTIVE_POISON : Fld := ⟨0x018, 13, 13⟩
def TARR.EV_DUP_INDEX : Nat := 0
def TARR.EV_TP24_VIOLATION : Nat := 1
def TARR.EV_ACC_OVERFLOW : Nat := 2
def TARR.EV_NAN_GENERATED : Nat := 3
def TARR.EV_SHADOW_COLLISION : Nat := 4
def TARR.EV_HALF_COLLISION : Nat := 5
def TARR.LOAD_CNT : Fld := ⟨0x040, 63, 0⟩
def TARR.STREAM_CNT : Fld := ⟨0x048, 63, 0⟩
def TARR.DRAIN_CNT : Fld := ⟨0x050, 63, 0⟩
def TARR.ROWS_CNT : Fld := ⟨0x058, 63, 0⟩
def TARR.ROWS_GATED_CNT : Fld := ⟨0x060, 63, 0⟩
def TARR.DUP_INDEX_CNT : Fld := ⟨0x068, 63, 0⟩
def TARR.TP24_VIOL_CNT : Fld := ⟨0x070, 63, 0⟩
def TARR.ACC_OVERFLOW_CNT : Fld := ⟨0x078, 63, 0⟩
def TARR.NAN_GEN_CNT : Fld := ⟨0x080, 63, 0⟩
def TARR.LOAD_LOSS_CNT : Fld := ⟨0x088, 63, 0⟩
def TARR.BUSY_CNT : Fld := ⟨0x090, 63, 0⟩
def TARR.ACTIVE_DESC : Fld := ⟨0x100, 63, 0⟩
def TARR.ACTIVE_DESC_DESC : Fld := ⟨0x100, 11, 0⟩
def TARR.ACTIVE_DESC_VALID : Fld := ⟨0x100, 15, 15⟩
def TARR.SHADOW_DESC : Fld := ⟨0x108, 63, 0⟩
def TARR.SHADOW_DESC_DESC : Fld := ⟨0x108, 11, 0⟩
def TARR.SHADOW_DESC_VALID : Fld := ⟨0x108, 15, 15⟩

def TARR.regs0 : List RegInfo := [
  ⟨0x000, 0x0, 0x0, 0x0, 0x0⟩, ⟨0x008, 0x0, 0x0, 0x0, 0x0⟩, ⟨0x010, 0x0, 0x0, 0x0, 0x8000000000000000⟩,
  ⟨0x018, 0x0, 0x0, 0x0, 0x0⟩, ⟨0x020, 0x0, 0x0, 0x3f, 0x0⟩, ⟨0x028, 0x3f, 0x0, 0x0, 0x0⟩,
  ⟨0x030, 0x0, 0x0, 0x0, 0x0⟩, ⟨0x038, 0x0, 0x0, 0x0, 0x0⟩, ⟨0x040, 0x0, 0x0, 0x0, 0x0⟩,
  ⟨0x048, 0x0, 0x0, 0x0, 0x0⟩, ⟨0x050, 0x0, 0x0, 0x0, 0x0⟩, ⟨0x058, 0x0, 0x0, 0x0, 0x0⟩,
  ⟨0x060, 0x0, 0x0, 0x0, 0x0⟩, ⟨0x068, 0x0, 0x0, 0x0, 0x0⟩, ⟨0x070, 0x0, 0x0, 0x0, 0x0⟩,
  ⟨0x078, 0x0, 0x0, 0x0, 0x0⟩, ⟨0x080, 0x0, 0x0, 0x0, 0x0⟩, ⟨0x088, 0x0, 0x0, 0x0, 0x0⟩,
  ⟨0x090, 0x0, 0x0, 0x0, 0x0⟩, ⟨0x100, 0x0, 0x0, 0x0, 0x0⟩, ⟨0x108, 0x0, 0x0, 0x0, 0x0⟩]
/-- The registers of a TARR page (R125, R410). -/
def TARR.regs : List RegInfo := TARR.regs0

/-! TVEC page (R183). -/
def TVEC.STATUS_BUSY : Fld := ⟨0x018, 0, 0⟩
def TVEC.STATUS_LAST_CLASS : Fld := ⟨0x018, 7, 4⟩
def TVEC.STATUS_LAST_OP : Fld := ⟨0x018, 15, 8⟩
def TVEC.EV_EMPTY_ROW : Nat := 0
def TVEC.EV_INF_ROW : Nat := 1
def TVEC.EV_NAN_ROW : Nat := 2
def TVEC.EV_TOPK_SHORT : Nat := 3
def TVEC.EV_INDEX_RANGE : Nat := 4
def TVEC.EV_DUP_SCATTER : Nat := 5
def TVEC.EV_SINGULAR_FLOORED : Nat := 6
def TVEC.EV_SPD_BAD : Nat := 7
def TVEC.EV_ARG_RANGE : Nat := 8
def TVEC.EV_DOMAIN : Nat := 9
def TVEC.EV_BAD_STATE : Nat := 10
def TVEC.ISSUE_CNT : Fld := ⟨0x040, 63, 0⟩
def TVEC.BUSY_CNT : Fld := ⟨0x048, 63, 0⟩
def TVEC.EMPTY_ROW_CNT : Fld := ⟨0x050, 63, 0⟩
def TVEC.INF_ROW_CNT : Fld := ⟨0x058, 63, 0⟩
def TVEC.NAN_ROW_CNT : Fld := ⟨0x060, 63, 0⟩
def TVEC.TOPK_SHORT_CNT : Fld := ⟨0x068, 63, 0⟩
def TVEC.INDEX_RANGE_CNT : Fld := ⟨0x070, 63, 0⟩
def TVEC.DUP_SCATTER_CNT : Fld := ⟨0x078, 63, 0⟩
def TVEC.FLOORED_CNT : Fld := ⟨0x080, 63, 0⟩
def TVEC.SPD_BAD_CNT : Fld := ⟨0x088, 63, 0⟩
def TVEC.ARG_RANGE_CNT : Fld := ⟨0x090, 63, 0⟩
def TVEC.DOMAIN_CNT : Fld := ⟨0x098, 63, 0⟩
def TVEC.BAD_STATE_CNT : Fld := ⟨0x0a0, 63, 0⟩
def TVEC.SEED : Fld := ⟨0x100, 63, 0⟩
def TVEC.LAST : Fld := ⟨0x108, 63, 0⟩
def TVEC.LAST_DESC : Fld := ⟨0x108, 11, 0⟩
def TVEC.LAST_CLASS : Fld := ⟨0x108, 15, 12⟩
def TVEC.LAST_OP : Fld := ⟨0x108, 23, 16⟩
def TVEC.LAST_VALID : Fld := ⟨0x108, 31, 31⟩
def TVEC.LAST_ISSUE : Fld := ⟨0x108, 63, 32⟩
def TVEC.EVENT_FIRST_DESC : Fld := ⟨0x110, 63, 0⟩
def TVEC.EVENT_FIRST_DESC_DESC : Fld := ⟨0x110, 11, 0⟩
def TVEC.EVENT_FIRST_DESC_VALID : Fld := ⟨0x110, 15, 15⟩

def TVEC.regs0 : List RegInfo := [
  ⟨0x000, 0x0, 0x0, 0x0, 0x0⟩, ⟨0x008, 0x0, 0x0, 0x0, 0x0⟩, ⟨0x010, 0x0, 0x0, 0x0, 0x8000000000000000⟩,
  ⟨0x018, 0x0, 0x0, 0x0, 0x0⟩, ⟨0x020, 0x0, 0x0, 0x7ff, 0x0⟩, ⟨0x028, 0x7ff, 0x0, 0x0, 0x0⟩,
  ⟨0x030, 0x0, 0x0, 0x0, 0x0⟩, ⟨0x038, 0x0, 0x0, 0x0, 0x0⟩, ⟨0x040, 0x0, 0x0, 0x0, 0x0⟩,
  ⟨0x048, 0x0, 0x0, 0x0, 0x0⟩, ⟨0x050, 0x0, 0x0, 0x0, 0x0⟩, ⟨0x058, 0x0, 0x0, 0x0, 0x0⟩,
  ⟨0x060, 0x0, 0x0, 0x0, 0x0⟩, ⟨0x068, 0x0, 0x0, 0x0, 0x0⟩, ⟨0x070, 0x0, 0x0, 0x0, 0x0⟩,
  ⟨0x078, 0x0, 0x0, 0x0, 0x0⟩, ⟨0x080, 0x0, 0x0, 0x0, 0x0⟩, ⟨0x088, 0x0, 0x0, 0x0, 0x0⟩,
  ⟨0x090, 0x0, 0x0, 0x0, 0x0⟩, ⟨0x098, 0x0, 0x0, 0x0, 0x0⟩, ⟨0x0a0, 0x0, 0x0, 0x0, 0x0⟩,
  ⟨0x100, 0x0, 0xffffffffffffffff, 0x0, 0x0⟩, ⟨0x108, 0x0, 0x0, 0x0, 0x0⟩, ⟨0x110, 0x0, 0x0, 0x0, 0x0⟩]
/-- The registers of a TVEC page (R183, R410). -/
def TVEC.regs : List RegInfo := TVEC.regs0

/-! TMIL page (R152). -/
def TMIL.STATUS_BUSY : Fld := ⟨0x018, 0, 0⟩
def TMIL.STATUS_LAST_OP : Fld := ⟨0x018, 3, 1⟩
def TMIL.STATUS_LAST_ESCAPE : Fld := ⟨0x018, 4, 4⟩
def TMIL.EV_EDGE_BITS_DROPPED : Nat := 0
def TMIL.EV_INDEX_DROPPED : Nat := 1
def TMIL.EV_DUP_COORD : Nat := 2
def TMIL.EV_OVERFULL_GROUPS : Nat := 3
def TMIL.EV_CEILING_EXCEEDED : Nat := 4
def TMIL.EV_HDR_MISMATCH : Nat := 5
def TMIL.DECODE_CNT : Fld := ⟨0x040, 63, 0⟩
def TMIL.ENCODE_CNT : Fld := ⟨0x048, 63, 0⟩
def TMIL.ESCAPE_CNT : Fld := ⟨0x050, 63, 0⟩
def TMIL.EDGE_BITS_CNT : Fld := ⟨0x058, 63, 0⟩
def TMIL.INDEX_DROP_CNT : Fld := ⟨0x060, 63, 0⟩
def TMIL.DUP_COORD_CNT : Fld := ⟨0x068, 63, 0⟩
def TMIL.OVERFULL_CNT : Fld := ⟨0x070, 63, 0⟩
def TMIL.CEIL_NNZ_CNT : Fld := ⟨0x078, 63, 0⟩
def TMIL.CEIL_ROW_CNT : Fld := ⟨0x080, 63, 0⟩
def TMIL.HDR_MISMATCH_CNT : Fld := ⟨0x088, 63, 0⟩
def TMIL.BYTES_READ_CNT : Fld := ⟨0x090, 63, 0⟩
def TMIL.LAST_TILE : Fld := ⟨0x100, 63, 0⟩
def TMIL.LAST_TILE_NNZ : Fld := ⟨0x100, 12, 0⟩
def TMIL.LAST_TILE_NB : Fld := ⟨0x100, 22, 16⟩
def TMIL.LAST_TILE_SIZE : Fld := ⟨0x100, 63, 32⟩
def TMIL.CEIL_FIRST : Fld := ⟨0x108, 63, 0⟩
def TMIL.CEIL_FIRST_DESC : Fld := ⟨0x108, 11, 0⟩
def TMIL.CEIL_FIRST_OP : Fld := ⟨0x108, 14, 12⟩
def TMIL.CEIL_FIRST_VALID : Fld := ⟨0x108, 15, 15⟩
def TMIL.CEIL_FIRST_ISSUE : Fld := ⟨0x108, 63, 32⟩
def TMIL.SLOT (i : Nat) : Fld := ⟨0x200 + 0x8 * i, 63, 0⟩
def TMIL.SLOT_COUNT (i : Nat) : Fld := ⟨0x200 + 0x8 * i, 10, 0⟩
def TMIL.SLOT_MIN_ROWS (i : Nat) : Fld := ⟨0x200 + 0x8 * i, 26, 16⟩
def TMIL.SLOT_VALID (i : Nat) : Fld := ⟨0x200 + 0x8 * i, 31, 31⟩

def TMIL.regs0 : List RegInfo := [
  ⟨0x000, 0x0, 0x0, 0x0, 0x0⟩, ⟨0x008, 0x0, 0x0, 0x0, 0x0⟩, ⟨0x010, 0x0, 0x0, 0x0, 0x8000000000000000⟩,
  ⟨0x018, 0x0, 0x0, 0x0, 0x0⟩, ⟨0x020, 0x0, 0x0, 0x3f, 0x0⟩, ⟨0x028, 0x3f, 0x0, 0x0, 0x0⟩,
  ⟨0x030, 0x0, 0x0, 0x0, 0x0⟩, ⟨0x038, 0x0, 0x0, 0x0, 0x0⟩, ⟨0x040, 0x0, 0x0, 0x0, 0x0⟩,
  ⟨0x048, 0x0, 0x0, 0x0, 0x0⟩, ⟨0x050, 0x0, 0x0, 0x0, 0x0⟩, ⟨0x058, 0x0, 0x0, 0x0, 0x0⟩,
  ⟨0x060, 0x0, 0x0, 0x0, 0x0⟩, ⟨0x068, 0x0, 0x0, 0x0, 0x0⟩, ⟨0x070, 0x0, 0x0, 0x0, 0x0⟩,
  ⟨0x078, 0x0, 0x0, 0x0, 0x0⟩, ⟨0x080, 0x0, 0x0, 0x0, 0x0⟩, ⟨0x088, 0x0, 0x0, 0x0, 0x0⟩,
  ⟨0x090, 0x0, 0x0, 0x0, 0x0⟩, ⟨0x100, 0x0, 0x0, 0x0, 0x0⟩, ⟨0x108, 0x0, 0x0, 0x0, 0x0⟩,
  ⟨0x200, 0x0, 0x0, 0x0, 0x0⟩, ⟨0x208, 0x0, 0x0, 0x0, 0x0⟩, ⟨0x210, 0x0, 0x0, 0x0, 0x0⟩]
def TMIL.regs1 : List RegInfo := [
  ⟨0x218, 0x0, 0x0, 0x0, 0x0⟩, ⟨0x220, 0x0, 0x0, 0x0, 0x0⟩, ⟨0x228, 0x0, 0x0, 0x0, 0x0⟩,
  ⟨0x230, 0x0, 0x0, 0x0, 0x0⟩, ⟨0x238, 0x0, 0x0, 0x0, 0x0⟩, ⟨0x240, 0x0, 0x0, 0x0, 0x0⟩,
  ⟨0x248, 0x0, 0x0, 0x0, 0x0⟩, ⟨0x250, 0x0, 0x0, 0x0, 0x0⟩, ⟨0x258, 0x0, 0x0, 0x0, 0x0⟩,
  ⟨0x260, 0x0, 0x0, 0x0, 0x0⟩, ⟨0x268, 0x0, 0x0, 0x0, 0x0⟩, ⟨0x270, 0x0, 0x0, 0x0, 0x0⟩,
  ⟨0x278, 0x0, 0x0, 0x0, 0x0⟩]
/-- The registers of a TMIL page (R152, R410). -/
def TMIL.regs : List RegInfo := TMIL.regs0 ++ TMIL.regs1

/-! TSPD page (R204). -/
def TSPD.STATUS_WAKING : Fld := ⟨0x018, 0, 0⟩
def TSPD.STATUS_BANK_ON : Fld := ⟨0x018, 31, 16⟩
def TSPD.EV_OFF_BANK_ACCESS : Nat := 0
def TSPD.LOSS_CNT (i : Nat) : Fld := ⟨0x040 + 0x8 * i, 63, 0⟩
def TSPD.OFF_ACCESS_CNT : Fld := ⟨0x070, 63, 0⟩
def TSPD.ACCESS_CNT : Fld := ⟨0x078, 63, 0⟩
def TSPD.BANK_PWR : Fld := ⟨0x100, 31, 0⟩
def TSPD.BANK_STATE : Fld := ⟨0x108, 31, 0⟩
def TSPD.OFF_FIRST : Fld := ⟨0x110, 63, 0⟩
def TSPD.OFF_FIRST_ADDR : Fld := ⟨0x110, 21, 0⟩
def TSPD.OFF_FIRST_RANK : Fld := ⟨0x110, 35, 32⟩
def TSPD.OFF_FIRST_VALID : Fld := ⟨0x110, 39, 39⟩

def TSPD.regs0 : List RegInfo := [
  ⟨0x000, 0x0, 0x0, 0x0, 0x0⟩, ⟨0x008, 0x0, 0x0, 0x0, 0x0⟩, ⟨0x010, 0x0, 0x0, 0x0, 0x8000000000000000⟩,
  ⟨0x018, 0x0, 0x0, 0x0, 0x0⟩, ⟨0x020, 0x0, 0x0, 0x1, 0x0⟩, ⟨0x028, 0x1, 0x0, 0x0, 0x0⟩,
  ⟨0x030, 0x0, 0x0, 0x0, 0x0⟩, ⟨0x038, 0x0, 0x0, 0x0, 0x0⟩, ⟨0x040, 0x0, 0x0, 0x0, 0x0⟩,
  ⟨0x048, 0x0, 0x0, 0x0, 0x0⟩, ⟨0x050, 0x0, 0x0, 0x0, 0x0⟩, ⟨0x058, 0x0, 0x0, 0x0, 0x0⟩,
  ⟨0x060, 0x0, 0x0, 0x0, 0x0⟩, ⟨0x068, 0x0, 0x0, 0x0, 0x0⟩, ⟨0x070, 0x0, 0x0, 0x0, 0x0⟩,
  ⟨0x078, 0x0, 0x0, 0x0, 0x0⟩, ⟨0x100, 0x0, 0xffffffff, 0x0, 0x0⟩, ⟨0x108, 0x0, 0x0, 0x0, 0x0⟩,
  ⟨0x110, 0x0, 0x0, 0x0, 0x0⟩]
/-- The registers of a TSPD page (R204, R410). -/
def TSPD.regs : List RegInfo := TSPD.regs0

/-- The register table of each page (R422). -/
def pageRegs : Page → List RegInfo
  | .glb => GLB.regs
  | .hif => HIF.regs
  | .irq => IRQ.regs
  | .htm => HTM.regs
  | .sch => SCH.regs
  | .pwr => PWR.regs
  | .thm => THM.regs
  | .sec => SEC.regs
  | .bst => BST.regs
  | .hyd => HYD.regs
  | .ltr => LTR.regs
  | .coop => COOP.regs
  | .swx => SWX.regs
  | .rack => RACK.regs
  | .zn _ => ZN.regs
  | .kln _ => KLN.regs
  | .mem _ => MEM.regs
  | .lnk _ => LNK.regs
  | .tctl _ => TCTL.regs
  | .tarr _ => TARR.regs
  | .tvec _ => TVEC.regs
  | .tmil _ => TMIL.regs
  | .tspd _ => TSPD.regs

/-- Block type of each page (R422). -/
def pageType : Page → Nat
  | .glb => 0x0001
  | .hif => 0x0002
  | .irq => 0x0003
  | .htm => 0x0004
  | .sch => 0x0005
  | .pwr => 0x0006
  | .thm => 0x0007
  | .sec => 0x0008
  | .bst => 0x0009
  | .hyd => 0x000A
  | .ltr => 0x000B
  | .coop => 0x000C
  | .swx => 0x000D
  | .rack => 0x000E
  | .zn _ => 0x0010
  | .kln _ => 0x0011
  | .mem _ => 0x0012
  | .lnk _ => 0x0013
  | .tctl _ => 0x0020
  | .tarr _ => 0x0021
  | .tvec _ => 0x0022
  | .tmil _ => 0x0023
  | .tspd _ => 0x0024

/-- FEAT mask of each page (R411, R422). -/
def pageFeatMask : Page → Nat
  | .glb => 0x0000
  | .hif => 0x0000
  | .irq => 0x0000
  | .htm => 0x0400
  | .sch => 0x2021
  | .pwr => 0x0100
  | .thm => 0x0000
  | .sec => 0x2000
  | .bst => 0x0000
  | .hyd => 0xC002
  | .ltr => 0x1000
  | .coop => 0x0080
  | .swx => 0x0002
  | .rack => 0x0260
  | .zn _ => 0x0000
  | .kln _ => 0x0006
  | .mem _ => 0x0000
  | .lnk _ => 0x0000
  | .tctl _ => 0x0000
  | .tarr _ => 0x0008
  | .tvec _ => 0x0800
  | .tmil _ => 0x0018
  | .tspd _ => 0x0000

end Sys2Proof.Machine
end

