-- ==== Sys2Proof/Machine/State.lean ====
section
/-! DEFINITION. The state of the module: plain data, nothing of it a function.  Registers live in ONE sparse map keyed by BAR0
offset; every other store is a sparse map (sorted, entries equal to the default left out) or a record. -/
namespace Sys2Proof.Machine

/-- Why the machine would stop with a fault.  The spec never stops the module without a state of its own (a FATAL fault of
R402 is a state, not a stop), so no command raises one.  Safe. -/
inductive Fault where
deriving DecidableEq, Repr

/-- Why a command is refused. -/
inductive Refusal where
  /-- Raised only by an arm of `exec` whose meaning is not written yet.  Safe: nothing is claimed of such a command. -/
  | notModelled (mnemonic : String)
deriving DecidableEq, Repr

/-- A sparse store: rising keys, and no entry equal to the store's default. -/
abbrev SMap (α : Type) := List (Nat × α)

/-- An exact value of R77, R80, R82, R107: NaN, an infinity, or sign × m × 2^e (a zero keeps its sign). -/
inductive Fp where
  | nan
  | inf (neg : Bool)
  | fin (neg : Bool) (m : Nat) (e : Int)
deriving DecidableEq, Repr

/-- The clocks: ACLK phases since power-on (8 GHz root ÷ 2), and HT as 64.16 fixed point (R28, R29), which the test of block 141
stops (R396). -/
structure Clock where
  phase : Phase
  ht : BitVec 80
  stopped : Bool
deriving DecidableEq, Repr

/-- What the module keeps of one port's time exchange (R34 to R36).  Delays and offsets are doubled, in 1/65,536 ns. -/
structure HtmPort where
  t1 : BitVec 80
  t2 : BitVec 80
  haveEcho : Bool
  seq : BitVec 16
  exchanges : Nat
  delays : List Int
  offset : Option Int
  goodRun : Nat
  missed : Nat
  lost : Bool
  heard : Bool
  locked : Bool
  gm : Bool
  gmId : BitVec 16
  stratum : Nat
  lastAt : Phase
  sentAt : Nat
  symParts : Nat
  symBits : BitVec 260
  symAt : BitVec 80
deriving DecidableEq, Repr

/-- The time unit beside the HTM page (R29 to R48). -/
structure Htm where
  ports : SMap HtmPort
  todPending : Option Reg
  enabledAt : Phase
  loadedAt : Option Phase
  edgeAt : Option Phase
  stepped : Bool
  offRun : Nat
  okRun : Nat
  filtered : Int
  holdAt : Phase
  holdEst : Nat
  gmSeenAt : Phase
  source : Option (Fin 12)
  ptmT1 : Option (BitVec 80)
  autoAt : Phase
  pulseAt : Option Phase
  conflict : Bool
  tickMissing : Bool
  integral : Int
  servoAt : Phase
  tickFrom : Phase
  held : Bool
deriving DecidableEq, Repr

/-- A directory entry of an image (R50). -/
structure Section_ where
  typ : Nat
  inst : Nat
  len : Nat
  off : Nat
deriving DecidableEq, Repr

/-- A command window of R325. -/
structure MemWin where
  start : Nat
  len : Nat
  kind : Nat
  owner : Nat
deriving DecidableEq, Repr

/-- The bubble windows and carve-out of one tile (R315). -/
structure Bubble where
  tile : Nat
  banks : BitVec 16
  descBase : Nat
  descCount : Nat
  hbmBase : Nat
  hbmLen : Nat
  chBase : Nat
  chCount : Nat
  wins : List (Nat × Nat)
deriving DecidableEq, Repr

/-- A batch entry of the sequence table (R300). -/
structure Batch where
  resv : Nat
  firstId : Nat
  maxSeq : Nat
  list : Nat
  out : Nat
deriving DecidableEq, Repr

/-- An entry of the power declaration (R356). -/
structure PowerEntry where
  repeats : Nat
  ballast : BitVec 32
  energy : List Nat
  peak : List Nat
deriving DecidableEq, Repr

/-- A pool of the cooperage plan (R193). -/
structure Pool where
  scratch : Bool
  named : Bool
  stepScoped : Bool
  tile : Nat
  idBase : Nat
  base : Nat
  len : Nat
  counts : List Nat
deriving DecidableEq, Repr

/-- What the module keeps of a loaded image (R50 to R54): the header, the directory, and the sections it holds on chip. -/
structure Image where
  base : Nat
  len : Nat
  second : Bool
  signed : Bool
  untimedOnly : Bool
  reqFeat : Reg
  stepPeriod : Nat
  lastDigest : Nat
  opmap : BitVec 16
  hallId : BitVec 16
  portDelay : List Nat
  dir : List Section_
  ticks : List Nat
  windows : SMap (List MemWin)
  bubbles : List Bubble
  lead : Nat
  batches : List Batch
  pre : Nat
  hold : BitVec 32
  power : List PowerEntry
deriving DecidableEq, Repr

/-- A load in progress: for which image, from where, and the STATE that a LOAD2 returns to (R52, R316). -/
structure Loading where
  second : Bool
  base : Nat
  len : Nat
  prev : Nat
deriving DecidableEq, Repr

/-- The regime of the step in progress (R15). -/
inductive Regime where
  | none | timed | untimed
deriving DecidableEq, Repr

/-- A DIGEST result delivered to the scheduler: when, and when it was combined, in phases from step start (R229, R230). -/
structure DigestRes where
  tick : Nat
  edge : Nat
  data : BitVec 480
  missing : Bool
  poison : Bool
  second : Bool
deriving DecidableEq, Repr

/-- A step that has ended and whose hydrometer record is not written yet (R289): when it ended, whether it committed, its step
number when it started, and the format selections that it used. -/
structure RecordDue where
  at_ : Phase
  valid : Bool
  index : Nat
  sel : SMap (Option (BitVec 4 × BitVec 8))
deriving DecidableEq, Repr

/-- The scheduler beside the SCH page (R52 to R74). -/
structure Sched where
  img : Option Image
  img2 : Option Image
  loading : Option Loading
  armed : Option (Nat × Bool)
  armPhase : Phase
  next : Option Nat
  regime : Regime
  startTick : Nat
  startPhase : Phase
  causes : BitVec 6
  causesNext : BitVec 6
  causes2 : BitVec 6
  causes2Next : BitVec 6
  digested : Nat
  digested2 : Nat
  results : List DigestRes
  result : Option DigestRes
  valid : Option Bool
  verdict2 : Bool
  stop : Bool
  uStarted : Bool
  endPhase : Phase
  startIndex : Nat
  prevCut : Nat
  recordDue : Option RecordDue
  seqDone : Nat
deriving DecidableEq, Repr

/-- A quarter of a ring that waits for its refill (R57): quarter number in the section, the tick it was emptied at, and the
controllers that still owe granules. -/
structure Waiting where
  quarter : Nat
  since : Nat
  owed : List Nat
  latest : Nat
deriving DecidableEq, Repr

/-- A front (or a port's run reader): the next word, the words of its section, whether it ended, the last issue time, the
quarters it can read with the time each became usable, the quarters it waits for, per controller the START of the last
window that refilled one, the 16-byte words that its ring has read from HBM so far, by their number in the section, with the poison
of each, and the time of its last issue (R57 to R59, R220). -/
structure Front where
  ptr : Nat
  len : Nat
  ended : Bool
  lastIssue : Option Nat
  usable : List (Nat × Phase)
  waiting : List Waiting
  used : SMap Nat
  words : SMap (Nat × Bool)
  lastAt : Option Phase
deriving DecidableEq, Repr

/-- A stationary block: the kept terms of each column as (reduction row, value), with the load's descriptor, the banks that the load
reads in each VCLK cycle, and the cycles it has lost (R97, R101, R111). -/
structure Block where
  desc : BitVec 12
  stream : Stream
  fmt : BitVec 4
  sparse : Bool
  terms : Nat
  poison : Bool
  fullAt : Phase
  issuedAt : Phase
  cols : List (List (Nat × Fp))
  reads : List (BitVec 16)
  lost : Nat
deriving DecidableEq, Repr

/-- The activation reads of a stream: its issue, and the banks read in each VCLK cycle from there (R101, R103). -/
structure ActRead where
  at_ : Phase
  banks : List (BitVec 16)
deriving DecidableEq, Repr

/-- The stationary buffers of a tile: active block, shadow block that no SWAP stream has taken, block being loaded; and the streams whose
reads the loader may meet (R99, R101). -/
structure ArrSt where
  active : Option Block
  held : Option Block
  incoming : Option Block
  acts : List ActRead
deriving DecidableEq, Repr

/-- One accumulator row (R105). -/
structure AccRow where
  vals : List W32
  poison : Bool
deriving DecidableEq, Repr

/-- A region that the pending-write tracker of R69 marks. -/
inductive Region where
  | granule (tile : Nat) (g : Nat)
  | shadow (tile : Nat)
  | active (tile : Nat)
  | half (tile : Nat) (b : Bool)
deriving DecidableEq, Repr

/-- A pending mark: the region and the phase until which it holds. -/
structure Pend where
  region : Region
  till : Phase
deriving DecidableEq, Repr

/-- A bank transition in progress (R188): the state that it ends in, the time from which it counts cycles of VCLK, its end, and whether
it clears the bank. -/
structure BankTr where
  target : Nat
  from_ : Phase
  endsAt : Phase
  clears : Bool
deriving DecidableEq, Repr

/-- A live buffer of the cooperage (R198 to R200). -/
structure Buf where
  live : Bool
  count : Nat
  owner : BitVec 16
  valid : Nat
deriving DecidableEq, Repr

/-- An allocation that waits for its completion (R195). -/
structure AllocRes where
  at_ : Phase
  unit : BitVec 16
  buffer : Option (BitVec 16)
deriving DecidableEq, Repr

/-- What a unit asks of the cooperage: an allocation, with its pool, size and INIT, or the release of a buffer (R195, R199). -/
inductive CoopAct where
  | ask (pool size : Nat) (init : BitVec 16)
  | release (buffer : Nat)
deriving DecidableEq, Repr

/-- A request or a release that a unit sends for the MCLK cycle of a time (R196, R201, R251, R443). -/
structure CoopDue where
  at_ : Phase
  unit : BitVec 16
  act : CoopAct
deriving DecidableEq, Repr

/-- The cooperage beside the COOP page. -/
structure Coop where
  pools : SMap (Option Pool)
  bufs : SMap Buf
  waiting : List AllocRes
  due : List CoopDue
  cycle : Nat
  accepted : Nat
  releases : Nat
  freed : List Nat
deriving DecidableEq, Repr

/-- Where the data of a path goes that ends at this switch (R215, R217, R230): rows of the tile's scratchpad, with the valid count
it advances, a cooperage buffer in HBM, the lauter engine, with the input by which the message came to the edge switch (R253), a
rack, Zhexal, the scheduler, with the time of the combine that a DIGEST result comes from, or nowhere. -/
inductive Sink where
  | none
  | rows (tile addr : Nat) (count : Bool) (buf : Option Nat)
  | hbm (buf addr : Nat)
  | lauter (input : Nat)
  | rack
  | zhexal
  | digest (edge : Phase)
deriving DecidableEq, Repr

/-- What the next switch of this module does with a cell: act on its route entry, leave through link ports of that edge
(R214), reach tiles of a row or column from a scratchpad address, with the buffer it fills (R215, R216, R218), join a combine
(R226), go where a best-effort head names (R232), go to an edge switch and act on its route entry there, or go to a sink beside the
mesh: the central block, or the edge unit of a stack (R437). -/
inductive Goal where
  | route
  | ports (ps : List Nat)
  | land (mode tile addr : Nat) (buf : Option Nat)
  | reduce
  | be
  | edge (east : Bool)
  | engine (sink : Sink) (stack : Nat)
deriving DecidableEq, Repr

/-- A cell on its way to a switch input: the phase of its slot edge there, its mesh lane, and, for a cell that failed its CRC,
that only its slot arrives (R209, R210, R221). -/
structure Flight where
  at_ : Phase
  sw : Sw
  input : Nat
  lane : Nat
  cell : FCell
  goal : Goal
  lost : Bool
deriving DecidableEq, Repr

/-- What a unit does at a later time with a command that it has taken (R67, R68, R440): bytes enter HBM, at a physical granule and
offsets in it, or a tile's scratchpad; a granule is read from a tile's scratchpad and enters HBM at a time after that; or the
data of a cell on its way are read from a tile's scratchpad, to stand from a bit of the cell's body. -/
inductive DueAct where
  | hbm (gran : Nat) (data : List (Nat × List Byte)) (poison : Bool)
  | spad (tile : Fin 128) (addr : Nat) (data : List Byte) (poison : Bool)
  | fetch (tile : Fin 128) (addr gran : Nat) (late : Bool) (till : Phase)
  | cell (tile : Fin 128) (addr len : Nat) (late : Bool) (shift : Nat) (flight : Flight)
  | reopen (out : Nat)
deriving DecidableEq, Repr

/-- Such an act and its time. -/
structure Due where
  at_ : Phase
  act : DueAct
deriving DecidableEq, Repr

/-- An output of a latched path: its number, its lane, what the next switch does, whether HOP goes up there, and whether the
path ends in a sink there. -/
structure OutPath where
  out : Nat
  lane : Nat
  goal : Goal
  inc : Bool
  ends : Bool
deriving DecidableEq, Repr

/-- What becomes of the later cells of a message: passed, discarded with the message, or discarded and counted (R222 to R225). -/
inductive Fate where
  | pass | gone | trunc
deriving DecidableEq, Repr

/-- A path latched in a switch (R222): `low` says that it ranks as best effort (R224), `noChan` that each cell of it calls for a
channel entry that is empty (R215); the last four fields are what has reached its sink. -/
structure Latch where
  sw : Sw
  input : Nat
  lane : Nat
  outs : List OutPath
  sink : Sink
  channel : BitVec 16
  be : Bool
  bg : Bool
  low : Bool
  fate : Fate
  noChan : Bool
  nextIndex : Nat
  lastAt : Phase
  period : Nat
  poison : Bool
  cells : Nat
  head : BitVec 480
  body : List Byte
deriving DecidableEq, Repr

/-- An output slot that a cell without a path takes (R223, R226). -/
structure TakenSlot where
  sw : Sw
  out : Nat
  lane : Nat
  at_ : Phase
deriving DecidableEq, Repr

/-- A best-effort message that waits at its source (R225): the router and the input that it enters by, and, for the last message of
a rack's chunk, the key of the chunk (R310). -/
structure BeMsg where
  tile : Nat
  input : Nat
  cells : List FCell
  readyAt : Phase
  chunk : Option Nat
deriving DecidableEq, Repr

/-- A message that has reached the lauter engine, a rack or Zhexal (R250, R310): the input that the last switch took it by, when its
last cell arrived, its head's data and the data of its body cells. -/
structure Msg where
  sink : Sink
  input : Nat
  channel : BitVec 16
  at_ : Phase
  head : BitVec 480
  body : List Byte
  poison : Bool
deriving DecidableEq, Repr

/-- The fabric beside the LNK and SWX pages; `pooled` is the arrival list of R216 for channels that are no lauter intake, and
`slotFree` the first time after the slots that departed parts of a channel have taken (R251); `idle` since when the slots of a
port count, and how many cells it has sent since (IDLE_CNT of R237). -/
structure Fabric where
  flight : List Flight
  latches : List Latch
  taken : List TakenSlot
  be : List BeMsg
  channels : SMap (BitVec 256)
  msgs : SMap Nat
  valid : SMap Nat
  sentCrc : SMap Reg
  recvCrc : SMap Reg
  badRun : SMap Nat
  downAt : SMap Phase
  arrived : List Msg
  pooled : List (Nat × Nat)
  digest : Option (BitVec 480)
  digestAt : Phase
  digest2 : Option (BitVec 480)
  digestAt2 : Phase
  digestOwed : List Nat
  closed : List Nat
  slotFree : SMap Phase
  idle : SMap (Phase × Nat)
deriving DecidableEq, Repr

/-- A token-choice that waits for its channel's slots (R244, R251); `part` is its next part. -/
structure Choice where
  channel : BitVec 16
  part : Nat
  readyAt : Phase
  head : BitVec 320
  tile : Nat
  hbm : Bool
  addr : Nat
  len : Nat
  poison : Bool
  releaseId : Option Nat
deriving DecidableEq, Repr

/-- A choice whose parts are arriving at an intake (R252), or a gradient row whose parts are landing (R257): `buffer` is then
its list position. -/
structure Assembly where
  grad : Bool
  channel : BitVec 16
  key : Nat
  buffer : Option Nat
  nextPart : Nat
  parts : Nat
  src : Nat
  token : Nat
  rank : Nat
  ord : Nat
  poison : Bool
  at_ : Phase
deriving DecidableEq, Repr

/-- Statistics of a layer and half (R258). -/
structure LtrStat where
  assigned : SMap Nat
  sent : SMap Nat
  psum : SMap Fp
  tokens : Nat
  masked : Nat
  allDropped : Nat
  droppedQuota : Nat
  poison : Bool
deriving DecidableEq, Repr

/-- A record, a part of a statistics block, or combine weights of the lauter engine that no LAUTER window has made visible yet: when it
is complete, the tile whose scratchpad it goes to, or HBM, its address, data and mark (R249, R326). -/
structure Unseen where
  at_ : Phase
  tile : Option (Fin 128)
  addr : Nat
  data : List Byte
  poison : Bool
deriving DecidableEq, Repr

/-- The lauter engine beside the LTR page. -/
structure Lauter where
  tab : SMap (BitVec 256)
  fill : SMap Nat
  stats : SMap LtrStat
  outQ : List Choice
  retQ : List Choice
  listed : SMap Nat
  ords : SMap Nat
  backOrds : SMap Nat
  asm : List Assembly
  unseen : List Unseen
  busyTill : Phase
deriving DecidableEq, Repr

/-- A latched hand-off (R266). -/
structure Handed where
  gfmt : BitVec 4
  gscale : BitVec 8
  poison : Bool
  epoch : BitVec 16
deriving DecidableEq, Repr

/-- A write that reached the control space of an edge unit (R330). -/
structure CtrlWrite where
  k : Nat
  off : Nat
  size : Nat
  data : BitVec 128
  second : Bool
  at_ : Phase
deriving DecidableEq, Repr

/-- The kilns beside the KLN pages; keys are 4,096 × kiln + tensor. -/
structure Kilns where
  shard : SMap (BitVec 512)
  hyper : SMap (BitVec 128)
  hyperActive : SMap (BitVec 128)
  handed : SMap (Option Handed)
  ctrlQ : List CtrlWrite
  busy : SMap Phase
  updated : List (Nat × Phase)
deriving DecidableEq, Repr

/-- Marks of one chunk at a rack: SENT from a time on, the parts written, and whether it is complete (R310, R311). -/
structure Chunk where
  sent : Option Phase
  parts : List Nat
  complete : Bool
deriving DecidableEq, Repr

/-- An open rack entry (R309 to R312). -/
structure RackOpen where
  isOpen : Bool
  fenced : Bool
  sendPtr : Nat
deriving DecidableEq, Repr

/-- A chunk that waits for its channel's slots (R310). -/
structure RackPart where
  entry : Nat
  chunk : Nat
  channel : BitVec 16
  readyAt : Phase
  head : BitVec 320
  data : List Byte
  poison : Bool
deriving DecidableEq, Repr

/-- The racks beside the RACK page; entry keys are 64 × controller + entry, chunk keys add 2^32 × that (R303 to R313). -/
structure Racks where
  epoch : SMap (BitVec 16)
  tab : SMap (BitVec 256)
  drain : SMap Nat
  open_ : SMap RackOpen
  chunks : SMap Chunk
  queue : List RackPart
  bumped : List Nat
  busy : SMap Phase
deriving DecidableEq, Repr

/-- A format slot of a record (R285). -/
structure HydSlot where
  fmt : Option (BitVec 4)
  elems : Nat
  overflow : Nat
  vanish : Nat
  subnormal : Nat
  zero : Nat
  nans : Nat
deriving DecidableEq, Repr

/-- A statistics record (R284 to R287).  The sums are exact, each with its NaN and infinity flags inside `Fp`. -/
structure HydRec where
  slot0 : HydSlot
  slot1 : HydSlot
  other : HydSlot
  spill : Bool
  t2Reserved : Nat
  hist : SMap Nat
  maxAbs : Fp
  pruned : Fp
  lsq : Fp
  osq : Fp
  kilnElems : Nat
  kilnNz : Nat
  silentRun : Nat
  silentNow : Bool
deriving DecidableEq, Repr

/-- What a tap sends to its record (R284). -/
inductive TapData where
  | conv (fmt : BitVec 4) (elems overflow vanish subnormal zeros nans t2 : Nat) (xs : List Fp) (osq : Bool)
  | kiln (elems nz t2 : Nat)
  | pruned (x : Fp)
  | lsq (xs : List Fp)
  | votes (sums : List Int) (t2 : Nat)
deriving DecidableEq, Repr

/-- A tap event on its way (R288). -/
structure Tap where
  at_ : Phase
  tensor : Nat
  data : TapData
deriving DecidableEq, Repr

/-- The hydrometer beside the HYD page. -/
structure Hyd where
  config : SMap Reg
  selActive : SMap (Option (BitVec 4 × BitVec 8))
  selPending : SMap (Option (BitVec 4 × BitVec 8))
  selFromRead : SMap Bool
  recs : SMap HydRec
  taps : List Tap
  snapped : Bool
  readDone : Option Phase
deriving DecidableEq, Repr

/-- A BAR2 read that waits for service: its interleaved address, its length, the pieces of granules that controllers still owe, the bytes
it has by place, and whether a granule of it was POISON (R331, R340). -/
structure SvcRead where
  addr : Nat
  len : Nat
  owed : List (Nat × Nat)
  got : List Host.Cell
  poison : Bool
deriving DecidableEq, Repr

/-- The memories beside the MEM pages: HBM by physical byte address, its poison marks by granule, the BAR2 write buffer,
waiting BAR2 reads, granules moved per pseudo-channel and frame, and the refresh pointer of each stack. -/
structure Mems where
  hbm : List Host.Cell
  poison : SMap Bool
  wbuf : List (Nat × Byte)
  reads : List SvcRead
  frames : SMap Nat
  refreshRow : SMap Nat
  refAt : SMap Phase
  rfmAt : SMap Phase
deriving DecidableEq, Repr

/-- The tiles' stores: scratchpad and its poison marks keyed 2^22 × tile + address, descriptors keyed 4,096 × tile + index,
accumulator keyed 2,048 × tile + row, stationary buffers, unit occupancy keyed 16 × tile + unit, pending marks, bank
transitions keyed 16 × tile + bank. -/
structure Tiles where
  spad : List Host.Cell
  spadPoison : SMap Bool
  desc : SMap (BitVec 512)
  acc : SMap AccRow
  arr : SMap ArrSt
  busy : SMap Phase
  pend : List Pend
  drainEnd : SMap Phase
  banks : SMap (Option BankTr)
  bankWait : SMap Bool
  readyAt : Option Phase
  waking : SMap (Option BankTr)
deriving DecidableEq, Repr

/-- A loader queue beside its registers (R341 to R345): the descriptor in progress with its status, how many of its bytes
have come from the host and whether more are due, the bytes that are not in HBM yet, the tick at which the last became visible, PHASE, the doorbells and the disable that wait for the next tick, and
whether the rest of the ring completes ABORTED. -/
structure Lq where
  inFlight : Option (BitVec 256)
  status : Nat
  got : Nat
  reading : Bool
  todo : List (Nat × Byte)
  visibleAt : Nat
  pass : Bool
  readAt : Phase
  tailAt : Option (BitVec 16 × Nat)
  headAt : Option (BitVec 16 × Nat)
  offAt : Option Nat
  aborting : Bool
deriving DecidableEq, Repr

/-- A message that an event bit has asked for (R419): the SCLK cycle in which the bit entered the request, the page, the bit,
and the vector that the route named then. -/
structure IrqReq where
  cycle : Nat
  page : Page
  bit : Nat
  vector : Nat
deriving DecidableEq, Repr

/-- Advanced Error Reporting of the function (R346): the status words, as PCI Express numbers their bits, and the first uncorrectable
error with the header logged for it. -/
structure Aer where
  uncorrectable : BitVec 32
  correctable : BitVec 32
  first : Option (Nat × BitVec 128)
deriving DecidableEq, Repr

/-- The host interface beside the HIF and IRQ pages: configuration space, latches, queued interrupt requests, queues. -/
structure HostIf where
  cfg : PcieCfg
  linkUp : Bool
  d3hot : Bool
  latch : SMap (BitVec 32 × Nat)
  irqQ : List IrqReq
  lq : SMap Lq
  lqNext : Nat
  aer : Aer
deriving DecidableEq, Repr

/-- Power stage, ballast, zones and sensors beside the PWR, THM and ZN pages (R351 to R367).  `lost` says that the input has been
below 20.0 V, `dipFrom` is the phase and the lowest sample of a dip in progress, `down` an orderly shutdown that waits for its
restart, `hardStop` a hard stop that waits for a reset, `stopAt` the SCLK cycle of either. -/
structure Power where
  lost : Bool
  dipFrom : Option (Phase × Nat)
  goodSince : Option Phase
  hardStop : Bool
  down : Bool
  stopAt : Nat
  descentAt : Option Phase
  descentZone : Nat
  zoneTarget : SMap Nat
  railBadFrom : SMap Phase
  railOverFrom : SMap Phase
  inOverFrom : Option Phase
  limitAt : SMap Phase
  coolHotFrom : Option Phase
  lastEnergy : Option Nat
  overSpan : Nat
  overFrom : Nat
  overTold : Bool
  slewSpan : Nat
  slewFrom : Nat
  slewTold : Bool
  preFrom : Option (Phase × Nat)
deriving DecidableEq, Repr

/-- One-time-programmable fuses (R372), the parts of them that a rule reads or programs: LC as five pairs of bits, pair `i` at bits
2i and 2i + 1, SVN and LMS1 as the number of programmed bits. -/
structure Otp where
  lcPairs : BitVec 10
  svn : Fin 65
  lms1 : Nat
  ownerEcdsa : BitVec 384
  ownerLms : BitVec 384
  ownerValid : Bool
  forceSigned : Bool
deriving DecidableEq, Repr

/-- A level-2 identity tree: the seed that it is generated from, its public key, and the level-1 signature of that key (R384). -/
structure IdTree where
  seed : BitVec 256
  key : List Byte
  signed : List Byte
deriving DecidableEq, Repr

/-- The bonded store, which holds the DICE secrets CDI0 and CDI1, the level-2 identity tree, and its next leaf (R380, R383, R384).  A wiped
store holds zeros and no tree. -/
structure Bonded where
  cdi0 : BitVec 384
  cdi1 : BitVec 384
  tree : Option IdTree
  leaf : Option Nat
deriving DecidableEq, Repr

/-- Security controller, flash and SPDM responder beside the SEC page (R372 to R387): a level-2 tree that is being generated, the
bytes of flash written since the factory, the digests of the running first stage and Zhexal images, and the last signatures
with their handles. -/
structure Sec where
  otp : Otp
  bonded : Bonded
  growing : Bool
  flash : SMap Byte
  fsDigest : BitVec 384
  zxDigest : BitVec 384
  handles : List (BitVec 128 × List Byte)
deriving DecidableEq, Repr

/-- Resets, start-up and the self-test beside the BST page (R389 to R401, R429). -/
structure Boot where
  coreBusy : Bool
  coreByFlr : Bool
  fabricBusy : Bool
  perst : Bool
  powerStart : Bool
  coolFirst : Bool
  startAt : Phase
  testAt : Phase
  nextBlock : Nat
  trySlot : Nat
  prevSeq : Nat
  trained : List Nat
  straps : Nat
deriving DecidableEq, Repr

/-- ALERT# held low by a FATAL fault, and the PMBus front: the page, and the latched warnings (R368, R403). -/
structure Pins where
  fatalAlert : Bool
  pmbusPage : BitVec 8
  uvSeen : Bool
  ovSeen : Bool
  hotSeen : Bool
deriving DecidableEq, Repr

/-- Answers of the SPDM responder (R386): a signed answer carries its measurement blocks, the ECDSA signature, and the handle and
digest of the HSS signature. -/
inductive SpdmReply where
  | version
  | capabilities
  | algorithms
  | digests (chain : BitVec 384)
  | certificate (part : List Byte) (left : Nat)
  | signed (blocks : List (List Byte)) (ecdsa : List Byte) (handle : BitVec 128) (hss : BitVec 384)
  | signature (hss : List Byte)
  | notReady
  | error
deriving DecidableEq, Repr

/-- What the module sends out: the model's own record of it, in order (log 4). -/
inductive Output where
  | readData (off : Nat) (v : BitVec 64)
  | msix (vector : Nat)
  | timeSymbol (p : Nat) (sym : BitVec 256)
  | ptmRequest (t1 : BitVec 80)
  | tickPulse (tick : Nat)
  | cell (p : Nat) (at_ : Phase) (c : FCell) (crc : BitVec 16)
  | peerId (p : Nat) (hall : BitVec 16) (valid : Bool) (port : Nat)
  | bar2Data (addr : Nat) (data : List Byte) (ep : Bool)
  | completion (host : Reg) (entry : BitVec 128)
  | descriptorRead (host : Reg)
  | alloc (unit : BitVec 16) (buffer : Option (BitVec 16))
  | faultCell (p : Nat) (c : FCell)
  | spdm (r : SpdmReply)
  | doe (index : Nat) (vendor : Nat) (typ : Nat) (next : Nat)
  | pmbus (data : List Byte)
  | nack
  | manage (toHall : BitVec 16) (c : FCell)
  | aerAdvisory
deriving DecidableEq, Repr

/-- The state of the module. `pending` is the queue of waiting commands, first in first out; `due` holds, in order of their times,
what commands taken still do; `fresh` counts the free values drawn so far and `out` is what the module has sent, both the model's
own (log 4, 5). -/
structure State where
  pending : List Instr
  clk : Clock
  due : List Due
  regs : SMap Reg
  htm : Htm
  sch : Sched
  fronts : SMap Front
  tiles : Tiles
  coop : Coop
  fab : Fabric
  ltr : Lauter
  kln : Kilns
  rack : Racks
  hyd : Hyd
  mem : Mems
  host : HostIf
  pwr : Power
  sec : Sec
  boot : Boot
  pins : Pins
  fresh : Nat
  out : List Output
deriving DecidableEq, Repr

/-- A port's time exchange before any symbol (R35, R36, R49). -/
def HtmPort.initial : HtmPort :=
  { t1 := 0, t2 := 0, haveEcho := false, seq := 0, exchanges := 0, delays := [], offset := none, goodRun := 64, missed := 0,
    lost := false, heard := false, locked := false, gm := false, gmId := 0, stratum := 255, lastAt := 0, sentAt := 0,
    symParts := 0, symBits := 0, symAt := 0 }

/-- The time unit in DISABLED (R39, R46). -/
def Htm.initial : Htm :=
  { ports := [], todPending := none, enabledAt := 0, loadedAt := none, edgeAt := none, stepped := false, offRun := 0,
    okRun := 0, filtered := 0, holdAt := 0, holdEst := 0, gmSeenAt := 0, source := none, ptmT1 := none, autoAt := 0,
    pulseAt := none, conflict := false, tickMissing := false, integral := 0, servoAt := 0, tickFrom := 0, held := false }

/-- The scheduler in EMPTY (R75, R392). -/
def Sched.initial : Sched :=
  { img := none, img2 := none, loading := none, armed := none, armPhase := 0, next := none, regime := .none, startTick := 0,
    startPhase := 0, causes := 0, causesNext := 0, causes2 := 0, causes2Next := 0, digested := 0, digested2 := 0,
    results := [], result := none, valid := none, verdict2 := false, stop := false, uStarted := false,
    endPhase := 0, startIndex := 0, prevCut := 0, recordDue := none, seqDone := 0 }

/-- A front with no stream to issue: it counts as ended (R74). -/
def Front.initial : Front :=
  { ptr := 0, len := 0, ended := true, lastIssue := none, usable := [], waiting := [], used := [], words := [], lastAt := none }

/-- Both stationary buffers EMPTY (R121). -/
def ArrSt.initial : ArrSt := { active := none, held := none, incoming := none, acts := [] }

/-- An accumulator row at +0 (R121). -/
def AccRow.initial : AccRow := { vals := List.replicate 64 0, poison := false }

/-- A free buffer (R194). -/
def Buf.initial : Buf := { live := false, count := 0, owner := 0, valid := 0 }

/-- No pool (R203). -/
def Coop.initial : Coop :=
  { pools := [], bufs := [], waiting := [], due := [], cycle := 0, accepted := 0, releases := 0, freed := [] }

/-- Empty switches and channel table (R236). -/
def Fabric.initial : Fabric :=
  { flight := [], latches := [], taken := [], be := [], channels := [], msgs := [], valid := [], sentCrc := [],
    recvCrc := [], badRun := [], downAt := [], arrived := [], pooled := [], digest := none, digestAt := 0, digest2 := none, digestAt2 := 0, digestOwed := [],
    closed := [], slotFree := [], idle := [] }

/-- Statistics of a layer and half at step start (R245). -/
def LtrStat.initial : LtrStat :=
  { assigned := [], sent := [], psum := [], tokens := 0, masked := 0, allDropped := 0, droppedQuota := 0, poison := false }

/-- The lauter engine after a reset (R260). -/
def Lauter.initial : Lauter :=
  { tab := [], fill := [], stats := [], outQ := [], retQ := [], listed := [], ords := [], backOrds := [], asm := [],
    unseen := [], busyTill := 0 }

/-- The kilns after a reset (R280). -/
def Kilns.initial : Kilns :=
  { shard := [], hyper := [], hyperActive := [], handed := [], ctrlQ := [], busy := [], updated := [] }

/-- A chunk with no mark. -/
def Chunk.initial : Chunk := { sent := none, parts := [], complete := false }

/-- A closed rack entry. -/
def RackOpen.initial : RackOpen := { isOpen := false, fenced := false, sendPtr := 0 }

/-- The racks after a reset (R303, R314). -/
def Racks.initial : Racks :=
  { epoch := [], tab := [], drain := [], open_ := [], chunks := [], queue := [], bumped := [], busy := [] }

/-- An empty format slot (R285). -/
def HydSlot.initial : HydSlot :=
  { fmt := none, elems := 0, overflow := 0, vanish := 0, subnormal := 0, zero := 0, nans := 0 }

/-- An empty statistics record. -/
def HydRec.initial : HydRec :=
  { slot0 := .initial, slot1 := .initial, other := .initial, spill := false, t2Reserved := 0, hist := [],
    maxAbs := .fin false 0 0, pruned := .fin false 0 0, lsq := .fin false 0 0, osq := .fin false 0 0,
    kilnElems := 0, kilnNz := 0, silentRun := 0, silentNow := false }

/-- The hydrometer after a reset (R283, R298). -/
def Hyd.initial : Hyd :=
  { config := [], selActive := [], selPending := [], selFromRead := [], recs := [], taps := [], snapped := false,
    readDone := none }

/-- Memories with nothing written (log 2). -/
def Mems.initial : Mems :=
  { hbm := [], poison := [], wbuf := [], reads := [], frames := [], refreshRow := [], refAt := [], rfmAt := [] }

/-- Tiles after a reset (R121, R151, R192): every line zero, every bank WAKING until `readyAt`. -/
def Tiles.initial : Tiles :=
  { spad := [], spadPoison := [], desc := [], acc := [], arr := [], busy := [], pend := [], drainEnd := [], banks := [],
    bankWait := [], readyAt := none, waking := [] }

/-- A loader queue that has never run. -/
def Lq.initial : Lq :=
  { inFlight := none, status := 0, got := 0, reading := false, todo := [], visibleAt := 0, pass := true,
    readAt := 0, tailAt := none, headAt := none, offAt := none, aborting := false }

/-- The host interface before enumeration. -/
def HostIf.initial : HostIf :=
  { cfg := { msixEnable := false, functionMask := false, busMaster := false, ptmEnable := false }, linkUp := false,
    d3hot := false, latch := [], irqQ := [], lq := [], lqNext := 0,
    aer := { uncorrectable := 0, correctable := 0, first := none } }

/-- The power stage at the moment the input has risen through 40.0 V (R390). -/
def Power.initial : Power :=
  { lost := false, dipFrom := none, goodSince := none, hardStop := false, down := false, stopAt := 0,
    descentAt := none, descentZone := 0, zoneTarget := [], railBadFrom := [], railOverFrom := [], inOverFrom := none,
    limitAt := [],
    coolHotFrom := none, lastEnergy := none, overSpan := 0, overFrom := 0, overTold := false, slewSpan := 0,
    slewFrom := 0, slewTold := false, preFrom := none }

/-- The fuses of a part as shipped (log 7): DEPLOYED, no owner enrolled, nothing else programmed. -/
def Otp.initial : Otp :=
  { lcPairs := 0x3F, svn := 0, lms1 := 0, ownerEcdsa := 0, ownerLms := 0, ownerValid := false, forceSigned := false }

/-- An empty bonded store (R380, R381). -/
def Bonded.initial : Bonded := { cdi0 := 0, cdi1 := 0, tree := none, leaf := none }

/-- The security controller after a power-on reset: bonded store lost, flash as the factory left it (R380; log 7). -/
def Sec.initial : Sec :=
  { otp := .initial, bonded := .initial, growing := false, flash := [], fsDigest := 0, zxDigest := 0, handles := [] }

/-- Start-up at stage AUX of a power-on reset (R394). -/
def Boot.initial : Boot :=
  { coreBusy := false, coreByFlr := false, fabricBusy := false, perst := false, powerStart := true, coolFirst := false,
    startAt := 0, testAt := 0, nextBlock := 0, trySlot := 0, prevSeq := 0, trained := [], straps := 0 }

/-- Pins released, PMBus on page 0. -/
def Pins.initial : Pins := { fatalAlert := false, pmbusPage := 0, uvSeen := false, ovSeen := false, hotSeen := false }

/-- The module right after a power-on reset, at start-up stage AUX (R389, R390, R394), with no command waiting. -/
def State.reset : State :=
  { pending := [], clk := { phase := 0, ht := 0, stopped := false }, due := [], regs := [], htm := .initial, sch := .initial, fronts := [],
    tiles := .initial, coop := .initial, fab := .initial, ltr := .initial, kln := .initial, rack := .initial,
    hyd := .initial, mem := .initial, host := .initial, pwr := .initial, sec := .initial, boot := .initial,
    pins := .initial, fresh := 0, out := [] }

end Sys2Proof.Machine
end

