-- ==== Sys2Proof/Machine/Store.lean ====
section
/-! DEFINITION. Sparse stores, bit fields of numbers, and lists of bytes: the plain operations that every unit uses. -/
namespace Sys2Proof.Machine

/-- The value at `k` of a sparse store whose default there is `d`. -/
def smGet {α : Type} (d : α) : SMap α → Nat → α
  | [], _ => d
  | (a, v) :: t, k => if k = a then v else smGet d t k

/-- The store with no entry at `k`. -/
def smDel {α : Type} : SMap α → Nat → SMap α
  | [], _ => []
  | (a, v) :: t, k => if k = a then smDel t k else (a, v) :: smDel t k

/-- The store with entry `(k, v)`, whatever the default. -/
def smPut {α : Type} : SMap α → Nat → α → SMap α
  | [], k, v => [(k, v)]
  | (a, w) :: t, k, v =>
    if k = a then (k, v) :: t else if k < a then (k, v) :: (a, w) :: t else (a, w) :: smPut t k v

/-- The store with value `v` at `k`, whose default is `d`: writing the default takes the entry out. -/
def smSet {α : Type} [DecidableEq α] (d : α) (m : SMap α) (k : Nat) (v : α) : SMap α :=
  if v = d then smDel m k else smPut m k v

/-- Canonical form: keys rise strictly, and no entry equals its default. -/
def smWf {α : Type} [DecidableEq α] (d : Nat → α) : SMap α → Bool
  | [] => true
  | [(a, v)] => decide (v ≠ d a)
  | (a, v) :: (b, w) :: t => decide (v ≠ d a) && decide (a < b) && smWf d ((b, w) :: t)

/-- The store with the keys that `p` names left out. -/
def smDrop {α : Type} (p : Nat → Bool) (m : SMap α) : SMap α :=
  m.filter fun e => !p e.1

/-- The store with a function applied to every value; an entry that becomes the default goes out. -/
def smMap {α : Type} [DecidableEq α] (d : α) (f : α → α) (m : SMap α) : SMap α :=
  (m.map fun e => (e.1, f e.2)).filter fun e => e.2 ≠ d

/-- Canonical form of a memory: addresses rise strictly and no entry is the byte that an unlisted address reads as. -/
abbrev Memory.wf (m : List Host.Cell) : Bool := smWf (fun _ => (0 : Byte)) m

/-- Bits [hi:lo] of a number. -/
def bitsOf (v hi lo : Nat) : Nat := v / 2 ^ lo % 2 ^ (hi + 1 - lo)

/-- Bit `i` of a number. -/
def bitOf (v i : Nat) : Bool := v / 2 ^ i % 2 = 1

/-- One byte of a little-endian word. -/
def byteOf (v i : Nat) : Byte := BitVec.ofNat 8 (v / 256 ^ i)

/-- The number that little-endian bytes spell. -/
def leNat : List Byte → Nat
  | [] => 0
  | b :: t => b.toNat + 256 * leNat t

/-- The `n` little-endian bytes of a number. -/
def leBytes (n v : Nat) : List Byte := (List.range n).map fun i => byteOf v i

/-- A signed number from the low `w` bits of a number, two's complement. -/
def sgn (w v : Nat) : Int :=
  let x := v % 2 ^ w
  if x < 2 ^ (w - 1) then (x : Int) else (x : Int) - (2 ^ w : Nat)

/-- The low `w` bits, two's complement, of an integer. -/
def unsgn (w : Nat) (x : Int) : Nat := (x % ((2 ^ w : Nat) : Int)).toNat

/-- Integer quotient rounded up. -/
def ceilDiv (a b : Nat) : Nat := (a + b - 1) / b

/-- One-bits of the low `n` bits of a number. -/
def popcount (n v : Nat) : Nat := (List.range n).countP fun i => bitOf v i

/-- `n` bytes of a memory from `a` upward. -/
def memGet (m : List Host.Cell) (a n : Nat) : List Byte := (List.range n).map fun i => smGet (0 : Byte) m (a + i)

/-- A memory with bytes stored from `a` upward. -/
def memSet (m : List Host.Cell) (a : Nat) : List Byte → List Host.Cell
  | [] => m
  | b :: t => memSet (smSet (0 : Byte) m a b) (a + 1) t

/-- A store with the keys `a … a + n − 1` at value `v`. -/
def smFill {α : Type} [DecidableEq α] (d : α) (m : SMap α) (a : Nat) : Nat → α → SMap α
  | 0, _ => m
  | n + 1, v => smFill d (smSet d m a v) (a + 1) n v

/-- The granule numbers of size `g` that the `n` bytes from `a` touch. -/
def granules (g a n : Nat) : List Nat :=
  if n = 0 then [] else (List.range ((a + n - 1) / g - a / g + 1)).map fun i => a / g + i

/-- The first element that a test accepts, with its place. -/
def findIdx {α : Type} (p : α → Bool) : List α → Option (Nat × α)
  | [] => none
  | x :: t => if p x then some (0, x) else (findIdx p t).map fun r => (r.1 + 1, r.2)

/-- Insert into a list that ascends by a key, after equals. -/
def insertOn {α : Type} (key : α → Nat) (x : α) : List α → List α
  | [] => [x]
  | y :: t => if key x < key y then x :: y :: t else y :: insertOn key x t

/-- A list in ascending order of a key, equals in their order. -/
def sortOn {α : Type} (key : α → Nat) (xs : List α) : List α := xs.foldl (fun acc x => insertOn key x acc) []

/-- Merge two lists in order; `fuel` is at least their length. -/
def mergeBy {α : Type} (le : α → α → Bool) : Nat → List α → List α → List α
  | 0, _, _ => []
  | _, [], l => l
  | _, l, [] => l
  | k + 1, a :: x, b :: y => if le a b then a :: mergeBy le k x (b :: y) else b :: mergeBy le k (a :: x) y

/-- A stable sort by repeated halving, `depth` times. -/
def sortBy {α : Type} (le : α → α → Bool) : Nat → List α → List α
  | 0, l => l
  | k + 1, l =>
    if l.length ≤ 1 then l else
      let h := l.length / 2
      mergeBy le l.length (sortBy le k (l.take h)) (sortBy le k (l.drop h))

end Sys2Proof.Machine
end

