-- ==== Sys2Proof/Machine/Regs.lean ====
section
/-! DEFINITION. Reading and writing the stored bits of registers: reset values (the Reset columns of the spec's tables),
fields, and which bits a BAR0 write covers (R406, R409). -/
namespace Sys2Proof.Machine

/-- ID of a page (R411). -/
def pageId (p : Page) : Nat := pageType p * 2 ^ 48 + pageNumber p * 2 ^ 32 + 0x1_0000

/-- Number of lanes of a port: a tray port has 16, an inter-tray port 8 (R206). -/
def portLanes (p : Nat) : Nat := if p < 6 then 16 else 8

/-- Zone of a tile (R10). -/
def tileZone (t : Nat) : Nat := t % 16 / 4 + 4 * (t / 16 / 4)

/-- TCTL_POS of a tile (R10, R124). -/
def tilePos (t : Nat) : Nat :=
  t + t % 16 * 2 ^ 8 + t / 16 * 2 ^ 12 + tileZone t * 2 ^ 16 + (if t % 16 ≤ 7 then 0 else 1) * 2 ^ 20

/-- The stored reset value of the register at offset `off` of a page (the Reset columns; log 10 for what they leave out). -/
def pageReset (p : Page) (off : Nat) : Nat :=
  if off = 0 then pageId p else
  match p with
  | .glb => if off = 0x120 then 0x9440 + Config.stepping.toNat * 2 ^ 16 + 0x01 * 2 ^ 24
    else if off = 0x128 then 0x2D30_3434_3954_4C4F
    else if off = 0x130 then 0x0000_0043_4C34_3833 else 0
  | .hif => if off = HIF.CPL_TIMEOUT.off then 50000 else 0
  | .htm => if off = 0x010 then 0xFF_0000 else if off = 0x018 then 0xFF * 2 ^ 48
    else if 0x280 ≤ off ∧ off < 0x2E0 then (Config.portTrim ((off - 0x280) / 8)).toNat else 0
  | .pwr => if off = PWR.SLEW_MAX.off then 20 else 0
  | .sec => if off = SEC.SERIAL.off then Config.serial.toNat
    else if off = SEC.LC_NONCE.off then Config.firstNonce.toNat else 0
  | .ltr => if off = LTR.SKEW_LIMIT.off then 0x4000_0000 else 0
  | .swx => if off = 0x010 then 2 ^ SWX.CTRL_BE_EN.lo else 0
  | .lnk q => if off = 0x010 then 2 ^ LNK.CTRL_ENABLE.lo + 2 ^ LNK.CTRL_AUTO_RETRAIN.lo
    else if off = 0x018 then portLanes q.val * 2 ^ LNK.STATUS_LANES.lo else 0
  | .tctl t => if off = TCTL.POS.off then tilePos t.val else 0
  | .tspd _ => if off = 0x018 then 2 ^ TSPD.STATUS_WAKING.lo
    else if off = TSPD.BANK_STATE.off then 0xFFFF_FFFF else 0
  | _ => 0

/-- The stored reset value of the register at a BAR0 offset. -/
def regReset (a : Nat) : Reg :=
  match pageAt a with
  | some p => BitVec.ofNat 64 (pageReset p (a % 0x1000))
  | none => 0

/-- The stored bits of the register at a BAR0 offset. -/
def State.reg (s : State) (a : Nat) : Reg := smGet (regReset a) s.regs a

/-- Store a whole register. -/
def State.setReg (s : State) (a : Nat) (v : Reg) : State := { s with regs := smSet (regReset a) s.regs a v }

/-- BAR0 offset of a field's register. -/
def fldAddr (p : Page) (f : Fld) : Nat := pageBase p + f.off

/-- The value of a stored field. -/
def State.fld (s : State) (p : Page) (f : Fld) : Nat := bitsOf (s.reg (fldAddr p f)).toNat f.hi f.lo

/-- Whether a stored one-bit field is set. -/
def State.flag (s : State) (p : Page) (f : Fld) : Bool := s.fld p f != 0

/-- A register with one field replaced by the low bits of `v`. -/
def putFld (r : Reg) (f : Fld) (v : Nat) : Reg :=
  let w := f.hi + 1 - f.lo
  BitVec.ofNat 64 (r.toNat - bitsOf r.toNat f.hi f.lo * 2 ^ f.lo + v % 2 ^ w * 2 ^ f.lo)

/-- Store a field. -/
def State.setFld (s : State) (p : Page) (f : Fld) (v : Nat) : State :=
  s.setReg (fldAddr p f) (putFld (s.reg (fldAddr p f)) f v)

/-- Store a one-bit field. -/
def State.setFlag (s : State) (p : Page) (f : Fld) (b : Bool) : State := s.setFld p f b.toNat

/-- Store a list of fields of one page. -/
def State.setFlds (s : State) (p : Page) (fs : List (Fld × Nat)) : State :=
  fs.foldl (fun s fv => s.setFld p fv.1 fv.2) s

/-- The bits of a register that an access of this half covers (R406). -/
def Half.mask : Half → Nat
  | .whole => 2 ^ 64 - 1 | .low => 2 ^ 32 - 1 | .high => (2 ^ 32 - 1) * 2 ^ 32

/-- The written bits in their places in the register. -/
def wData (w : RegW) : Nat :=
  match w.half with
  | .whole => w.val.toNat
  | .low => w.val.toNat % 2 ^ 32
  | .high => w.val.toNat % 2 ^ 32 * 2 ^ 32

/-- Whether a write covers a field (R409). -/
def wCovers (w : RegW) (f : Fld) : Bool := bitsOf (Half.mask w.half) f.hi f.lo = 2 ^ (f.hi + 1 - f.lo) - 1

/-- Whether a write covers a one-bit field with a 1. -/
def wHits (w : RegW) (f : Fld) : Bool := wCovers w f && bitsOf (wData w) f.hi f.lo != 0

/-- The bits of a register after a write, `m` naming the bits that take it. -/
def mergeBits (old new m : Nat) : Nat := (old ^^^ (old &&& m)) ||| (new &&& m)

/-- The row of the register table at offset `off` of a page; a register that no table defines has no bits (R407). -/
def regRow (p : Page) (off : Nat) : RegInfo :=
  ((pageRegs p).find? fun r => r.off = off).getD ⟨off, 0, 0, 0, 0⟩

end Sys2Proof.Machine
end

