-- ==== Sys2Proof/Machine/Flags.lean ====
section
/-! DEFINITION. Time, event bits, counters, fault classes, causes of an invalid step and schedule faults: every flag that a rule
sets goes through one of these operations. -/
namespace Sys2Proof.Machine

/-- HT in whole nanoseconds (R28). -/
def State.ht (s : State) : Nat := s.clk.ht.toNat / 65536

/-- The SCLK cycle that is running: 32 root cycles, or 16 ACLK phases (R11). -/
def State.sclk (s : State) : Nat := s.clk.phase / 16

/-- Step-relative tick (R24, R55). -/
def State.stepTick (s : State) : Nat := (s.clk.phase - s.sch.startPhase) / 4

/-- The route of a page: VECTOR, and ENABLE (R419). -/
def State.route (s : State) (p : Page) : Nat × Bool :=
  match pageTile p with
  | some t => (s.fld .irq (IRQ.TILE_ROUTE_VECTOR (tileZone t.val)), s.flag .irq (IRQ.TILE_ROUTE_ENABLE (tileZone t.val)))
  | none => (s.fld .irq (IRQ.ROUTE_VECTOR (pageOrder p)), s.flag .irq (IRQ.ROUTE_ENABLE (pageOrder p)))

/-- Order in which requested messages leave (R420). -/
def IrqReq.before (a b : IrqReq) : Bool :=
  a.cycle < b.cycle || (a.cycle = b.cycle && (pageOrder a.page < pageOrder b.page ||
    (pageOrder a.page = pageOrder b.page && a.bit < b.bit)))

/-- Put a message into the order of R420. -/
def insertIrq (r : IrqReq) : List IrqReq → List IrqReq
  | [] => [r]
  | q :: t => if IrqReq.before r q then r :: q :: t else q :: insertIrq r t

/-- A bit enters a page's interrupt request: it asks for a message when the route is enabled (R419). -/
def State.request (s : State) (p : Page) (b : Nat) : State :=
  if (s.route p).2 then
    { s with host := { s.host with irqQ := insertIrq ⟨s.sclk, p, b, (s.route p).1⟩ s.host.irqQ } }
  else s

/-- The common registers of a page (R410). -/
def COM.EVENT : Fld := ⟨0x020, 63, 0⟩
def COM.EVENT_EN : Fld := ⟨0x028, 63, 0⟩
def COM.EVENT_FIRST : Fld := ⟨0x030, 63, 0⟩
def COM.EVENT_FIRST_BIT : Fld := ⟨0x030, 5, 0⟩
def COM.EVENT_FIRST_VALID : Fld := ⟨0x030, 31, 31⟩
def COM.EVENT_TIME : Fld := ⟨0x038, 63, 0⟩
def COM.CNT_CLR : Fld := ⟨0x010, 63, 63⟩

/-- Set an event bit: EVENT, EVENT_FIRST and EVENT_TIME, and the interrupt request (R412, R419).  Two bits of one SCLK cycle leave
the lower in EVENT_FIRST (log 11). -/
def State.raise (s : State) (p : Page) (b : Nat) : State :=
  let ev := s.fld p COM.EVENT
  let first := s.fld p COM.EVENT_FIRST
  let lower := bitOf first 31 && s.fld p COM.EVENT_TIME / 4 = s.ht / 4 && b < first % 64
  let s1 := if !bitOf first 31 || lower then
      s.setFlds p [(COM.EVENT_FIRST, 2 ^ 31 + b), (COM.EVENT_TIME, s.ht)] else s
  if bitOf ev b then s1
  else
    let s2 := s1.setFld p COM.EVENT (ev + 2 ^ b)
    if bitOf (s.fld p COM.EVENT_EN) b then s2.request p b else s2

/-- Add to a saturating counter (R413). -/
def State.countN (s : State) (p : Page) (f : Fld) (n : Nat) : State :=
  s.setFld p f (min (s.fld p f + n) (2 ^ (f.hi + 1 - f.lo) - 1))

/-- Count one event (R6, R413). -/
def State.count (s : State) (p : Page) (f : Fld) : State := s.countN p f 1

/-- Count an event and raise its bit. -/
def State.tally (s : State) (p : Page) (f : Fld) (b : Nat) : State := (s.count p f).raise p b

/-- Count `n` events and raise their bit; none of it for `n = 0`. -/
def State.tallyN (s : State) (p : Page) (f : Fld) (n b : Nat) : State :=
  if n = 0 then s else (s.countN p f n).raise p b

/-- An event of class DEGRADED (R402). -/
def State.degraded (s : State) : State := s.tally .bst BST.DEGRADED_CNT BST.EV_DEGRADED

/-- The causes of R22, numbered as SCH_VERDICT numbers them (R75). -/
inductive Cause where
  | dropped | missing | poison | ceiling | staleEpoch | schedFault
deriving DecidableEq, Repr

/-- Bit of a cause in SCH_VERDICT (R75). -/
def Cause.bit : Cause → Nat
  | .dropped => 0 | .missing => 1 | .poison => 2 | .ceiling => 3 | .staleEpoch => 4 | .schedFault => 5

/-- LAST_DIGEST of a job: second runnings' own, when such an image is loaded (R229, R318). -/
def State.lastDigestOf (s : State) (second : Bool) : Nat :=
  match second, s.sch.img2 with
  | true, some m => m.lastDigest
  | _, _ => s.fld .sch SCH.LAST_DIGEST

/-- Whether a job has offered its last digest of the step (R229). -/
def State.allOffered (s : State) (second : Bool) : Bool :=
  match if second then s.sch.img2 else s.sch.img with
  | some m => m.ticks != [] && m.ticks.length ≤ (if second then s.sch.digested2 else s.sch.digested)
  | none => false

/-- Whether an event of a job observed now belongs to the step in progress, or to the next one: what comes in the last digest tick
after the digest has been offered is no longer in it (R24; log 84). -/
def State.inInterval (s : State) (second : Bool) : Bool :=
  match s.sch.regime with
  | .none => false
  | .untimed => true
  | .timed => s.stepTick < s.lastDigestOf second || (s.stepTick = s.lastDigestOf second && !s.allOffered second)

/-- Set a cause of R22 for the primary job or for second runnings, in the step that R24 gives it to. -/
def State.setCause (s : State) (second : Bool) (c : Cause) : State :=
  let m : BitVec 6 := BitVec.ofNat 6 (2 ^ c.bit)
  match second, s.inInterval second with
  | false, true => { s with sch := { s.sch with causes := s.sch.causes ||| m } }
  | false, false => { s with sch := { s.sch with causesNext := s.sch.causesNext ||| m } }
  | true, true => { s with sch := { s.sch with causes2 := s.sch.causes2 ||| m } }
  | true, false => { s with sch := { s.sch with causes2Next := s.sch.causes2Next ||| m } }

/-- An event of class STEP_INVALID: a cause of R22, and the count and bit of R402. -/
def State.invalid (s : State) (second : Bool) (c : Cause) : State :=
  (s.setCause second c).tally .bst BST.STEP_INVALID_CNT BST.EV_STEP_INVALID

/-- Poisoned data seen in a timed step: its cause of R22, an event of class STEP_INVALID (R402; log 21). -/
def State.poisoned (s : State) (second : Bool) : State := if s.sch.regime = .timed then s.invalid second .poison else s

/-- Codes of the table *Schedule faults* (R70). -/
inductive SFault where
  | operandNotReady | unitCollision | slotCollision | epochFence | streamUnderrun | malformed | overwriteGuard | carveOut
deriving DecidableEq, Repr

/-- The code of a schedule fault (R70). -/
def SFault.code : SFault → Nat
  | .operandNotReady => 1 | .unitCollision => 2 | .slotCollision => 3 | .epochFence => 4
  | .streamUnderrun => 5 | .malformed => 6 | .overwriteGuard => 7 | .carveOut => 8

/-- What SCH_FAULT_FIRST names: stream (3 for none of F, B, S), tile, unit and issue tick (R72). -/
structure FaultAt where
  stream : Nat
  tile : Nat
  unit : Nat
  issue : Nat
deriving DecidableEq, Repr

/-- The place of a fault that no stream instruction issued (R72). -/
def State.nowhere (s : State) : FaultAt := ⟨3, 0, 15, s.stepTick⟩

/-- A CARVE_OUT fault is counted for its job in the RACK page too (R317, R320). -/
def State.carveEvent (s : State) (second : Bool) : State :=
  if second then s.tally .rack RACK.CARVE_OUT2_CNT RACK.EV_CARVE_OUT2 else s.tally .rack RACK.CARVE_OUT_CNT RACK.EV_CARVE_OUT

/-- Record a schedule fault (R70, R72). -/
def State.schedFault (s0 : State) (second : Bool) (f : SFault) (at_ : FaultAt) : State :=
  let s := if f = .carveOut then s0.carveEvent second else s0
  let s1 := if second then s.tally .sch SCH.FAULT2_CNT SCH.EV_SECOND_FAULT
    else s.tally .sch SCH.FAULT_CNT SCH.EV_SCHED_FAULT
  let s2 := if s1.flag .sch SCH.FAULT_FIRST_VALID then s1 else
    s1.setFlds .sch [(SCH.FAULT_FIRST, f.code + at_.stream * 2 ^ 4 + at_.tile * 2 ^ 8 + at_.unit * 2 ^ 16 + 2 ^ 31 +
      at_.issue % 2 ^ 32 * 2 ^ 32), (SCH.FAULT_TIME, s.ht)]
  s2.invalid second .schedFault

/-- Draw a value that the spec leaves open (log 5). -/
def State.draw (s : State) : Reg × State := (Config.freeReg s.fresh, { s with fresh := s.fresh + 1 })

/-- Draw the errors that an access meets (R329; log 5). -/
def State.drawErrs (s : State) : List EccErr × State := (Config.eccMet s.fresh, { s with fresh := s.fresh + 1 })

/-- Draw `n` bytes that the spec leaves open (log 5). -/
def State.drawBytes (s : State) (n : Nat) : List Byte × State :=
  ((List.range n).map fun i => byteOf (Config.freeReg (s.fresh + i / 8)).toNat (i % 8), { s with fresh := s.fresh + ceilDiv n 8 })

/-- Bits of AER's status words, as PCI Express numbers them: Completion Timeout and Unsupported Request, and, correctable, Advisory
Non-Fatal (R346; PRESUMED, log 85). -/
def aerTimeout : Nat := 14
def aerUnsupported : Nat := 20
def aerAdvisory : Nat := 13

/-- An uncorrectable error of the function; the header logged for the first is that of a packet whose fields the spec does not give, and
is free (R346; log 85). -/
def State.aerError (s : State) (bit : Nat) : State :=
  let u := s.host.aer.uncorrectable ||| BitVec.ofNat 32 (2 ^ bit)
  match s.host.aer.first with
  | some _ => { s with host := { s.host with aer := { s.host.aer with uncorrectable := u } } }
  | none =>
    let a := s.draw
    let b := a.2.draw
    { b.2 with host := { b.2.host with aer := { b.2.host.aer with
        uncorrectable := u, first := some (bit, a.1 ++ b.1) } } }

/-- A correctable error of the function (R340, R346). -/
def State.aerCorrected (s : State) (bit : Nat) : State :=
  { s with host := { s.host with aer := { s.host.aer with
      correctable := s.host.aer.correctable ||| BitVec.ofNat 32 (2 ^ bit) } } }

/-- Append to what the module has sent (log 4). -/
def State.send (s : State) (o : Output) : State := { s with out := s.out ++ [o] }

end Sys2Proof.Machine
end

