-- ==== Sys2Proof/Machine/Ops.lean ====
section
/-! DEFINITION. The named operations of the register bus (R65, R337, R393, R406 to R414) and of the HBM behind the controllers
(R321 to R324, R329). -/
namespace Sys2Proof.Machine

/-! Register bus. -/

/-- Start-up stages of BST_STATUS.STAGE (R394, R405). -/
def stageReady : Nat := 5
def stageShutdown : Nat := 6
def stageDone : Nat := 7
def stageRecovery : Nat := 8

/-- BST_STATUS.STAGE. -/
def State.stage (s : State) : Nat := s.fld .bst BST.STATUS_STAGE

/-- A page of a block that a core reset clears (R389). -/
def coreClears : Page → Bool
  | .sch | .hyd | .ltr | .coop | .rack | .kln _ | .tctl _ | .tarr _ | .tvec _ | .tmil _ | .tspd _ => true
  | _ => false

/-- Whether a page answers BAR0 accesses (R335, R375, R393). -/
def State.answers (s : State) (p : Page) : Bool :=
  !s.host.d3hot &&
  match p with
  | .glb | .sec => true
  | .bst => s.stage ≠ stageRecovery
  | _ => s.stage = stageReady && !(s.boot.coreBusy && coreClears p)

/-- Whether the shutdown self-test ignores every write but CNT_CLR and MODULE_RESET (R395). -/
def State.testing (s : State) : Bool := s.stage = stageShutdown || s.stage = stageDone

/-- Whether the module ignores every command, a wipe having failed (R381). -/
def State.deaf (s : State) : Bool := s.flag .sec SEC.STATUS_WIPE_FAIL

/-- Whether RWL fields are locked (R65). -/
def State.locked (s : State) : Bool := s.flag .sch SCH.STATUS_LOCKED

/-- A write to a locked field is counted, and the first one recorded, by the offset of its register also where a write of 4 bytes goes to
the high half (R65; DESIGN CHOICE, log 84). -/
def State.lockWrite (s : State) (p : Page) (off : Nat) : State :=
  let s1 := s.count .sch SCH.LOCK_WRITE_CNT
  if s1.flag .sch SCH.LOCK_WR_FIRST_VALID then s1
  else (s1.setFld .sch SCH.LOCK_WR_FIRST (pageBase p + off + 2 ^ 31)).raise .sch SCH.EV_LOCK_WRITE

/-- The stored bits that a write changes: RW, and RWL while no lock holds (R3, R65). -/
def takenBits (s : State) (r : RegInfo) (w : RegW) : Nat :=
  Half.mask w.half &&& (r.rw ||| (if s.locked then 0 else r.rwl))

/-- Store a write to the register at offset `off` of a page that answers (R3, R65, R406). -/
def State.store (s : State) (p : Page) (off : Nat) (w : RegW) : State :=
  let r := regRow p off
  let a := pageBase p + off
  let s1 := s.setReg a (BitVec.ofNat 64 (mergeBits (s.reg a).toNat (wData w) (takenBits s r w)))
  if s.locked && Half.mask w.half &&& r.rwl != 0 then s1.lockWrite p off else s1

/-- A write that reaches its register: the page answers, no shutdown self-test runs and no wipe has failed (R381, R393, R395). -/
def State.reaches (s : State) (p : Page) : Bool := s.answers p && !s.testing && !s.deaf

/-- Do something when a condition holds. -/
def onlyIf (b : Bool) (f : State → State) (s : State) : State := if b then f s else s

/-- A write to a doorbell: it acts when the write covers the low half (R409). -/
def lowWrite (s : State) (p : Page) (off : Nat) (w : RegW) (act : State → State) : State :=
  if s.reaches p && w.half ≠ .high then act s else if s.reaches p then s.store p off w else s

/-- A write to the last word of a table: the bits are stored and the commit acts when the write covers the high half (R409). -/
def commitWrite (s : State) (p : Page) (off : Nat) (w : RegW) (act : State → State) : State :=
  if s.reaches p then
    let s1 := s.store p off w
    if w.half ≠ .low then act s1 else s1
  else s

/-- Block-specific registers that their page's table names as counters (R413). -/
def extraCounters : Page → List Nat
  | .coop => (List.range 16).map fun i => (COOP.POOL_FAIL i).off
  | _ => []

/-- Every counter of a page at 0 (R413). -/
def State.clearCounters (s : State) (p : Page) : State :=
  let b := pageBase p
  let counter : Nat → Bool := fun a => (b + 0x040 ≤ a && a < b + 0x100) || (b ≤ a && (extraCounters p).contains (a - b))
  let s1 := { s with regs := smDrop counter s.regs }
  match p with
  | .lnk q => { s1 with fab := { s1.fab with idle := smSet (0, 0) s1.fab.idle q.val (s.clk.phase, 0) } }
  | _ => s1

/-- A write to the CTRL register of a page: CNT_CLR first (R413), then the stored bits, then what the page's other bits do.  A
shutdown self-test leaves only CNT_CLR (R395). -/
def ctrlWrite (s : State) (p : Page) (w : RegW) (act : State → State) : State :=
  if s.answers p && !s.deaf then
    let s1 := onlyIf (wHits w COM.CNT_CLR) (fun s => s.clearCounters p) s
    if s.testing then s1 else act (s1.store p 0x010 w)
  else s

/-- A W1C write to EVENT; EVENT_FIRST.VALID clears with the last bit (R412). -/
def State.clearEvents (s : State) (p : Page) (bits : Nat) : State :=
  let ev := s.fld p COM.EVENT
  let left := ev ^^^ (ev &&& bits)
  let s1 := s.setFld p COM.EVENT left
  if left = 0 then s1.setFld p COM.EVENT_FIRST_VALID 0 else s1

/-- The bits of a number, ascending. -/
def bitList (n v : Nat) : List Nat := (List.range n).filter fun i => bitOf v i

/-- A write to EVENT_EN: a bit that it enables while EVENT holds it enters the request (R419). -/
def State.writeEnable (s : State) (p : Page) (w : RegW) : State :=
  let old := s.fld p COM.EVENT_EN
  let s1 := s.store p 0x028 w
  let new := s1.fld p COM.EVENT_EN &&& s1.fld p COM.EVENT
  (bitList 64 (new ^^^ (new &&& old))).foldl (fun s b => s.request p b) s1

/-- Vector mask, function mask, or neither (R420). -/
def State.vecMasked (s : State) (v : Nat) : Bool :=
  s.host.cfg.functionMask || bitOf (s.fld .hif (HIF.MSIX_TABLE (2 * v + 1))) 32

/-- Whether messages are dropped (R420). -/
def State.msixOff (s : State) : Bool := !(s.host.cfg.msixEnable && s.host.cfg.busMaster)

/-- A dropped message; its own event asks for no message (R420). -/
def State.dropMsg (s : State) : State :=
  let s1 := s.tally .irq IRQ.MSG_DROPPED_CNT IRQ.EV_DROPPED
  { s1 with host := { s1.host with irqQ := s.host.irqQ } }

/-- Send, pend or drop a page event's message on a vector (R420). -/
def State.message (s : State) (v : Nat) : State :=
  if s.msixOff then s.dropMsg
  else if s.vecMasked v then
    (s.setFld .hif HIF.MSIX_PBA (s.fld .hif HIF.MSIX_PBA ||| 2 ^ v)).count .irq IRQ.MSG_PENDED_CNT
  else (s.count .irq IRQ.MSG_SENT_CNT).send (.msix v)

/-- Send, pend or drop a loader queue's message, which does not pass through the IRQ page (R346; log 13). -/
def State.queueMessage (s : State) (v : Nat) : State :=
  if s.msixOff then s
  else if s.vecMasked v then s.setFld .hif HIF.MSIX_PBA (s.fld .hif HIF.MSIX_PBA ||| 2 ^ v)
  else s.send (.msix v)

/-- Send the messages whose pending bits an unmask has freed, lowest vector first (R420). -/
def State.flushPending (s : State) : State :=
  (bitList 64 (s.fld .hif HIF.MSIX_PBA)).foldl (fun s v =>
    if s.vecMasked v then s else
      let s1 := s.setFld .hif HIF.MSIX_PBA (s.fld .hif HIF.MSIX_PBA ^^^ 2 ^ v)
      if s1.msixOff then s1.dropMsg else (s1.count .irq IRQ.MSG_SENT_CNT).send (.msix v)) s

/-! HBM. -/

/-- Granules of one pseudo-channel (R321). -/
def granPerPc : Nat := 3 * 2 ^ 20

/-- A physical granule as one number: (P, o) is P × 3 × 2^20 + o. -/
def physGran (pc o : Nat) : Nat := pc * granPerPc + o

/-- Physical granule of an interleaved address (R322); none at or beyond 384 GiB (R324). -/
def interGran (a : Nat) : Option Nat :=
  if a < 384 * 2 ^ 30 then
    let g := a / 256
    let f := bitsOf g 17 9 ^^^ bitsOf g 26 18 ^^^ bitsOf g 30 27
    some (physGran (g % 512 ^^^ f) (g / 512))
  else none

/-- Physical granule of a stack-local address (R323); none at or beyond 48 GiB (R324). -/
def localGran (k a : Nat) : Option Nat :=
  if a < 48 * 2 ^ 30 then
    let h := a / 256
    let f6 := bitsOf h 11 6 ^^^ bitsOf h 17 12 ^^^ bitsOf h 23 18 ^^^ bitsOf h 27 24
    some (physGran (64 * k + (h % 64 ^^^ f6)) (h / 64))
  else none

/-- The window an access names its address in (R323). -/
inductive Win where
  | inter
  | stack (k : Nat)
deriving DecidableEq, Repr

/-- Physical granule of an address in a window. -/
def Win.gran : Win → Nat → Option Nat
  | .inter, a => interGran a
  | .stack k, a => localGran k a

/-- Pseudo-channel of a physical granule, its index, and its stack (R321). -/
def granPc (g : Nat) : Nat := g / granPerPc
def granIdx (g : Nat) : Nat := g % granPerPc
def granStack (g : Nat) : Nat := granPc g / 64

/-- Where a granule lies in its stack: channel, pseudo-channel, column of the row, bank, bank group, SID and row (R321). -/
structure DramPlace where
  stack : Nat
  channel : Nat
  pseudo : Nat
  column : Nat
  bank : Nat
  group : Nat
  sid : Nat
  row : Nat
deriving DecidableEq, Repr

/-- The place of a granule (R321). -/
def granPlace (g : Nat) : DramPlace :=
  let p := granPc g
  let o := granIdx g
  ⟨bitsOf p 8 6, bitsOf p 5 1, bitsOf p 0 0, bitsOf o 1 0, bitsOf o 3 2, bitsOf o 5 4, bitsOf o 7 6, bitsOf o 21 8⟩

/-- Page of a controller. -/
def memPage (k : Nat) : Page := .mem ⟨k % 8, Nat.mod_lt _ (by decide)⟩

/-- The byte at a window address, as HBM holds it. -/
def hbmByte (m : List Host.Cell) (w : Win) (a : Nat) : Byte :=
  match w.gran a with
  | some g => smGet (0 : Byte) m (g * 256 + a % 256)
  | none => 0

/-- `n` bytes of HBM from a window address upward, without any count. -/
def State.peek (s : State) (w : Win) (a n : Nat) : List Byte := (List.range n).map fun i => hbmByte s.mem.hbm w (a + i)

/-- Bytes of HBM stored from a window address upward, without any count; a byte outside the window is discarded (R324). -/
def pokeBytes (m : List Host.Cell) (w : Win) (a : Nat) : List Byte → List Host.Cell
  | [] => m
  | b :: t =>
    let m1 := match w.gran a with
      | some g => smSet (0 : Byte) m (g * 256 + a % 256) b
      | none => m
    pokeBytes m1 w (a + 1) t

/-- Whether the granule that holds a window address is marked POISON (R329). -/
def State.granPoison (s : State) (w : Win) (a : Nat) : Bool :=
  match w.gran a with
  | some g => smGet false s.mem.poison g
  | none => true

/-- Record of an access outside its window, at the controller of the requester's edge unit (R324). -/
def State.addrRange (s : State) (edge : Nat) : State :=
  (s.tally (memPage edge) MEM.ADDR_RANGE_CNT MEM.EV_ADDR_RANGE)

/-- What a read of one granule gives. -/
structure GranRead where
  data : List Byte
  poison : Bool
  ue : Bool
deriving DecidableEq, Repr

/-- A poisoned read that returned nothing (R324, R327). -/
def GranRead.none (n : Nat) : GranRead := ⟨List.replicate n 0, true, false⟩

/-- The errors of a command's granule `i`: corrected words, and whether a pattern is uncorrectable (R329). -/
def eccOf (ecc : List EccErr) (i : Nat) : List (Fin 32) × Bool :=
  let e := ecc.filter fun x => x.gran = i
  ((e.filter fun x => !x.uncorrectable).map EccErr.word, e.any EccErr.uncorrectable)

/-- Count corrected words of a granule (R329). -/
def State.corrected (s : State) (g : Nat) (ws : List (Fin 32)) : State :=
  ws.foldl (fun s w =>
    (s.tally (memPage (granStack g)) MEM.CE_CNT MEM.EV_CE).setFld (memPage (granStack g)) MEM.CE_LAST
      (granPc g + granIdx g * 2 ^ 9 + 2 ^ 31 + w.val * 2 ^ 32)) s

/-- Count an uncorrectable granule; in a timed step it sets the poisoned-data cause (R329). -/
def State.uncorrectable (s : State) (second : Bool) (g : Nat) : State :=
  let p := memPage (granStack g)
  let s1 := s.tally p MEM.UE_CNT MEM.EV_UE
  let s2 := if s1.flag p MEM.UE_FIRST_VALID then s1 else
    s1.setFld p MEM.UE_FIRST (granPc g + granIdx g * 2 ^ 9 + 2 ^ 31 + s.stepTick % 2 ^ 32 * 2 ^ 32)
  if s2.sch.regime = .timed then s2.invalid second .poison else s2

/-- Read the bytes `a … a + n − 1`, all of one granule, the `i`-th of the command (R329). -/
def State.readGran (s : State) (second : Bool) (w : Win) (ecc : List EccErr) (i a n : Nat) : GranRead × State :=
  match w.gran a with
  | none => (.none n, s)
  | some g =>
    let p := memPage (granStack g)
    let e := eccOf ecc i
    let s1 := (s.count p MEM.RD_GRAN_CNT).corrected g e.1
    let old := smGet false s.mem.poison g
    let s2 := if e.2 && !old then s1.uncorrectable second g else s1
    let s3 := if old then s2.tally p MEM.POISON_RD_CNT MEM.EV_POISON_READ else s2
    (⟨s.peek w a n, old || e.2, e.2 && !old⟩, s3)

/-- The pieces of an access, one per granule it touches: address and length. -/
def pieces (a n : Nat) : List (Nat × Nat) :=
  (granules 256 a n).map fun g =>
    let lo := max a (g * 256)
    (lo, min (a + n) ((g + 1) * 256) - lo)

/-- What a read of several granules gives: the bytes, which granules are poisoned, and whether an uncorrectable error was met. -/
structure MemRead where
  data : List Byte
  marks : List Bool
  ue : Bool
deriving DecidableEq, Repr

/-- Whether any granule of a read is poisoned. -/
def MemRead.poison (r : MemRead) : Bool := r.marks.any id

/-- Read `n` bytes from `a`, granule by granule; `edge` is the controller that counts accesses outside the window. -/
def State.readMem (s : State) (second : Bool) (edge : Nat) (w : Win) (ecc : List EccErr) (a n : Nat) : MemRead × State :=
  let out := (pieces a n).any fun q => (w.gran q.1).isNone
  let s0 := if out then s.addrRange edge else s
  let s1 := if out && s.sch.regime = .timed then s0.invalid second .poison else s0
  ((pieces a n).zipIdx).foldl (fun acc q =>
    let r := acc.2.readGran second w ecc q.2 q.1.1 q.1.2
    (⟨acc.1.data ++ r.1.data, acc.1.marks ++ [r.1.poison], acc.1.ue || r.1.ue⟩, r.2)) (⟨[], [], false⟩, s1)

/-- Write pieces of a physical granule, each bytes from an offset; a poisoned write stores the poison syndrome, a clean write of the
whole granule takes it away (R329; log 14). -/
def State.storePhys (s : State) (g : Nat) (ps : List (Nat × List Byte)) (poison : Bool) : State :=
  let p := memPage (granStack g)
  let covered := (ps.map fun q => q.2.length).sum
  let mark := poison || (smGet false s.mem.poison g && covered < 256)
  let s1 := s.count p MEM.WR_GRAN_CNT
  let s2 := if poison then s1.count p MEM.POISON_WR_CNT else s1
  { s2 with mem := { s2.mem with hbm := ps.foldl (fun m q => memSet m (g * 256 + q.1) q.2) s2.mem.hbm,
                                 poison := smSet false s2.mem.poison g mark } }

/-- Acts are taken up in order of their times, equals in the order they come; both lists ascend. -/
def mergeDue (a b : List Due) : List Due := mergeBy (fun (x y : Due) => x.at_ ≤ y.at_) (a.length + b.length) a b

/-- Acts for later times, in any order. -/
def State.later (s : State) (ds : List Due) : State :=
  { s with due := mergeDue s.due (sortBy (fun (x y : Due) => x.at_ ≤ y.at_) (Nat.log2 ds.length + 2) ds) }

/-- Write bytes of one granule: at once, or for a time that has not come (R68, R324). -/
def State.writeGran (s : State) (w : Win) (a : Nat) (data : List Byte) (poison : Bool) (till : Phase) : State :=
  match w.gran a with
  | none => s
  | some g =>
    if till ≤ s.clk.phase then s.storePhys g [(a % 256, data)] poison
    else s.later [⟨till, .hbm g [(a % 256, data)] poison⟩]

/-- Write bytes from `a`, granule by granule, each with its mark (the last one given goes on), to be seen from a time on. -/
def State.writeMem (s : State) (edge : Nat) (w : Win) (a : Nat) (data : List Byte) (marks : List Bool) (till : Phase) : State :=
  let ps := pieces a data.length
  let s0 := if ps.any fun q => (w.gran q.1).isNone then s.addrRange edge else s
  (ps.zipIdx).foldl (fun s q =>
    s.writeGran w q.1.1 ((data.drop (q.1.1 - a)).take q.1.2) ((marks[q.2]?).getD (marks.getLast?.getD false)) till) s0

/-- Write clean bytes from `a`. -/
def State.writeClean (s : State) (edge : Nat) (w : Win) (a : Nat) (data : List Byte) : State :=
  s.writeMem edge w a data [false] s.clk.phase

/-- A little-endian number of `n` bytes in HBM. -/
def State.peekNat (s : State) (w : Win) (a n : Nat) : Nat := leNat (s.peek w a n)

end Sys2Proof.Machine
end

