-- ==== Sys2Proof/Machine/Arrivals.lean ====
section
/-! DEFINITION. Messages that end: a latched path is released at the first slot that carries nothing of it, and its message is
then received (R217, R222). -/
namespace Sys2Proof.Machine

/-- Whether a path still holds its outputs at a time: its next slot has not passed (R222). -/
def Latch.aliveAt (l : Latch) (t : Phase) : Bool := t < l.lastAt + l.period

/-- Advance a channel's valid count (R217). -/
def State.channelReceived (s : State) (ch : BitVec 16) : State :=
  { s with fab := { s.fab with valid := smSet 0 s.fab.valid ch.toNat (min 65535 (smGet 0 s.fab.valid ch.toNat + 1)) } }

/-- A live buffer's valid count becomes the number of cells written into it (R198, R217). -/
def State.bufferFilled (s : State) (id cells : Nat) : State :=
  let b := smGet Buf.initial s.coop.bufs id
  if b.live then
    { s with coop := { s.coop with bufs := smSet Buf.initial s.coop.bufs id { b with valid := min 65535 cells } } }
  else s

/-- A message ends for an engine that takes whole messages, one hop after its last cell's slot in the router (R67). -/
def State.messageFor (s : State) (l : Latch) : State :=
  { s with fab := { s.fab with arrived := s.fab.arrived ++ [⟨l.sink, l.input, l.channel, l.lastAt + 2, l.head, l.body, l.poison⟩] } }

/-- A path ends: its message has been received where its sink is (R217; log 33). -/
def Latch.finish (l : Latch) (s : State) : State :=
  if l.fate != .pass then s else
  match l.sink with
  | .none | .digest _ => s
  | .rows _ _ count buf =>
    let s1 := if count then s.channelReceived l.channel else s
    match buf with
    | some id => s1.bufferFilled id l.cells
    | none => s1
  | .hbm id _ => (s.channelReceived l.channel).bufferFilled id l.cells
  | .rack => (s.channelReceived l.channel).messageFor l
  | .lauter _ | .zhexal => s.messageFor l

/-- Whether a path stays at a time: its next slot has not passed, or the cell of that slot is still to be taken (R222). -/
def State.keeps (s : State) (t : Phase) (l : Latch) : Bool :=
  l.aliveAt t || s.fab.flight.any fun f => f.sw = l.sw && f.input = l.input && f.lane = l.lane && f.at_ ≤ l.lastAt + l.period

/-- Every path that no slot holds any more at a time is released. -/
def State.settle (s : State) (t : Phase) : State :=
  (s.fab.latches.filter fun l => !s.keeps t l).foldl (fun s l => l.finish s)
    { s with fab := { s.fab with latches := s.fab.latches.filter fun l => s.keeps t l } }

end Sys2Proof.Machine
end

