-- ==== Sys2Proof/Machine/Formats.lean ====
section
/-! DEFINITION. Number formats: exact values, rounding, conversions and their events, block compositions and the generator of
stochastic rounding (R76 to R95). -/
namespace Sys2Proof.Machine

/-! Exact values. -/

/-- +0. -/
def fpZero : Fp := .fin false 0 0

/-- 1. -/
def fpOne : Fp := .fin false 1 0

/-- An integer as a value; zero is +0. -/
def fpInt (x : Int) (e : Int) : Fp := .fin (x < 0) x.natAbs e

def Fp.isNan : Fp → Bool | .nan => true | _ => false
def Fp.isInf : Fp → Bool | .inf _ => true | _ => false
def Fp.isFin : Fp → Bool | .fin _ _ _ => true | _ => false
def Fp.isZero : Fp → Bool | .fin _ m _ => m = 0 | _ => false
def Fp.sign : Fp → Bool | .nan => false | .inf s => s | .fin s _ _ => s

def Fp.neg : Fp → Fp
  | .nan => .nan | .inf s => .inf !s | .fin s m e => .fin (!s) m e

def Fp.abs : Fp → Fp
  | .nan => .nan | .inf _ => .inf false | .fin _ m e => .fin false m e

/-- Exact product (R107). -/
def Fp.mul : Fp → Fp → Fp
  | .nan, _ => .nan
  | _, .nan => .nan
  | .inf s, .inf t => .inf (s != t)
  | .inf s, .fin t m _ => if m = 0 then .nan else .inf (s != t)
  | .fin s m _, .inf t => if m = 0 then .nan else .inf (s != t)
  | .fin s m e, .fin t n f => .fin (s != t) (m * n) (e + f)

/-- The signed mantissa of a finite value at an exponent no greater than its own. -/
def Fp.at_ (x : Fp) (e0 : Int) : Int :=
  match x with
  | .fin s m e => let v : Int := (m * 2 ^ (e - e0).toNat : Nat); if s then -v else v
  | _ => 0

/-- Exponent of a finite value. -/
def Fp.exp : Fp → Int | .fin _ _ e => e | _ => 0

/-- The least exponent of a list of values. -/
def minExp (xs : List Fp) : Int := xs.foldl (fun a x => if x.isZero || !x.isFin then a else min a x.exp) 0

/-- Exact sum of terms, with the NaN, infinity and zero rules of R108. -/
def fpSum (xs : List Fp) : Fp :=
  if xs.any Fp.isNan || (xs.any (· == .inf false) && xs.any (· == .inf true)) then .nan
  else if xs.any Fp.isInf then .inf (xs.any (· == .inf true))
  else
    let e0 := minExp xs
    let v := (xs.map fun x => if x.isZero then 0 else x.at_ e0).sum
    if v = 0 then .fin (!xs.isEmpty && xs.all fun x => x.isZero && x.sign) 0 0 else fpInt v e0

/-- Exact sum of two values. -/
def Fp.add (x y : Fp) : Fp := fpSum [x, y]

/-- Exact difference. -/
def Fp.sub (x y : Fp) : Fp := fpSum [x, y.neg]

/-- Order of two values that are not NaN: less (R77; a zero equals the other zero). -/
def Fp.lt : Fp → Fp → Bool
  | .nan, _ => false
  | _, .nan => false
  | .inf s, .inf t => s && !t
  | .inf s, .fin _ _ _ => s
  | .fin _ _ _, .inf t => !t
  | x@(.fin _ _ e), y@(.fin _ _ f) => let e0 := min e f; x.at_ e0 < y.at_ e0

def Fp.le (x y : Fp) : Bool := !x.isNan && !y.isNan && !(Fp.lt y x)

/-- Greatest magnitude of the finite values of a list; +0 when there is none. -/
def amax (xs : List Fp) : Fp := xs.foldl (fun a x => if x.isFin && a.lt x.abs then x.abs else a) fpZero

/-- floor(log2 (n / d)) for positive n and d. -/
def flog2 (n d : Nat) : Int :=
  let l : Int := (Nat.log2 n : Int) - (Nat.log2 d : Int)
  if (if l ≥ 0 then d * 2 ^ l.toNat ≤ n else d ≤ n * 2 ^ (-l).toNat) then l else l - 1

/-- Nearest integer to n / d, ties to even. -/
def roundEven (n d : Nat) : Nat :=
  let k := n / d
  let r := n % d
  if 2 * r > d || (2 * r = d && k % 2 = 1) then k + 1 else k

/-- n / d × 2^e as a fraction with an integer power folded in. -/
def scaleQ (n d : Nat) (e : Int) : Nat × Nat :=
  if e ≥ 0 then (n * 2 ^ e.toNat, d) else (n, d * 2 ^ (-e).toNat)

/-! Formats. -/

/-- Events of R93. -/
inductive ConvEv where
  | overflow | vanish | subnormal | zero | nan
deriving DecidableEq, Repr

/-- A converted element: its code, and its event if it has one. -/
structure Conv where
  code : Nat
  ev : Option ConvEv
deriving DecidableEq, Repr

/-- Format codes of R76. -/
def fFP32 : Nat := 0
def fBF16 : Nat := 1
def fFP16 : Nat := 2
def fE5M2 : Nat := 3
def fE4M3 : Nat := 4
def fE3M2 : Nat := 5
def fE2M3 : Nat := 6
def fE2M1 : Nat := 7
def fINT8 : Nat := 8
def fINT4 : Nat := 9
def fINT16 : Nat := 10
def fINT32 : Nat := 11
def fT2 : Nat := 12
def fUE8M0 : Nat := 13
def fUE6M2 : Nat := 14

/-- Width in bits (R76); 0 for the reserved code. -/
def fmtWidth : Nat → Nat
  | 0 => 32 | 1 => 16 | 2 => 16 | 3 => 8 | 4 => 8 | 5 => 6 | 6 => 6 | 7 => 4 | 8 => 8 | 9 => 4
  | 10 => 16 | 11 => 32 | 12 => 2 | 13 => 8 | 14 => 8 | _ => 0

/-- The parameters of a float format (R77): mantissa bits, bias, the code of the largest finite value, whether it has an
infinity, and its canonical NaN (R79). -/
structure FloatP where
  m : Nat
  b : Nat
  maxCode : Nat
  hasInf : Bool
  nan : Option Nat
deriving DecidableEq, Repr

/-- The table *Float parameters* (R77, R79). -/
def floatP : Nat → Option FloatP
  | 0 => some ⟨23, 127, 0x7F7F_FFFF, true, some 0x7FC0_0000⟩
  | 1 => some ⟨7, 127, 0x7F7F, true, some 0x7FC0⟩
  | 2 => some ⟨10, 15, 0x7BFF, true, some 0x7E00⟩
  | 3 => some ⟨2, 15, 0x7B, true, some 0x7E⟩
  | 4 => some ⟨3, 7, 0x7E, false, some 0x7F⟩
  | 5 => some ⟨2, 3, 0x1F, false, none⟩
  | 6 => some ⟨3, 1, 0x1F, false, none⟩
  | 7 => some ⟨1, 1, 0x7, false, none⟩
  | _ => none

/-- Whether a format is one of the integers (R80). -/
def isIntFmt (f : Nat) : Bool := 8 ≤ f && f ≤ 11

/-- The value of a code (R77, R79 to R82). -/
def valueOf (f code : Nat) : Fp :=
  let w := fmtWidth f
  match floatP f with
  | some p =>
    let s := bitOf code (w - 1)
    let a := code % 2 ^ (w - 1)
    if a > p.maxCode then (if p.hasInf && a = p.maxCode + 1 then .inf s else .nan)
    else
      let e := a / 2 ^ p.m
      let k := a % 2 ^ p.m
      if e = 0 then .fin s k (1 - (p.b : Int) - p.m) else .fin s (2 ^ p.m + k) ((e : Int) - p.b - p.m)
  | none =>
    if isIntFmt f then fpInt (sgn w code) 0
    else if f = fT2 then (if code % 4 = 1 then fpInt 1 0 else if code % 4 = 3 then fpInt (-1) 0 else fpZero)
    else if f = fUE8M0 then (if code % 256 = 255 then .nan else .fin false 1 ((code % 256 : Nat) - 127))
    else if f = fUE6M2 then
      (if code % 256 = 255 then .nan else .fin false (4 + code % 4) ((code % 256 / 4 : Nat) - 34))
    else .nan

/-- The value of an FP32 word. -/
def f32 (x : W32) : Fp := valueOf fFP32 x.toNat

/-- What NaN converts to (R79, R91). -/
def nanResult (f : Nat) : Conv :=
  match floatP f with
  | some p => ⟨p.nan.getD 0, some .nan⟩
  | none => ⟨if f = fUE8M0 || f = fUE6M2 then 0xFF else 0, some .nan⟩

/-- Sign bit of a code of a float format. -/
def signBit (f : Nat) (s : Bool) : Nat := if s then 2 ^ (fmtWidth f - 1) else 0

/-- Greatest magnitude of an integer format on one side of zero (R80). -/
def intLimit (f : Nat) (s : Bool) : Nat := if s then 2 ^ (fmtWidth f - 1) else 2 ^ (fmtWidth f - 1) - 1

/-- The code of an integer of a format. -/
def intCode (f : Nat) (s : Bool) (k : Nat) : Nat :=
  if s && k ≠ 0 then 2 ^ fmtWidth f - k else k

/-- Finite overflow (R90). -/
def overflowResult (f : Nat) (s sat : Bool) : Conv :=
  match floatP f with
  | some p =>
    if sat || p.nan.isNone then ⟨signBit f s + p.maxCode, some .overflow⟩
    else if p.hasInf then ⟨signBit f s + p.maxCode + 1, some .overflow⟩
    else ⟨p.nan.getD 0, some .overflow⟩
  | none =>
    if isIntFmt f then ⟨intCode f s (intLimit f s), some .overflow⟩
    else if f = fT2 then ⟨if s then 3 else 1, some .overflow⟩
    else ⟨0xFE, some .overflow⟩

/-- An infinite input (R90). -/
def infResult (f : Nat) (s sat : Bool) : Conv :=
  match floatP f with
  | some p =>
    if f ≤ 2 then ⟨signBit f s + p.maxCode + 1, none⟩
    else if f = fE5M2 && !sat then ⟨signBit f s + p.maxCode + 1, none⟩
    else overflowResult f s sat
  | none => if f = fUE8M0 || f = fUE6M2 then ⟨0xFF, some .overflow⟩ else overflowResult f s sat

/-- The code of magnitude n / d × 2^e on the continued grid of a float format (R89). -/
def gridCode (p : FloatP) (n d : Nat) (e : Int) : Nat :=
  let q := (flog2 n d + e - (1 - (p.b : Int))).toNat
  let x := scaleQ n d (e - (1 - (p.b : Int) - p.m) - q)
  q * 2 ^ p.m + roundEven x.1 x.2

/-- rne of a non-zero exact value ± n / d × 2^e (R89, R92, R93). -/
def rneQ (f : Nat) (sat s : Bool) (n d : Nat) (e : Int) : Conv :=
  match floatP f with
  | some p =>
    let c := gridCode p n d e
    if c > p.maxCode then overflowResult f s sat
    else ⟨signBit f s + c, if c = 0 then some .vanish else if c < 2 ^ p.m then some .subnormal else none⟩
  | none =>
    if isIntFmt f || f = fT2 then
      let x := scaleQ n d e
      let k := roundEven x.1 x.2
      if f = fT2 then
        if k > 1 then overflowResult f s sat
        else ⟨if k = 0 then 0 else if s then 3 else 1, if k = 0 then some .vanish else none⟩
      else if k > intLimit f s then overflowResult f s sat
      else ⟨intCode f s k, if k = 0 then some .vanish else none⟩
    else if s then ⟨0xFF, some .nan⟩
    else if f = fUE8M0 then
      let l := flog2 n d + e
      let x := scaleQ n d (e - l)
      let up := 2 * x.1 > 3 * x.2 || (2 * x.1 = 3 * x.2 && (l + 127) % 2 = 1)
      let c := l + 127 + (if up then 1 else 0)
      if c > 0xFE then overflowResult f s sat else if c < 0 then ⟨0, some .vanish⟩ else ⟨c.toNat, none⟩
    else
      let l := flog2 n d + e
      let x := scaleQ n d (e - l + 2)
      let c := (l + 32) * 4 + ((roundEven x.1 x.2 : Nat) - 4 : Int)
      if c > 0xFE then overflowResult f s sat else if c < 0 then ⟨0, some .vanish⟩ else ⟨c.toNat, none⟩

/-- A zero converted (R89, R93). -/
def zeroResult (f : Nat) (s : Bool) : Conv :=
  ⟨if (floatP f).isSome then signBit f s else 0, some .zero⟩

/-- rne of an exact value (R89). -/
def rne (f : Nat) (sat : Bool) : Fp → Conv
  | .nan => nanResult f
  | .inf s => infResult f s sat
  | .fin s m e => if m = 0 then zeroResult f s else rneQ f sat s m 1 e

/-- RNE_fp32 (R89). -/
def rne32 (x : Fp) : W32 := BitVec.ofNat 32 (rne fFP32 false x).code

/-- RNE_bf16 (R89). -/
def rneBf16 (x : Fp) : Nat := (rne fBF16 false x).code

/-- The quotient of two exact values rounded to FP32; the divisor is finite and not zero. -/
def rneDiv32 (x : Fp) (s : Bool) (m : Nat) (e : Int) : W32 :=
  match x with
  | .nan => rne32 .nan
  | .inf t => rne32 (.inf (t != s))
  | .fin t n f => if n = 0 then rne32 (.fin (t != s) 0 0)
    else BitVec.ofNat 32 (rneQ fFP32 false (t != s) n m (f - e)).code

/-! Packing. -/

/-- Element `i` of packed codes of width `w` (R83). -/
def elemAt (w : Nat) (v i : Nat) : Nat := v / 2 ^ (w * i) % 2 ^ w

/-- Bytes that `n` packed codes of a format fill, with the padding of R83. -/
def packedBytes (f n : Nat) : Nat :=
  if fmtWidth f = 6 then (n + 3) / 4 * 3 else (n * fmtWidth f + 7) / 8

/-- The codes that packed bytes spell. -/
def unpack (f n : Nat) (b : List Byte) : List Nat :=
  let v := leNat b
  (List.range n).map fun i => elemAt (fmtWidth f) v i

/-- The number that packed codes make. -/
def packNat (w : Nat) : List Nat → Nat
  | [] => 0
  | c :: t => c % 2 ^ w + 2 ^ w * packNat w t

/-- Codes packed into bytes, padded with zero codes (R83). -/
def pack (f : Nat) (cs : List Nat) : List Byte := leBytes (packedBytes f cs.length) (packNat (fmtWidth f) cs)

/-! Block compositions. -/

/-- Block length of a SCALING value (R84); 0 for none. -/
def blockLen : Nat → Nat
  | 1 => 32 | 2 => 16 | _ => 0

/-- Whether SCALING admits an element format (R84). -/
def scalingOk (sc f : Nat) : Bool :=
  match sc with
  | 0 => f ≤ 14
  | 1 => (3 ≤ f && f ≤ 8)
  | 2 => f = fE2M1
  | _ => false

/-- Format of the block scales of a SCALING value. -/
def scaleFmt (sc : Nat) : Nat := if sc = 1 then fUE8M0 else fUE6M2

/-- Value of an element under a scale code and a tensor scale (R80, R84, R86). -/
def elemValue (sc f : Nat) (ts : Fp) (scale code : Nat) : Fp :=
  match sc with
  | 0 => valueOf f code
  | 1 =>
    let v := if f = fINT8 then (valueOf f code).mul (.fin false 1 (-6)) else valueOf f code
    match valueOf fUE8M0 scale with
    | .nan => .nan
    | x => x.mul v
  | _ =>
    match valueOf fUE6M2 scale with
    | .nan => .nan
    | x => (ts.mul x).mul (valueOf f code)

/-- A block encoded: its scale code and its elements. -/
structure BlockEnc where
  scale : Nat
  elems : List Conv
deriving DecidableEq, Repr

/-- emax of an MX32 element format (R87). -/
def emaxOf : Nat → Int
  | 3 => 15 | 4 => 8 | 5 => 4 | 6 => 2 | 7 => 2 | _ => 0

/-- Whether the largest element of a block would overflow at `sexp` (R87). -/
def mxOverflows (f : Nat) (a : Fp) (sexp : Int) : Bool :=
  match a with
  | .fin _ m e =>
    match floatP f with
    | some p => gridCode p m 1 (e - sexp) > p.maxCode
    | none => let x := scaleQ m 1 (e - sexp + 6); roundEven x.1 x.2 > 127
  | _ => false

/-- The shared exponent of an MX32 block (R87). -/
def mxExp (f : Nat) (fit : Bool) (xs : List Fp) : Int :=
  match amax xs with
  | .fin _ 0 _ => 0
  | a@(.fin _ m e) =>
    let x := flog2 m 1 + e - emaxOf f
    max (-127) (min 127 (if fit && mxOverflows f a x then x + 1 else x))
  | _ => 0

/-- An element divided by 2^sexp, in the units of its code (R87). -/
def mxElem (f : Nat) (sexp : Int) (x : Fp) : Fp :=
  x.mul (.fin false 1 ((if f = fINT8 then 6 else 0) - sexp))

/-- Whether a block is encoded as NaN (R87). -/
def mxNan (f : Nat) (xs : List Fp) : Bool :=
  xs.any Fp.isNan || (xs.any Fp.isInf && !((floatP f).map FloatP.hasInf).getD false)

/-- A block all of whose elements are zeroed for a NaN scale (R87, R88). -/
def nanBlock (n : Nat) : BlockEnc := ⟨0xFF, List.replicate n ⟨0, some .nan⟩⟩

/-- MX32 encoding of a block (R87). -/
def encMx (f : Nat) (fit sat : Bool) (xs : List Fp) : BlockEnc :=
  if mxNan f xs then nanBlock xs.length
  else
    let sexp := mxExp f fit xs
    ⟨(sexp + 127).toNat, xs.map fun x => rne f sat (mxElem f sexp x)⟩

/-- The smallest UE6M2 code at or above a positive n / d × 2^e, within the range (R88). -/
def ue6Up (n d : Nat) (e : Int) : Nat :=
  if n = 0 then 0 else
    let l := flog2 n d + e
    let x := scaleQ n d (e - l + 2)
    let c := (l + 32) * 4 + ((ceilDiv x.1 x.2 : Nat) - 4 : Int)
    if c < 0 then 0 else if c > 0xFE then 0xFE else c.toNat

/-- A value over ts × s, for a positive tensor scale and a scale code (R88). -/
def fbQuot (f : Nat) (sat : Bool) (ts : Fp) (scale : Nat) (x : Fp) : Conv :=
  match x, ts.mul (valueOf fUE6M2 scale) with
  | .fin s m e, .fin _ n g => if m = 0 then zeroResult f s else rneQ f sat s m n (e - g)
  | _, _ => nanResult f

/-- The scale code of an FB16 block (R88). -/
def fbScale (ts : Fp) (xs : List Fp) : Nat :=
  match amax xs, ts with
  | .fin _ m e, .fin _ n g => ue6Up m (6 * n) (e - g)
  | _, _ => 0

/-- Whether an FB16 block is encoded as NaN (R88). -/
def fbNan (ts : Fp) (xs : List Fp) : Bool :=
  !ts.isFin || ts.isZero || ts.sign || xs.any fun x => !x.isFin

/-- FB16 encoding of a block (R88). -/
def encFb (ts : Fp) (xs : List Fp) : BlockEnc :=
  if fbNan ts xs then nanBlock xs.length
  else
    let s := fbScale ts xs
    ⟨s, xs.map (fbQuot fE2M1 true ts s)⟩

/-- How a descriptor converts: format, composition, mode, scale rule, tensor scale (R84, R87, R90). -/
structure ConvSpec where
  fmt : Nat
  scaling : Nat
  sat : Bool
  fit : Bool
  ts : Fp
deriving DecidableEq, Repr

/-- Cut a list into pieces of `n`, the last one short; `fuel` is at least the list's length. -/
def chunksAux {α : Type} (n : Nat) : Nat → List α → List (List α)
  | 0, _ => []
  | _, [] => []
  | k + 1, xs => xs.take n :: chunksAux n k (xs.drop n)

def chunks {α : Type} (n : Nat) (xs : List α) : List (List α) := chunksAux n xs.length xs

/-- A row encoded: element codes, scale codes and events (R85 to R93). -/
structure RowEnc where
  codes : List Nat
  scales : List Nat
  evs : List ConvEv
deriving DecidableEq, Repr

/-- Encode a row of exact values: each element, and the scale codes (R85 to R93). -/
def encElems (c : ConvSpec) (xs : List Fp) : List Conv × List Nat :=
  match c.scaling with
  | 0 => (xs.map (rne c.fmt c.sat), [])
  | sc =>
    let bs := (chunks (blockLen sc) xs).map fun b => if sc = 1 then encMx c.fmt c.fit c.sat b else encFb c.ts b
    ((bs.map BlockEnc.elems).flatten, bs.map BlockEnc.scale)

/-- Encode a row of exact values. -/
def encRow (c : ConvSpec) (xs : List Fp) : RowEnc :=
  let e := encElems c xs
  ⟨e.1.map Conv.code, e.2, e.1.filterMap Conv.ev⟩

/-- Decode a row of codes with its scale codes (R84 to R86). -/
def decRow (c : ConvSpec) (codes scales : List Nat) : List Fp :=
  codes.zipIdx.map fun ci => elemValue c.scaling c.fmt c.ts ((scales[ci.2 / blockLen c.scaling]?).getD 0) ci.1

/-- Bytes of scales that a row of `n` elements has (R85). -/
def scaleBytes (sc n : Nat) : Nat := if sc = 0 then 0 else (n + blockLen sc - 1) / blockLen sc

/-- How many reserved T2 codes a row of codes holds (R81). -/
def t2Reserved (f : Nat) (cs : List Nat) : Nat := if f = fT2 then cs.countP fun k => k % 4 = 2 else 0

/-- A code as it is copied: bit for bit, but T2's reserved code, read as 0 and never written (R81, R179). -/
def copiedCode (f c : Nat) : Nat := if f = fT2 && c % 4 = 2 then 0 else c

/-- Elements that a stored row of `n` takes: whole blocks where it is block-scaled (R85). -/
def storedLen (sc n : Nat) : Nat := if sc = 0 then n else scaleBytes sc n * blockLen sc

/-- A row's codes as stored: the missing elements of a partial block are zero codes (R85). -/
def storedCodes (sc : Nat) (cs : List Nat) : List Nat := cs ++ List.replicate (storedLen sc cs.length - cs.length) 0

/-- How many elements of a row had each event: overflow, vanish, subnormal, zero, NaN (R93). -/
structure EvCount where
  overflow : Nat
  vanish : Nat
  subnormal : Nat
  zeros : Nat
  nans : Nat
deriving DecidableEq, Repr

/-- Count events (R93). -/
def countEvs (es : List ConvEv) : EvCount :=
  ⟨es.count .overflow, es.count .vanish, es.count .subnormal, es.count .zero, es.count .nan⟩

/-! Stochastic rounding. -/

/-- Rotate a 32-bit word. -/
def rotl32 (x : W32) (n : Nat) : W32 := x.rotateLeft n
def rotr32 (x : W32) (n : Nat) : W32 := x.rotateRight n

/-- One round of the generator (R95). -/
def genRound (k : W32) (xy : W32 × W32) : W32 × W32 :=
  let x := (rotr32 xy.1 8 + xy.2) ^^^ k
  (x, rotl32 xy.2 3 ^^^ x)

/-- The 16-bit random value of an element (R95). -/
def genRandom (seed : BitVec 64) (tensor : BitVec 12) (index step : W32) : BitVec 16 :=
  let k0 := seed.setWidth 32 ^^^ step
  let k1 := (seed >>> 32).setWidth 32 ^^^ (tensor.setWidth 32 <<< 20)
  let r := genRound k1 (genRound k0 (genRound k1 (genRound k0 (index, 0x9E37_79B9#32))))
  ((r.1 + r.2) >>> 16).setWidth 16

/-- sr of a non-zero exact ± n / d × 2^e into a float format, or INT8 codes (R94). -/
def srQ (f : Nat) (s : Bool) (n d : Nat) (e : Int) (r : Nat) : Conv :=
  match floatP f with
  | some p =>
    let q := (flog2 n d + e - (1 - (p.b : Int))).toNat
    let x := scaleQ n d (e - (1 - (p.b : Int) - p.m) - q)
    let lo := q * 2 ^ p.m + x.1 / x.2
    if lo > p.maxCode || (lo = p.maxCode && x.1 % x.2 ≠ 0) then ⟨signBit f s + p.maxCode, some .overflow⟩
    else
      let c := if r < x.1 % x.2 * 65536 / x.2 then lo + 1 else lo
      ⟨signBit f s + c, if c = 0 then some .vanish else if c < 2 ^ p.m then some .subnormal else none⟩
  | none =>
    let x := scaleQ n d e
    let lo := x.1 / x.2
    let lim := intLimit f s
    if lo > lim || (lo = lim && x.1 % x.2 ≠ 0) then ⟨intCode f s lim, some .overflow⟩
    else
      let c := if r < x.1 % x.2 * 65536 / x.2 then lo + 1 else lo
      ⟨intCode f s c, if c = 0 then some .vanish else none⟩

/-- sr of an exact value (R94). -/
def sr (f : Nat) (x : Fp) (r : Nat) : Conv :=
  match x with
  | .fin s m e => if m = 0 then zeroResult f s else srQ f s m 1 e r
  | y => rne f true y

end Sys2Proof.Machine
end

