-- ==== Sys2Proof/Machine/Operands.lean ====
section
/-! DEFINITION. Operand forms of the stream instructions: the word, the descriptor, scratchpad ranges, valid counts; and what
issuing an instruction does before and after its unit works (R55 to R59, R66, R69 to R73, R184 to R189, R317). -/
namespace Sys2Proof.Machine

/-! Units and words. -/

/-- Units of the table *Units* (R55). -/
inductive Unit_ where
  | arrLoad | arrStream | arrDrain | vec | mill | xfer | ltr | kln | rack
deriving DecidableEq, Repr

/-- UNIT codes (R55). -/
def Unit_.code : Unit_ → Nat
  | .arrLoad => 0 | .arrStream => 1 | .arrDrain => 2 | .vec => 3 | .mill => 4 | .xfer => 5 | .ltr => 8 | .kln => 9 | .rack => 10

/-- Period of a unit's clock in ACLK phases at a zone point (R11, R12, R56); the point only matters inside zones. -/
def Unit_.period : Unit_ → Nat → Nat
  | .arrLoad, p | .arrStream, p => 2 ^ p
  | .arrDrain, p | .vec, p | .mill, p => 2 * 2 ^ p
  | .xfer, _ | .ltr, _ => 2
  | .kln, _ | .rack, _ => 4

/-- Codes of streams: F 0, B 1, S 2 (R72). -/
def streamCode : Stream → Nat
  | .f => 0 | .b => 1 | .s => 2

/-- UNIT, CLASS and OP of an instruction word (R55). -/
def wordCodes (u : Unit_) (cls op : Nat) (w : Issue) : Nat :=
  match w.codes with
  | some c => c.toNat
  | none => u.code + cls * 2 ^ 4 + op * 2 ^ 8

/-- UNIT of an instruction word, which SCH_FAULT_FIRST records (R72). -/
def wordUnit (u : Unit_) (w : Issue) : Nat := wordCodes u 0 0 w % 16

/-- Bits 0 to 126 and PARITY of an instruction word as one number (R55). -/
def wordNat (u : Unit_) (cls op : Nat) (w : Issue) : Nat :=
  w.phase.toNat + w.issue.toNat * 2 ^ 2 + wordCodes u cls op w * 2 ^ 34 + w.desc.toNat * 2 ^ 50 +
    w.arg0.toNat * 2 ^ 62 + w.arg1.toNat * 2 ^ 78 + w.arg2.toNat * 2 ^ 94 + w.vsrc.toNat * 2 ^ 110 +
    w.rsv.toNat * 2 ^ 112 + w.vcnt.toNat * 2 ^ 119 + w.epoch.toNat * 2 ^ 120 + w.last.toNat * 2 ^ 121 +
    w.uspec.toNat * 2 ^ 122 + w.parity.toNat * 2 ^ 127

/-- The issue time of a word in phases from step start (R55). -/
def issueStamp (w : Issue) : Nat := w.issue.toNat * 4 + w.phase.toNat

/-- What makes any word MALFORMED, whatever its unit: parity, bits [118:112], reserved codes, the VSRC rules, a poisoned granule
(R55, R57, R70). -/
def wordBad (u : Unit_) (cls op : Nat) (w : Issue) : Bool :=
  popcount 128 (wordNat u cls op w) % 2 = 1 || w.rsv != 0 || w.codes.isSome || w.bad ||
    (if w.vcnt then w.vsrc = 3 || (w.vsrc = 2 && w.arg0.toNat < 0xFFF0) else w.vsrc != 0)

/-- A descriptor of a tile (R51, R118). -/
def State.descriptor (s : State) (t : Nat) (i : BitVec 12) : BitVec 512 := smGet 0 s.tiles.desc (t * 4096 + i.toNat)

/-- Bits [hi:lo] of a descriptor. -/
def dBits (d : BitVec 512) (hi lo : Nat) : Nat := bitsOf d.toNat hi lo

/-- A one-bit field of a descriptor. -/
def dBit (d : BitVec 512) (i : Nat) : Bool := bitOf d.toNat i

/-- An FP32 field of a descriptor. -/
def dF32 (d : BitVec 512) (lo : Nat) : Fp := valueOf fFP32 (bitsOf d.toNat (lo + 31) lo)

/-- Whether what a unit sends to the cooperage is a release. -/
def CoopDue.isRelease (d : CoopDue) : Bool :=
  match d.act with
  | .release _ => true
  | .ask _ _ _ => false

/-- Whether it is the release of a given buffer. -/
def CoopDue.frees (d : CoopDue) (id : Nat) : Bool := d.act == .release id

/-- Whether a buffer is live at a time, after the releases that units have sent for it by then (R198 to R200). -/
def State.liveAt (s : State) (id : Nat) (t : Phase) : Bool :=
  let b := smGet Buf.initial s.coop.bufs id
  let due := s.coop.due.filter fun d => d.frees id && d.at_ ≤ t && (s.coop.due.countP fun e =>
    e.isRelease && e.at_ / 2 = d.at_ / 2 && e.unit.toNat < d.unit.toNat) < 8
  b.live && (if b.count = 0 then !due.any fun d => d.unit = b.owner else due.length < b.count)

/-- The valid count that ARG0 and VSRC name at a tile (R55, R145, R198, R217). -/
def State.validCount (s0 : State) (t : Fin 128) (w : Issue) : Nat :=
  let now := if s0.sch.regime = .timed then max s0.clk.phase (s0.sch.startPhase + issueStamp w) else s0.clk.phase
  let s := s0.settle now
  if w.vsrc = 0 then smGet 0 s.fab.valid w.arg0.toNat
  else if w.vsrc = 1 then
    if s.liveAt w.arg0.toNat now then (smGet Buf.initial s.coop.bufs w.arg0.toNat).valid else 0
  else s.fld (.tmil t) (TMIL.SLOT_COUNT (w.arg0.toNat - 0xFFF0))

/-! Zones and clocks. -/

/-- A tile's zone as a page number. -/
def zoneOf (t : Nat) : Fin 8 := ⟨tileZone t % 8, Nat.mod_lt _ (by decide)⟩

/-- The operating point that governs a zone: OPMAP in a timed step, the current point otherwise (R56, R73). -/
def State.zonePoint (s : State) (z : Fin 8) : Nat :=
  if s.sch.regime = .timed then bitsOf (s.fld .sch SCH.OPMAP) (2 * z.val + 1) (2 * z.val)
  else s.fld (.zn z) ZN.STATUS_OP

/-- The core executes: no reset, self-test, halt or power loss holds it (R353, R390, R392, R395). -/
def State.running (s : State) : Bool :=
  s.stage = stageReady && !s.boot.coreBusy && !s.boot.fabricBusy && !s.pwr.down && !s.pwr.hardStop

/-! Scratchpad. -/

/-- Size of a tile's scratchpad. -/
def spadSize : Nat := 2 ^ 22

/-- Key of a scratchpad byte. -/
def spadKey (t a : Nat) : Nat := t * spadSize + a

/-- The bank of a scratchpad address (R184). -/
def bankOf (a : Nat) : Nat := 4 * (a / 2 ^ 20 % 4) + a / 256 % 4

/-- A range of a tile's scratchpad: start and length. -/
abbrev Range := Nat × Nat

/-- Banks that a list of ranges touches. -/
def banksOf (rs : List Range) : List Nat :=
  (rs.flatMap fun r => (granules 256 r.1 r.2).map fun l => bankOf (l * 256)).eraseDups

/-- State of a bank: 0 ON, 1 RETENTION, 2 OFF, 3 WAKING (R188, R204). -/
def State.bankState (s : State) (t : Fin 128) (b : Nat) : Nat :=
  bitsOf (s.fld (.tspd t) TSPD.BANK_STATE) (2 * b + 1) (2 * b)

/-- Bytes of a tile's scratchpad, without any count. -/
def State.spadPeek (s : State) (t a n : Nat) : List Byte := memGet s.tiles.spad (spadKey t a) n

/-- Whether any byte of a range is marked POISON. -/
def State.spadPoison (s : State) (t : Nat) (r : Range) : Bool :=
  (List.range r.2).any fun i => smGet false s.tiles.spadPoison (spadKey t (r.1 + i))

/-- Mark every byte of a range, as far as the scratchpad goes. -/
def State.markRange (s : State) (t : Nat) (v : Bool) (r : Range) : State :=
  { s with tiles := { s.tiles with
      spadPoison := smFill false s.tiles.spadPoison (spadKey t r.1) (min r.2 (spadSize - r.1)) v } }

/-- Mark every byte of several ranges POISON. -/
def State.markRanges (s : State) (t : Nat) (rs : List Range) : State := rs.foldl (fun s r => s.markRange t true r) s

/-- Ranks of the table *Bank priority* (R186). -/
inductive Rank where
  | arrayRead | arrayWrite | vector | mill | ingress | xfer
deriving DecidableEq, Repr

/-- Rank number (R186, R204). -/
def Rank.num : Rank → Nat
  | .arrayRead => 1 | .arrayWrite => 2 | .vector => 3 | .mill => 4 | .ingress => 5 | .xfer => 6

/-- A failed access: counted, the first recorded, and in a timed step a cause of the step (R189). -/
def State.offAccess (s : State) (second : Bool) (t : Fin 128) (rank : Rank) (a : Nat) : State :=
  let s1 := s.tally (.tspd t) TSPD.OFF_ACCESS_CNT TSPD.EV_OFF_BANK_ACCESS
  let s2 := if s1.flag (.tspd t) TSPD.OFF_FIRST_VALID then s1 else
    s1.setFld (.tspd t) TSPD.OFF_FIRST (a % 2 ^ 22 + rank.num * 2 ^ 32 + 2 ^ 39)
  if s2.sch.regime = .timed then s2.invalid second .poison else s2

/-- The lines of a range: address of each piece, and its length (R184, R185). -/
def linesOf (r : Range) : List Range :=
  (granules 256 r.1 r.2).map fun l =>
    let lo := max r.1 (l * 256)
    (lo, min (r.1 + r.2) ((l + 1) * 256) - lo)

/-- Account for the accesses of a list of ranges: served ones in ACCESS_CNT, failed ones under R189. -/
def State.access (s : State) (second : Bool) (t : Fin 128) (rank : Rank) (rs : List Range) : State :=
  let ls := rs.flatMap linesOf
  let bad := ls.filter fun l => s.bankState t (bankOf l.1) != 0
  bad.foldl (fun s l => s.offAccess second t rank l.1)
    (s.countN (.tspd t) TSPD.ACCESS_CNT (ls.length - bad.length))

/-- Bytes that a unit reads from a range: zero where the bank is not ON (R189). -/
def State.spadRead (s : State) (t : Fin 128) (r : Range) : List Byte :=
  (linesOf r).flatMap fun l => if s.bankState t (bankOf l.1) = 0 then s.spadPeek t.val l.1 l.2 else List.replicate l.2 0

/-- Whether an access to a range fails: a bank of it is not ON (R189). -/
def State.offIn (s : State) (t : Fin 128) (r : Range) : Bool := (linesOf r).any fun l => s.bankState t (bankOf l.1) != 0

/-- Whether what a unit reads from a range is POISON: marked, or a failed access. -/
def State.readPoison (s : State) (t : Fin 128) (r : Range) : Bool := s.spadPoison t.val r || s.offIn t r

/-- Bytes stored to a range, where the bank is ON, with their mark (R189); nothing lies beyond the scratchpad's end (R184). -/
def State.spadWrite (s : State) (t : Fin 128) (poison : Bool) (a : Nat) (data : List Byte) : State :=
  (linesOf (a, data.length)).foldl (fun s l =>
    if l.1 < spadSize && s.bankState t (bankOf l.1) = 0 then
      { s with tiles := { s.tiles with
          spad := memSet s.tiles.spad (spadKey t.val l.1) ((data.drop (l.1 - a)).take l.2),
          spadPoison := smFill false s.tiles.spadPoison (spadKey t.val l.1) l.2 poison } }
    else s) s

/-- Write several pieces. -/
def State.spadWrites (s : State) (t : Fin 128) (poison : Bool) (ps : List (Nat × List Byte)) : State :=
  ps.foldl (fun s p => s.spadWrite t poison p.1 p.2) s

/-! Time: the clock and what is due. -/

/-- A cell on its way reads its data: the bytes and their marks (R440, R441). -/
def FCell.withData (c : FCell) (shift : Nat) (data : List Byte) (poison : Bool) : FCell :=
  { c with body := BitVec.ofNat 480 (c.body.toNat + leNat data * 2 ^ shift), poison := poison }

/-- A unit does what is due (R68, R440). -/
def DueAct.apply (s : State) : DueAct → State
  | .hbm g ps poison => s.storePhys g ps poison
  | .spad t a data poison => s.spadWrite t poison a data
  | .fetch t a g late till =>
    s.later [⟨till, .hbm g [(0, s.spadRead t (a, 256))] (late || s.readPoison t (a, 256))⟩]
  | .cell t a n late shift f =>
    let c := FCell.withData f.cell shift (s.spadRead t (a, n)) (late || s.readPoison t (a, n))
    { s with fab := { s.fab with flight := s.fab.flight.map fun x => if x = f then { f with cell := c } else x } }
  | .reopen out => { s with fab := { s.fab with closed := s.fab.closed.filter fun x => x ≠ out } }

/-- Take the clock on to a time, HT with it; no effect when the time has passed (log 19). -/
def State.clockTo (s : State) (t : Phase) : State :=
  let n := t - s.clk.phase
  { s with clk := { s.clk with phase := s.clk.phase + n,
                               ht := if s.clk.stopped then s.clk.ht else s.clk.ht + BitVec.ofNat 80 (n * 0x4000) } }

/-- Do what is due by a time, each act at its own; at most `fuel` acts. -/
def State.settleDue : Nat → Phase → State → State
  | 0, _, s => s
  | n + 1, t, s =>
    match s.due with
    | [] => s
    | d :: rest => if d.at_ ≤ t then State.settleDue n t (d.act.apply (({ s with due := rest } : State).clockTo d.at_)) else s

/-- Acts by a time that can come of those that are due: each of them, and one that it leads to. -/
def State.dueFuel (s : State) : Nat := 2 * s.due.length

/-- Take the time on, and do what is due on the way; no effect when the time has passed (log 19). -/
def State.advanceTo (s : State) (t : Phase) : State := (State.settleDue s.dueFuel t s).clockTo t

/-- One ACLK phase passes: a quarter of a nanosecond, by which HT counts on, and what is due by then is done (R29; log 15). -/
def State.tick (s : State) : State := s.advanceTo (s.clk.phase + 1)

/-! Pending marks and unit occupancy. -/

/-- The 4 KiB granules of ranges, as regions of the tracker (R69). -/
def rangeRegions (t : Nat) (rs : List Range) : List Region :=
  (rs.flatMap fun r => granules 4096 r.1 r.2).eraseDups.map fun g => .granule t g

/-- Time at which a region stops being pending (R69). -/
def State.pendEnd (s : State) (r : Region) : Phase :=
  (s.tiles.pend.filter fun p => p.region = r).foldl (fun m p => max m p.till) 0

/-- Whether any of the regions is pending at a time. -/
def State.pendingAt (s : State) (rs : List Region) (t : Phase) : Bool := rs.any fun r => t < s.pendEnd r

/-- Mark regions pending until a time; marks that have ended are dropped. -/
def State.markPending (s : State) (rs : List Region) (till : Phase) : State :=
  { s with tiles := { s.tiles with
      pend := (s.tiles.pend.filter fun p => s.clk.phase < p.till) ++ rs.map fun r => ⟨r, till⟩ } }

/-- Key of a unit of a tile. -/
def unitKey (t : Nat) (u : Unit_) : Nat := 16 * t + u.code

/-- End of a unit's occupancy. -/
def State.busyTill (s : State) (t : Nat) (u : Unit_) : Phase := smGet 0 s.tiles.busy (unitKey t u)

/-- Cycles of a unit's clock that are left of its occupancy. -/
def State.busyLeft (s : State) (t : Fin 128) (u : Unit_) : Nat :=
  (s.busyTill t.val u - s.clk.phase + u.period (s.zonePoint (zoneOf t.val)) - 1) / u.period (s.zonePoint (zoneOf t.val))

/-- Occupy a unit until a time. -/
def State.occupy (s : State) (t : Nat) (u : Unit_) (till : Phase) : State :=
  { s with tiles := { s.tiles with busy := smSet 0 s.tiles.busy (unitKey t u) till } }

/-! Fronts. -/

/-- Section instance of a tile stream (R51). -/
def frontKey (t : Fin 128) (st : Stream) : Nat := t.val * 4 + streamCode st

/-- A front. -/
def State.front (s : State) (k : Nat) : Front := smGet Front.initial s.fronts k

/-- Replace a front. -/
def State.setFront (s : State) (k : Nat) (f : Front) : State := { s with fronts := smSet Front.initial s.fronts k f }

/-- Number of words in a quarter of a ring (R57). -/
def quarterWords : Nat := 1024

/-- Whether the quarter of a front's next word is refilled at a time (R57, R59); an untimed front waits instead (R73). -/
def State.quarterReady (s : State) (f : Front) (t : Phase) : Bool :=
  s.sch.regime != .timed || f.usable.any fun q => q.1 = f.ptr / quarterWords && q.2 ≤ t

/-- A front moves past its next word: END, or the end of the section, ends the stream, and the last word of a quarter leaves the
quarter four further on to be refilled (R57, R71, R74). -/
def Front.pass (f : Front) (w : Issue) (tick : Nat) (now : Phase) : Front :=
  let q := f.ptr / quarterWords
  { f with ptr := f.ptr + 1, ended := f.ended || w.last || f.len ≤ f.ptr + 1, lastIssue := some (issueStamp w), lastAt := some now,
           waiting := if (f.ptr + 1) % quarterWords = 0 && (q + 4) * quarterWords < f.len then f.waiting ++ [⟨q + 4, tick, [], 0⟩] else f.waiting }

/-- The first time at which a front may issue again: one instruction to an edge of its fastest clock (R58). -/
def Front.nextAt (f : Front) : Phase := (f.lastAt.map (· + 1)).getD 0

/-- Whether the next word of a front was read from a granule marked POISON (R57). -/
def Front.wordPoison (f : Front) : Bool := f.words.any fun w => w.1 = f.ptr && w.2.2

/-- The next word of a front, as its ring holds it. -/
def Front.next (f : Front) : Option Nat := if f.ended then none else (f.words.find? fun w => w.1 = f.ptr).map fun w => w.2.1

/-- Fields of TCTL that follow a stream: END flag and pointer. -/
def endFld : Stream → Fld
  | .f => TCTL.STATUS_F_END | .b => TCTL.STATUS_B_END | .s => TCTL.STATUS_S_END

def ptrFld : Stream → Fld
  | .f => TCTL.F_PTR | .b => TCTL.B_PTR | .s => TCTL.S_PTR

def issueFld : Stream → Fld
  | .f => TCTL.F_ISSUE_CNT | .b => TCTL.B_ISSUE_CNT | .s => TCTL.S_ISSUE_CNT

/-- Move a tile stream's front past a word. -/
def State.passTile (s : State) (i : TileIssue) : State :=
  let k := frontKey i.tile i.stream
  let f := (s.front k).pass i.word s.stepTick s.clk.phase
  (s.setFront k f).setFlds (.tctl i.tile) [(ptrFld i.stream, f.ptr), (endFld i.stream, f.ended.toNat)]

/-! Second runnings. -/

/-- The carve-out of a tile, when the primary image has one (R315). -/
def State.bubble (s : State) (t : Nat) : Option Bubble :=
  match s.sch.img with
  | some m => m.bubbles.find? fun b => b.tile = t
  | none => none

/-- Whether a byte range lies within another. -/
def within (r o : Range) : Bool := o.1 ≤ r.1 && r.1 + r.2 ≤ o.1 + o.2

/-- Whether two byte ranges share a byte. -/
def overlaps (r o : Range) : Bool := 0 < r.2 && 0 < o.2 && r.1 < o.1 + o.2 && o.1 < r.1 + r.2

/-- What an instruction of a tile stream touches: scratchpad ranges, interleaved-window ranges, its descriptor, and ranges of
other tiles' scratchpads. -/
structure Touch where
  spad : List Range
  hbm : List Range
  desc : Nat
  far : List (Nat × Range)
deriving DecidableEq, Repr

/-- Whether an instruction breaks the carve-out (R317): `from_` and `till` are its issue and the end of its occupancy, in phases
from step start. -/
def carveBreak (b : Bubble) (second : Bool) (x : Touch) (from_ till : Nat) : Bool :=
  let banks := banksOf x.spad
  let own := fun k => b.banks.getLsbD k
  let inDesc := b.descBase ≤ x.desc && x.desc < b.descBase + b.descCount
  let hbm : Range := (b.hbmBase, b.hbmLen)
  if second then
    !(b.wins.any fun w => w.1 * 4 ≤ from_ && from_ < w.2 * 4 && till < w.2 * 4) || !inDesc || banks.any (fun k => !own k) ||
      x.hbm.any fun r => !within r hbm
  else banks.any own || inDesc || x.hbm.any fun r => overlaps r hbm

/-- The HBM carve-out of the loaded image, which every BUBBLES section names alike; none without bubbles (R315). -/
def State.carvedHbm (s : State) : Option Range :=
  (s.sch.img.bind fun m => m.bubbles.head?).map fun b => (b.hbmBase, b.hbmLen)

/-- Whether any of some ranges touches the HBM carve-out (R317). -/
def State.touchesCarve (s : State) (rs : List Range) : Bool :=
  match s.carvedHbm with
  | some c => rs.any fun r => overlaps r c
  | none => false

/-- Whether an instruction of a tile breaks the carve-out of a timed step (R317); an S instruction on a tile without bubbles
has no window to issue in, any other only the HBM carve-out to break. -/
def State.carved (s : State) (i : TileIssue) (x : Touch) (from_ till : Nat) : Bool :=
  let second : Bool := i.stream = .s
  let farOwn := fun (q : Nat × Range) =>
    (banksOf [q.2]).map fun k => (((s.bubble q.1).map Bubble.banks).getD 0).getLsbD k
  s.sch.regime = .timed &&
  ((x.far.any fun q => (farOwn q).any fun own => own != second) ||
  match s.bubble i.tile.val with
  | some b => carveBreak b second x from_ till
  | none => second || s.touchesCarve x.hbm)

/-! Faults of tile instructions. -/

/-- Whether a stream belongs to second runnings. -/
def isSecond (st : Stream) : Bool := st = .s

/-- A schedule fault of a tile instruction: SCH and TCTL record it (R70, R72, R124). -/
def State.tileFault (s : State) (i : TileIssue) (u : Unit_) (f : SFault) : State :=
  let p : Page := .tctl i.tile
  let s1 := s.schedFault (isSecond i.stream) f ⟨streamCode i.stream, i.tile.val, wordUnit u i.word, i.word.issue.toNat⟩
  let s2 := if isSecond i.stream then s1.tally p TCTL.FAULT2_CNT TCTL.EV_FAULT2
    else s1.tally p TCTL.FAULT_CNT TCTL.EV_FAULT
  if s2.flag p TCTL.FAULT_FIRST_VALID then s2 else
    s2.setFld p TCTL.FAULT_FIRST (f.code + streamCode i.stream * 2 ^ 4 + wordUnit u i.word * 2 ^ 16 + 2 ^ 31 +
      i.word.issue.toNat * 2 ^ 32)

/-- An instruction's outputs are marked POISON: counted, and a timed step is invalid (R71, R124; log 21). -/
def State.poisonOut (s : State) (i : TileIssue) : State :=
  (s.poisoned (isSecond i.stream)).tally (.tctl i.tile) TCTL.POISON_CNT TCTL.EV_POISON_OUT

/-! Issuing. -/

/-- What a unit's chapter gives of one instruction in one state, before it issues. -/
structure Plan where
  /-- the unit's own grounds for MALFORMED -/
  bad : Bool
  /-- whether its destinations can be decoded where the word itself is sound: descriptors of its TYPE, and destinations within
  their memories (R70; log 80) -/
  decodes : Bool
  /-- scratchpad ranges that it reads, and writes -/
  reads : List Range
  writes : List Range
  /-- other regions that it must not find pending, and that it leaves pending -/
  regsIn : List Region
  regsOut : List Region
  /-- the time before which an untimed front holds it for a condition of its unit -/
  waitTill : Phase
  /-- interleaved-window ranges that it accesses -/
  hbm : List Range
  /-- occupancy and result in phases from issue -/
  occ : Nat
  result : Nat
  /-- rank of its scratchpad accesses for loss counts -/
  rank : Rank
  /-- ranges of other tiles' scratchpads that it reads -/
  far : List (Nat × Range) := []
  /-- VCLK cycles lost to bank conflicts by an issue at a time, where the array's own reads settle them (R101) -/
  lost : Option (Phase → Nat) := none

/-- What a unit does with an instruction: whether it finds an operand of its own not ready, or a collision of its own, at a
time, and what such a collision adds; how it marks its destinations; and its work, told the issue time and whether its outputs
are POISON already. -/
structure Work where
  notReady : Phase → State → Bool
  collide : Phase → State → Bool
  onCollide : State → State
  mark : State → State
  run : Phase → Bool → State → State

/-- A unit's work with no conditions of its own. -/
def Work.plain (mark : State → State) (run : Phase → Bool → State → State) : Work :=
  ⟨fun _ _ => false, fun _ _ => false, id, mark, run⟩

/-- Whether a region is a stationary buffer. -/
def Region.isBuffer : Region → Bool
  | .shadow _ => true
  | _ => false

/-- Every region that an instruction waits for in an untimed step: what it reads or writes, the accumulator's own writes apart,
which the array orders itself (R73, R105). -/
def Plan.regions (p : Plan) (t : Nat) : List Region :=
  rangeRegions t (p.reads ++ p.writes) ++ p.regsIn ++ p.regsOut.filter Region.isBuffer

/-- Regions whose pending mark at issue is a fault: its operands (R70). -/
def Plan.operands (p : Plan) (t : Nat) : List Region := rangeRegions t p.reads ++ p.regsIn

/-- Suppress an instruction under a fault: its destinations, where they are known, are marked POISON (R70). -/
def suppress (i : TileIssue) (u : Unit_) (f : SFault) (known : Bool) (mark : State → State) (s : State) : State :=
  if known then ((mark s).tileFault i u f).poisonOut i else s.tileFault i u f

/-- VCLK cycles that an instruction loses to bank conflicts (R101, R187; log 12). -/
def lossOf (i : TileIssue) (p : Plan) (t : Phase) : Nat := (p.lost.map fun f => f t).getD i.loss

/-- An instruction issues at time `t`: counts, losses, occupancy, pending marks, then its work (R66, R69, R187). The marks end at the
result time that R66 gives, also where an untimed load waits on for an untaken block (DESIGN CHOICE, log 84). -/
def launch (i : TileIssue) (u : Unit_) (p : Plan) (w : Work) (t : Phase) (late : Bool) (s : State) : State :=
  let per := Unit_.period .vec (s.zonePoint (zoneOf i.tile.val))
  let loss := lossOf i p t
  let s1 := (s.count (.tctl i.tile) (issueFld i.stream)).countN (.tspd i.tile) (TSPD.LOSS_CNT (p.rank.num - 1)) loss
  let s2 := (s1.occupy i.tile.val u (t + p.occ + loss * per)).markPending
    (rangeRegions i.tile.val p.writes ++ p.regsOut) (t + p.result + loss * per)
  let late' := late || p.reads.any (fun r => s.readPoison i.tile r)
  w.run t late' (s2.access (isSecond i.stream) i.tile p.rank (p.reads ++ p.writes))

/-- Whether a word's stamp does not lie after that of the front's last instruction (R56). -/
def Front.outOfOrder (f : Front) (w : Issue) : Bool :=
  match f.lastIssue with
  | some l => issueStamp w ≤ l
  | none => false

/-- Streams in their order: F over B over S (R71). -/
def streamsAbove : Stream → List Stream
  | .f => []
  | .b => [.f]
  | .s => [.f, .b]

/-- Whether a stream that ranks above an instruction's has, as its next word, one for the same unit at the same issue time (R70,
R71). -/
def State.outranked (s : State) (i : TileIssue) (u : Unit_) : Bool :=
  (streamsAbove i.stream).any fun st =>
    match (s.front (frontKey i.tile st)).next with
    | some v => bitsOf v 37 34 = u.code && 4 * bitsOf v 33 2 + bitsOf v 1 0 = issueStamp i.word
    | none => false

/-- Issue in a timed step (R56, R59, R69 to R71). Where several conditions of R70 hold at once, the first in the order of the tests
below is the fault: STREAM_UNDERRUN, MALFORMED, CARVE_OUT, UNIT_COLLISION, OPERAND_NOT_READY (DESIGN CHOICE, log 84). -/
def issueTimed (i : TileIssue) (u : Unit_) (cls op : Nat) (p : Plan) (w : Work) (s0 : State) : State :=
  let t := s0.sch.startPhase + issueStamp i.word
  let s := s0.advanceTo t
  let f := s.front (frontKey i.tile i.stream)
  let per := u.period (s.zonePoint (zoneOf i.tile.val))
  let unread := wordBad u cls op i.word || f.wordPoison
  let bad := unread || issueStamp i.word % per ≠ 0 || f.outOfOrder i.word || p.bad
  let known := !unread && p.decodes
  let s' :=
    if !s.quarterReady f t then (suppress i u .streamUnderrun known w.mark s).count .sch SCH.UNDERRUN_CNT
    else if bad then suppress i u .malformed known w.mark s
    else if s.carved i ⟨p.reads ++ p.writes, p.hbm, i.word.desc.toNat, p.far⟩ (issueStamp i.word) (issueStamp i.word + p.occ) then
      s.tileFault i u .carveOut
    else if t < s.busyTill i.tile.val u || s.outranked i u then suppress i u .unitCollision known w.mark s
    else if w.collide t s then suppress i u .unitCollision known w.mark (w.onCollide s)
    else
      let late := s.pendingAt (p.operands i.tile.val) t || w.notReady t s
      launch i u p w t late (if late then (s.tileFault i u .operandNotReady) else s)
  s'.passTile i

/-- The first edge of a clock of period `per`, in phases, at or after a time. -/
def nextEdge (per t : Nat) : Nat := ceilDiv t per * per

/-- The first time at or after `t` at which the fronts of a hot module may issue in an untimed step: odd microseconds of HT are
throttled (R366; log 58). -/
def State.unthrottled (s : State) (t : Phase) : Phase :=
  let h := s.clk.ht.toNat + (t - s.clk.phase) * 0x4000
  if s.flag .thm THM.STATUS_HOT && h / 65536000 % 2 = 1 then t + ceilDiv (65536000 - h % 65536000) 0x4000 else t

/-- When an instruction issues in an untimed step: at the first edge after its front's last one at which no region of the instruction
is pending and its unit is free (R58, R73). -/
def State.untimedTime (s : State) (i : TileIssue) (u : Unit_) (p : Plan) : Phase :=
  let per := u.period (s.zonePoint (zoneOf i.tile.val))
  let from_ := max s.clk.phase (s.front (frontKey i.tile i.stream)).nextAt
  let free := if i.word.codes.isSome then from_
    else ((p.regions i.tile.val).map s.pendEnd).foldl max (max (max from_ p.waitTill) (s.busyTill i.tile.val u))
  nextEdge per (s.unthrottled (nextEdge per free))

/-- Issue in an untimed step (R58, R73); an operand that the unit itself waits for leaves the front waiting (R74). -/
def issueUntimed (i : TileIssue) (u : Unit_) (cls op : Nat) (p : Plan) (w : Work) (s0 : State) : State :=
  let t := s0.untimedTime i u p
  let f := s0.front (frontKey i.tile i.stream)
  let s := s0.advanceTo t
  if s.zonePoint (zoneOf i.tile.val) = 3 then s0
  else if wordBad u cls op i.word || f.wordPoison || p.bad then
    (suppress i u .malformed (!(wordBad u cls op i.word || f.wordPoison) && p.decodes) w.mark s).passTile i
  else if w.notReady t s || w.collide t s then s0
  else (launch i u p w t false s).passTile i

/-- A front of a tile issues its next instruction to a unit (R55 to R59, R69 to R73); with no step, or a stream that has ended,
there is none to issue. -/
def issueTile (i : TileIssue) (u : Unit_) (cls op : Nat) (p : Plan) (w : Work) (s : State) : State :=
  if !s.running || (s.front (frontKey i.tile i.stream)).ended then s
  else match s.sch.regime with
    | .none => s
    | .timed => issueTimed i u cls op p w s
    | .untimed => issueUntimed i u cls op p w s

/-- An instruction as its unit issues it: the unit, the word's class and operation, and what the unit's chapter gives of it. -/
structure Job where
  unit : Unit_
  cls : Nat
  op : Nat
  plan : Plan
  work : Work

/-- A front of a tile issues a job. -/
def issueJob (i : TileIssue) (j : Job) (s : State) : State := issueTile i j.unit j.cls j.op j.plan j.work s

/-- Finish an instruction's outputs: bytes written with their mark, and POISON outputs counted (R71). -/
def finishOut (i : TileIssue) (poison : Bool) (outs : List (Nat × List Byte)) (s : State) : State :=
  let s1 := s.spadWrites i.tile poison outs
  if poison then s1.poisonOut i else s1

/-- A fraction of a tick in whole phases: `n` cycles of a clock of period `per`. -/
def cycles (per n : Nat) : Nat := per * n

end Sys2Proof.Machine
end

