-- ==== Sys2Proof/Machine/Windows.lean ====
section
/-! DEFINITION. Command windows and the admission of granules in a timed step (R325 to R327), refresh and refresh management
(R328). -/
namespace Sys2Proof.Machine

/-- Codes of the table *Window kinds* (R325). -/
def winXfer : Nat := 0
def winFeed : Nat := 1
def winRuns : Nat := 2
def winU : Nat := 3
def winLauter : Nat := 4
def winPool : Nat := 5
def winService : Nat := 6
def winRef : Nat := 7
def winRfm : Nat := 8

/-- The windows of a controller in the loaded image. -/
def State.windows (s : State) (k : Nat) : List MemWin :=
  match s.sch.img with
  | some m => smGet [] m.windows k
  | none => []

/-- Whether a window holds a step-relative tick. -/
def MemWin.holds (w : MemWin) (tick : Nat) : Bool := w.start ≤ tick && tick < w.start + w.len

/-- Whether a controller has a window of a kind and owner that holds a tick (R326). -/
def State.inWindow (s : State) (k kind owner tick : Nat) : Bool :=
  (s.windows k).any fun w => w.kind = kind && w.owner = owner && w.holds tick

/-- Phases since step start. -/
def State.stepPhase (s : State) : Nat := s.clk.phase - s.sch.startPhase

/-- Record a refused granule: counted, the first recorded, and the fault that the requester's rule gives (R327, R333). -/
def State.refuse (s : State) (g kind tick : Nat) (over_ : Bool) (fault : State → State) : State :=
  let p := memPage (granStack g)
  let s1 := if over_ then s.tally p MEM.PC_OVER_CNT MEM.EV_PC_OVER
    else s.tally p MEM.WINDOW_MISS_CNT MEM.EV_WINDOW_MISS
  fault (if s1.flag p MEM.MISS_FIRST_VALID then s1 else
    s1.setFld p MEM.MISS_FIRST (granPc g + kind * 2 ^ 12 + over_.toNat * 2 ^ 16 + 2 ^ 31 + tick % 2 ^ 32 * 2 ^ 32))

/-- Decide one granule of a timed step: its window holds the command tick, and it is at most the third of its pseudo-channel's
16 ns frame at the time `at_`, in phases from step start (R326, R327).  Outside timed steps every granule is served (R331). -/
def State.admitGran (s : State) (kind owner tick at_ g : Nat) (fault : State → State) : Bool × State :=
  if s.sch.regime != .timed then (true, s)
  else if !s.inWindow (granStack g) kind owner tick then (false, s.refuse g kind tick false fault)
  else
    let key := at_ / 64 * 512 + granPc g
    let n := smGet 0 s.mem.frames key
    if n ≥ 3 then (false, s.refuse g kind tick true fault)
    else (true, { s with mem := { s.mem with frames := smSet 0 s.mem.frames key (n + 1) } })

/-- How an access of several granules is admitted: the granule's place in the command, its physical number. -/
abbrev Admission := Nat → Nat → State → Bool × State

/-- Every granule served. -/
def Admission.all : Admission := fun _ _ s => (true, s)

/-- Read one piece of an access; a refused one gives zero bytes marked POISON (R327). -/
def State.readPiece (s : State) (adm : Admission) (second : Bool) (w : Win) (ecc : List EccErr) (i : Nat) (q : Nat × Nat) :
    GranRead × State :=
  match w.gran q.1 with
  | none => (.none q.2, s)
  | some g =>
    let d := adm i g s
    if d.1 then d.2.readGran second w ecc i q.1 q.2 else (.none q.2, d.2)

/-- Read `n` bytes from `a` under an admission; `i0` is the place of the first granule in the command. -/
def State.readVia (s : State) (adm : Admission) (second : Bool) (edge : Nat) (w : Win) (ecc : List EccErr) (i0 a n : Nat) :
    MemRead × State :=
  let out := (pieces a n).any fun q => (w.gran q.1).isNone
  let s0 := if out then s.addrRange edge else s
  let s1 := if out && s.sch.regime = .timed then s0.invalid second .poison else s0
  ((pieces a n).zipIdx).foldl (fun acc q =>
    let r := acc.2.readPiece adm second w ecc (i0 + q.2) q.1
    (⟨acc.1.data ++ r.1.data, acc.1.marks ++ [r.1.poison], acc.1.ue || r.1.ue⟩, r.2)) (⟨[], [], false⟩, s1)

/-- Write bytes from `a` under an admission, all with one mark, to be seen from a time on; a refused granule is discarded (R68,
R327). -/
def State.writeVia (s : State) (adm : Admission) (edge : Nat) (w : Win) (i0 a : Nat) (data : List Byte) (poison : Bool) (till : Phase) :
    State :=
  let ps := pieces a data.length
  let s0 := if ps.any fun q => (w.gran q.1).isNone then s.addrRange edge else s
  (ps.zipIdx).foldl (fun s q =>
    match w.gran q.1.1 with
    | none => s
    | some g =>
      let d := adm (i0 + q.2) g s
      if d.1 then d.2.writeGran w q.1.1 ((data.drop (q.1.1 - a)).take q.1.2) poison till else d.2) s0

/-- The fault of a refused access that no stream instruction made, for the job that it was made for (R70, R72, R327). -/
def State.serviceFault (s : State) (second : Bool) : State := s.schedFault second .unitCollision s.nowhere

/-- Phases from a write's last granule at the edge unit to its being seen by window reads: 80 ns (R68). -/
def visibleAfter : Nat := 320

/-! SERVICE requesters (R326). -/

/-- The first time at or after `t` at which a controller serves its SERVICE requesters: at once outside a timed step; in one within its
next SERVICE window, or, where the step has no more of them, after its period (R326, R331; log 70). -/
def State.serviceAt (s : State) (t : Phase) (k : Nat) : Phase :=
  if s.sch.regime != .timed then t
  else match (s.windows k).find? fun w => w.kind = winService && t < s.sch.startPhase + 4 * (w.start + w.len) with
    | some w => max t (s.sch.startPhase + 4 * w.start)
    | none => max t (s.sch.startPhase + 4 * s.fld .sch SCH.STEP_PERIOD)

/-- The controllers that hold granules of ranges of the interleaved window. -/
def rangeStacks (rs : List Range) : List Nat :=
  ((rs.flatMap fun r => pieces r.1 r.2).filterMap fun q => (interGran q.1).map granStack).eraseDups

/-- The first time at which every controller that a SERVICE requester's ranges touch has begun to serve it (R326). -/
def State.serviceFrom (s : State) (t : Phase) (rs : List Range) : Phase :=
  if s.sch.regime != .timed then t else ((rangeStacks rs).map (s.serviceAt t)).foldl max t

/-! Paths between the units beside the mesh (R66 to R68, R437). -/

/-- Crossing charge in phases between two routers next to each other: zones, and the die seam (R66). -/
def State.crossing (s : State) (a b : Nat) : Nat :=
  let za := zoneOf a
  let zb := zoneOf b
  let zone := if za = zb then 0 else if s.zonePoint za = s.zonePoint zb then 2 else 4
  let seam := if a % 16 + b % 16 = 15 ∧ (a % 16 = 7 ∨ a % 16 = 8) ∧ a / 16 = b / 16 then 8 else 0
  zone + seam

/-- Phases along a row between two columns: one MCLK cycle a hop, and the crossings. -/
def State.alongRow (s : State) (r c0 c1 : Nat) : Nat :=
  let lo := min c0 c1
  ((List.range (max c0 c1 - lo)).map fun i => 2 + s.crossing (16 * r + lo + i) (16 * r + lo + i + 1)).sum

/-- Phases along a column between two rows. -/
def State.alongCol (s : State) (c r0 r1 : Nat) : Nat :=
  let lo := min r0 r1
  ((List.range (max r0 r1 - lo)).map fun i => 2 + s.crossing (16 * (lo + i) + c) (16 * (lo + i + 1) + c)).sum

/-- Phases between the edge unit of a stack and the router of a tile (R68): along the stack's own column nearest to the
tile, then along the row. -/
def State.stackPath (s : State) (k t : Nat) : Nat :=
  let r := t / 16
  let c := max (4 * (k % 4)) (min (4 * (k % 4) + 3) (t % 16))
  2 + s.alongCol c (if k < 4 then 0 else 7) r + s.alongRow r c (t % 16)

/-- Phases between the routers of two tiles: along the column, then along the row. -/
def State.tilePath (s : State) (a b : Nat) : Nat :=
  s.alongCol (a % 16) (a / 16) (b / 16) + s.alongRow (b / 16) (a % 16) (b % 16)

/-- Phases between an edge switch's mesh port of a row and the router of a column of that row. -/
def State.edgePath (s : State) (east : Bool) (r c : Nat) : Nat := 2 + s.alongRow r (if east then 15 else 0) c

/-- Phases between the central block and an edge switch (R437). -/
def State.centralPath (s : State) (east : Bool) : Nat := 2 + s.edgePath east 3 (if east then 8 else 7)

/-- Phases between the central block and a tile (R437). -/
def State.centralTile (s : State) (t : Nat) : Nat := 2 + s.tilePath t (if t % 16 ≤ 7 then 55 else 56)

/-- Phases between the central block and the edge unit of a stack, through the die of the stack's columns (R437). -/
def State.centralStack (s : State) (k : Nat) : Nat := 2 + s.stackPath k (if k % 4 < 2 then 55 else 56)

/-- Phases between an edge switch's mesh port of a row and the edge unit of a stack. -/
def State.edgeStack (s : State) (east : Bool) (r k : Nat) : Nat :=
  let c := if east then 4 * (k % 4) + 3 else 4 * (k % 4)
  s.edgePath east r c + s.stackPath k (16 * r + c)

/-- Phases between the edge units of two stacks. -/
def State.stackStack (s : State) (k j : Nat) : Nat :=
  if k = j then 0 else
    let r := if j < 4 then 0 else 7
    s.stackPath k (16 * r + 4 * (j % 4) + (if k % 4 < j % 4 then 0 else 3)) + 2

/-! Refresh. -/

/-- Rows refreshed by one REF window, of 12,288 in a bank (R328). -/
def refRows : Nat := 48

/-- Whether the next REF window of its stack refreshes a granule's row (R321, R328). -/
def State.refreshesNext (s : State) (g : Nat) : Bool :=
  let d := granPlace g
  (d.row + 12288 - smGet 0 s.mem.refreshRow d.stack) % 12288 < refRows

/-- Whether a maintenance window of a kind is due at a stack whose last one was at `last`: a window of the image that has not run
yet or, outside timed steps, `gap` phases after the last one and after the step end (R328). -/
def State.maintenanceDue (s : State) (k kind gap : Nat) (last : Phase) : Bool :=
  if s.sch.regime = .timed then
    (s.windows k).any fun w => w.kind = kind && w.holds s.stepTick &&
      (last < s.sch.startPhase + 4 * w.start || s.sch.startPhase + w.start = 0)
  else max last s.sch.endPhase + gap ≤ s.clk.phase

/-- The time that a maintenance window counts as issued at: in a timed step that of the window, else its due time (R328). -/
def State.maintenanceAt (s : State) (gap : Nat) (last : Phase) : Phase :=
  if s.sch.regime = .timed then s.clk.phase else max last s.sch.endPhase + gap

/-- REF_WINDOW: the next 48 rows of every bank of a stack are refreshed, in a window of the image or, outside timed steps, every
125,000 ns (R328). -/
def execRefWindow (k : Fin 8) (s : State) : Host.Outcome State Fault Refusal :=
  .next (if s.fld (.mem k) MEM.STATUS_STATE = 2 ∧ s.maintenanceDue k.val winRef 500000 (smGet 0 s.mem.refAt k.val) then
      ({ s with mem := { s.mem with
          refreshRow := smSet 0 s.mem.refreshRow k.val ((smGet 0 s.mem.refreshRow k.val + refRows) % 12288),
          refAt := smSet 0 s.mem.refAt k.val (s.maintenanceAt 500000 (smGet 0 s.mem.refAt k.val)) } }).count (.mem k) MEM.REF_CNT
    else s)

/-- RFM_WINDOW: refresh management on the rows that the stack itself has flagged, in a window of the image or, outside timed
steps, every 500,000 ns (R328). -/
def execRfmWindow (k : Fin 8) (s : State) : Host.Outcome State Fault Refusal :=
  .next (if s.fld (.mem k) MEM.STATUS_STATE = 2 ∧ s.maintenanceDue k.val winRfm 2000000 (smGet 0 s.mem.rfmAt k.val) then
      ({ s with mem := { s.mem with
          rfmAt := smSet 0 s.mem.rfmAt k.val (s.maintenanceAt 2000000 (smGet 0 s.mem.rfmAt k.val)) } }).count (.mem k) MEM.RFM_CNT
    else s)

end Sys2Proof.Machine
end

