-- ==== Sys2Proof/Machine/Hydrometer.lean ====
section
/-! DEFINITION. The hydrometer: taps, records, snapshots, format selection and the silent-tensor watchdog (R282 to R298). -/
namespace Sys2Proof.Machine

/-! Configuration. -/

/-- The reset form of a configuration entry (R283). -/
def hydResetEntry : Reg := BitVec.ofNat 64 (1 * 2 ^ 4 + 1 * 2 ^ 8 + 0xD8 * 2 ^ 16 + 256 * 2 ^ 24 + 999 * 2 ^ 40)

/-- The configuration entry of a tensor (R282). -/
def State.hydEntry (s : State) (id : Nat) : Reg := smGet hydResetEntry s.hyd.config id

/-- Fields of an entry (R282). -/
def hEnable (e : Reg) : Bool := bitOf e.toNat 0
def hAuto (e : Reg) : Bool := bitOf e.toNat 1
def hNoise (e : Reg) : Bool := bitOf e.toNat 2
def hVote (e : Reg) : Bool := bitOf e.toNat 3
def hCeil (e : Reg) : Nat := bitsOf e.toNat 7 4
def hHeadroom (e : Reg) : Nat := bitsOf e.toNat 10 8
def hBase (e : Reg) : Int := sgn 8 (bitsOf e.toNat 23 16)
def hSilentN (e : Reg) : Nat := bitsOf e.toNat 39 24
def hSilentThr (e : Reg) : Nat := bitsOf e.toNat 49 40

/-- The tensor IDs whose entry a test accepts, ascending; entries in reset form have every enable clear. -/
def State.hydIds (s : State) (p : Reg → Bool) : List Nat := (s.hyd.config.filter fun e => p e.2).map Prod.fst

/-- The active selection of a tensor (R294). -/
def State.selection (s : State) (id : Nat) : BitVec 4 × BitVec 8 :=
  (smGet none s.hyd.selActive id).getD (BitVec.ofNat 4 (hCeil (s.hydEntry id)), 127)

/-- How a drain or vector conversion of a tensor writes: its own form, or the active selection with its power of two (R295);
none when the descriptor does not name GCEIL with SCALING 0. -/
def State.selected (s : State) (id : Nat) (c : ConvSpec) : Option (ConvSpec × Int) :=
  let e := s.hydEntry id
  if hEnable e && hAuto e then
    if c.fmt = hCeil e && c.scaling = 0 then
      let f := s.selection id
      some ({ c with fmt := f.1.toNat }, 127 - (f.2.toNat : Int))
    else none
  else some (c, 0)

/-! Taps and records. -/

/-- A tap sends data to the record of a tensor that has ENABLE set (R283, R288). -/
def State.tap (s : State) (at_ : Phase) (id : Nat) (d : TapData) : State :=
  if hEnable (s.hydEntry id) then { s with hyd := { s.hyd with taps := s.hyd.taps ++ [⟨at_, id, d⟩] } } else s

/-- A conversion tap: the format written, the events, and the exact values (R284). -/
def convTap (fmt : Nat) (evs : List ConvEv) (xs : List Fp) (t2 : Nat) (osq : Bool) : TapData :=
  let c := countEvs evs
  .conv (BitVec.ofNat 4 fmt) xs.length c.overflow c.vanish c.subnormal c.zeros c.nans t2 xs osq

/-- The bin of a value (R286). -/
def binOf (hbase : Int) : Fp → Option Nat
  | .nan => none
  | .inf _ => some 31
  | .fin _ m e =>
    if m = 0 then some 0 else
      let l := flog2 m 1 + e
      if l < hbase then some 1 else if l ≥ hbase + 58 then some 31 else some ((l - hbase).toNat / 2 + 2)

/-- The bin of a vote margin (R297). -/
def voteBin (x : Int) : Nat := if x = 0 then 0 else Nat.log2 x.natAbs + 1

/-- The larger magnitude of two; NaN does not enter (R287). -/
def maxAbsOf (a x : Fp) : Fp := if x.isNan then a else if a.lt x.abs then x.abs else a

/-- Add events to a slot (R285). -/
def HydSlot.addConv (q : HydSlot) (fmt : BitVec 4) (n ov va su ze na : Nat) : HydSlot :=
  { fmt := some fmt, elems := q.elems + n, overflow := q.overflow + ov, vanish := q.vanish + va,
    subnormal := q.subnormal + su, zero := q.zero + ze, nans := q.nans + na }

/-- Whether a slot takes a format: its own, or any while it is empty (R285). -/
def HydSlot.takes (q : HydSlot) (fmt : BitVec 4) : Bool := q.fmt = none || q.fmt = some fmt

/-- Count values in bins. -/
def addBins (h : SMap Nat) (ks : List Nat) : SMap Nat := ks.foldl (fun h k => smSet 0 h k (smGet 0 h k + 1)) h

/-- The exact square leaves of LSQ and OSQ: RNE_fp32 of x × x (R287). -/
def squares (xs : List Fp) : List Fp := xs.map fun x => f32 (rne32 (x.mul x))

/-- A sum that an infinite term makes +∞ (R287). -/
def addSum (a : Fp) (xs : List Fp) : Fp := fpSum (a :: xs.map fun x => match x with | .inf _ => .inf false | y => y)

/-- A record with a conversion's data; a tap of no converted element names no slot (R284, R285). -/
def HydRec.addConv (e : Reg) (r : HydRec) (fmt : BitVec 4) (n ov va su ze na t2 : Nat) (xs : List Fp) (osq : Bool) :
    HydRec :=
  let r1 := if n = 0 then r
    else if r.slot0.takes fmt then { r with slot0 := r.slot0.addConv fmt n ov va su ze na }
    else if r.slot1.takes fmt then { r with slot1 := r.slot1.addConv fmt n ov va su ze na }
    else { r with other := { r.other.addConv fmt n ov va su ze na with fmt := none }, spill := true }
  let bins := if hVote e then [] else xs.filterMap (binOf (hBase e))
  { r1 with hist := addBins r1.hist bins, maxAbs := xs.foldl maxAbsOf r1.maxAbs, t2Reserved := r1.t2Reserved + t2,
            osq := if osq && hNoise e then addSum r1.osq (squares xs) else r1.osq }

/-- Whether a conversion finds both format slots taken (R285). -/
def HydRec.spills (r : HydRec) (fmt : BitVec 4) : Bool := !r.slot0.takes fmt && !r.slot1.takes fmt

/-- A record with a tap's data (R284 to R287, R296, R297). -/
def HydRec.add (e : Reg) (r : HydRec) : TapData → HydRec
  | .conv fmt n ov va su ze na t2 xs osq => r.addConv e fmt n ov va su ze na t2 xs osq
  | .kiln n nz t2 => { r with kilnElems := r.kilnElems + n, kilnNz := r.kilnNz + nz, t2Reserved := r.t2Reserved + t2 }
  | .pruned x => { r with pruned := addSum r.pruned [x] }
  | .lsq xs => if hNoise e then { r with lsq := addSum r.lsq (squares xs) } else r
  | .votes xs t2 =>
    let r1 := { r with t2Reserved := r.t2Reserved + t2 }
    if hVote e then { r1 with hist := addBins r1.hist (xs.map voteBin) } else r1

/-- A tap's data reaches its record (R285, R288). -/
def State.takeTap (s : State) (t : Tap) : State :=
  let e := s.hydEntry t.tensor
  let r := smGet HydRec.initial s.hyd.recs t.tensor
  let s1 := { s with hyd := { s.hyd with recs := smSet HydRec.initial s.hyd.recs t.tensor (r.add e t.data) } }
  match t.data with
  | .conv fmt n _ _ _ _ _ _ _ _ => if r.spills fmt then s1.tallyN .hyd HYD.SPILL_CNT n HYD.EV_FMT_SPILL else s1
  | _ => s1

/-- The tap that comes first. -/
def firstTap : List Tap → Option (Tap × List Tap)
  | [] => none
  | t :: ts =>
    match firstTap ts with
    | none => some (t, [])
    | some (u, us) => if u.at_ < t.at_ then some (u, t :: us) else some (t, ts)

/-- HYD_TAP_EVENT: the first tap on its way reaches its record 256 ns after its time (R288). -/
def execHydTapEvent (s : State) : Host.Outcome State Fault Refusal :=
  .next (match firstTap s.hyd.taps with
    | none => s
    | some (t, rest) => (({ s with hyd := { s.hyd with taps := rest } }).advanceTo (t.at_ + 1024)).takeTap t)

/-- Every tap earlier than a time reaches its record: the events that belong to a snapshot or a step record (R288; log 23). -/
def State.settleTaps (s : State) (till : Phase) : State :=
  let due := s.hyd.taps.filter fun t => t.at_ < till
  due.foldl State.takeTap { s with hyd := { s.hyd with taps := s.hyd.taps.filter fun t => !(t.at_ < till) } }

/-! Step records. -/

/-- The smallest FP32 at or above a magnitude (R287). -/
def roundUp32 : Fp → Nat
  | .nan => 0
  | .inf _ => 0x7F80_0000
  | x => let c := (rne fFP32 false x).code; if (valueOf fFP32 c).lt x then c + 1 else c

/-- A count in a field of `n` bytes, saturating. -/
def satBytes (n v : Nat) : List Byte := leBytes n (min v (256 ^ n - 1))

/-- A format slot of a step record (R289). -/
def HydSlot.bytes (q : HydSlot) : List Byte :=
  leBytes 8 (match q.fmt with | some f => f.toNat | none => 0xFF) ++ satBytes 8 q.elems ++ satBytes 8 q.overflow ++
    satBytes 8 q.vanish ++ satBytes 8 q.subnormal ++ satBytes 8 q.zero ++ satBytes 8 q.nans ++ leBytes 8 0

/-- FP32 of an exact sum or maximum. -/
def fp32Bytes (x : Fp) : List Byte := leBytes 4 (rne fFP32 false x).code

/-- The 512 bytes of a step record (R289). -/
def stepRecord (e : Reg) (id : Nat) (valid : Bool) (index : Nat) (sel : BitVec 4 × BitVec 8) (r : HydRec) : List Byte :=
  leBytes 2 (id + valid.toNat * 2 ^ 15) ++ leBytes 2 (r.spill.toNat + r.silentNow.toNat * 2 + (hAuto e).toNat * 4) ++
  leBytes 4 index ++ satBytes 8 r.t2Reserved ++ leBytes 4 (roundUp32 r.maxAbs) ++ fp32Bytes r.pruned ++
  fp32Bytes r.lsq ++ fp32Bytes r.osq ++ satBytes 8 r.kilnElems ++ satBytes 8 r.kilnNz ++ satBytes 2 r.silentRun ++
  leBytes 1 sel.1.toNat ++ leBytes 1 sel.2.toNat ++ leBytes 12 0 ++ r.slot0.bytes ++ r.slot1.bytes ++ r.other.bytes ++
  (List.range 32).flatMap fun k => satBytes 8 (smGet 0 r.hist k)

/-- A record after its step record is written: counts and sums clear, the watchdog's run stays (R289). -/
def HydRec.cleared (r : HydRec) : HydRec := { HydRec.initial with silentRun := r.silentRun }

/-- HBM range of a tensor's step record (R289). -/
def State.recordRange (s : State) (id : Nat) : Range := (s.fld .hyd HYD.REC_BASE * 2 ^ 12 + 512 * id, 512)

/-- Write a tensor's step record. -/
def State.writeRecord (s : State) (d : RecordDue) (id : Nat) : State :=
  let e := s.hydEntry id
  let r := smGet HydRec.initial s.hyd.recs id
  let sel := (smGet none d.sel id).getD (BitVec.ofNat 4 (hCeil e), 127)
  let s1 := s.writeClean 0 .inter (s.recordRange id).1 (stepRecord e id d.valid d.index sel r)
  ({ s1 with hyd := { s1.hyd with recs := smSet HydRec.initial s1.hyd.recs id r.cleared } }).count .hyd HYD.RECORD_CNT

/-- When the records of a step end are written: 256 ns after it, or later where a timed step that has started by then has to open a
SERVICE window for them (R289, R326). -/
def State.recordTime (s : State) (d : RecordDue) : Phase := s.serviceFrom (d.at_ + 1024) ((s.hydIds hEnable).map s.recordRange)

/-- One record for every enabled tensor is written for a step end (R289). -/
def State.recordsWritten (s : State) (d : RecordDue) : State :=
  let s1 := ({ s with sch := { s.sch with recordDue := none } }).advanceTo (s.recordTime d)
  (s1.hydIds hEnable).foldl (fun s id => s.writeRecord d id) (s1.settleTaps d.at_)

/-- STEP_RECORD_WRITE: the records of the last step end (R289, R290). -/
def execStepRecordWrite (s : State) : Host.Outcome State Fault Refusal :=
  .next (match s.sch.recordDue with
    | none => s
    | some d => s.recordsWritten d)

/-- Whether a tensor's step was silent (R291). -/
def HydRec.silent (e : Reg) (r : HydRec) : Bool :=
  let n := r.slot0.elems + r.slot1.elems + r.other.elems
  let v := r.slot0.vanish + r.slot1.vanish + r.other.vanish
  r.kilnNz = 0 || (v * 1000 ≥ hSilentThr e * n && n > 0)

/-- The watchdog judges one tensor (R291). -/
def State.judgeSilent (s : State) (id : Nat) : State :=
  let e := s.hydEntry id
  let r := smGet HydRec.initial s.hyd.recs id
  let run := if r.silent e then min 65535 (r.silentRun + 1) else 0
  let alarm := r.silent e && run = hSilentN e && hSilentN e ≠ 0 && r.silentRun ≠ run
  let r1 := { r with silentRun := run, silentNow := alarm }
  let s1 := { s with hyd := { s.hyd with recs := smSet HydRec.initial s.hyd.recs id r1 } }
  if alarm then
    let s2 := s1.tally .hyd HYD.SILENT_CNT HYD.EV_SILENT_TENSOR
    if s2.fld .hyd HYD.SILENT_FIRST_VALID = 1 then s2 else
      s2.setFld .hyd HYD.SILENT_FIRST (id + 2 ^ 15 + s.fld .sch SCH.STEP_INDEX * 2 ^ 32)
  else s1

/-- The watchdog at a step end that it judges (R291): the records hold what came before the end. -/
def State.watchdog (s : State) : State :=
  let s1 := s.settleTaps s.clk.phase
  (s1.hydIds hEnable).foldl State.judgeSilent s1

/-! Snapshots and selection. -/

/-- The 256 bytes of a snapshot entry (R292). -/
def snapEntry (r : HydRec) : List Byte :=
  ((List.range 32).flatMap fun k => leBytes 4 (min (smGet 0 r.hist k) (2 ^ 31 - 1))) ++ leBytes 4 (roundUp32 r.maxAbs) ++
  fp32Bytes r.lsq ++ fp32Bytes r.osq ++ List.replicate 116 0

/-- HBM range of a tensor's snapshot entry (R292). -/
def State.snapRange (s : State) (id : Nat) : Range := (s.fld .hyd HYD.SNAP_BASE * 2 ^ 12 + 256 * id, 256)

/-- SNAPSHOT: at HYD_SNAP_TICK, an entry for each tensor with AUTO or NOISE set, all of them visible 1,000 + 16 × (entries) ns later, or
with the SERVICE windows of their controllers (R292, R326). -/
def execSnapshot (s : State) : Host.Outcome State Fault Refusal :=
  let tick := s.fld .hyd HYD.SNAP_TICK
  .next (if s.sch.regime = .none || s.hyd.snapped || tick = 0 then s
    else
      let t := s.sch.startPhase + 4 * tick
      let s1 := (s.advanceTo t).settleTaps t
      let ids := s1.hydIds fun e => hAuto e || hNoise e
      let seen := max (t + 4 * (1000 + 16 * ids.length)) (s1.serviceFrom t (ids.map s1.snapRange))
      ids.foldl (fun s id => s.writeMem 0 .inter (s.snapRange id).1 (snapEntry (smGet HydRec.initial s.hyd.recs id)) [false] seen)
        { s1 with hyd := { s1.hyd with snapped := true } })

/-- emax and msub of a candidate format (R293). -/
def candEmax (f : Nat) : Int := if f = fE4M3 then 8 else if f = fE5M2 then 15 else 127
def candMsub (f : Nat) : Int := if f = fE4M3 then -9 else if f = fE5M2 then -16 else -133

/-- Scale exponent of a candidate (R293). -/
def candScale (f : Nat) (e h : Int) : Int := if f = fBF16 then 0 else max (-127) (min 127 (e + h - candEmax f))

/-- Lower binade of a bin from 2 up (R293). -/
def binLow (hbase : Int) (k : Nat) : Int := hbase + 2 * ((k : Int) - 2)

/-- Upper binade of a bin from 2 up; bin 31 ends at that of MAXABS (R293). -/
def binHigh (hbase e : Int) (k : Nat) : Int := if k = 31 then e else binLow hbase k + 1

/-- Whether a candidate format satisfies both limits of R293. -/
def candOk (hbase e hr : Int) (h : List Nat) (f : Nat) : Bool :=
  let s := candScale f e hr
  let sum := fun (p : Nat → Bool) => ((List.range 32).map fun k => if p k then h.getD k 0 else 0).sum
  let ov := sum fun k => 2 ≤ k && binHigh hbase e k > candEmax f + s
  let va := h.getD 1 0 + sum fun k => 2 ≤ k && binLow hbase k ≤ candMsub f + s - 1
  ov * 2 ^ 20 ≤ h.sum && va * 2 ^ 10 ≤ h.sum

/-- Formats no wider than GCEIL, narrowest first (R293). -/
def candidates (gceil : Nat) : List Nat :=
  if gceil = fE4M3 then [fE4M3] else if gceil = fE5M2 then [fE4M3, fE5M2] else [fE4M3, fE5M2, fBF16]

/-- The pending selection that a reduced snapshot gives; none when the snapshot is degenerate (R293). -/
def selectFormat (e : Reg) (h : List Nat) (m : Fp) : Option (BitVec 4 × BitVec 8) :=
  match m with
  | .fin _ mm me =>
    if mm = 0 || h.sum = 0 then none else
      let ex := flog2 mm 1 + me
      let hr : Int := hHeadroom e
      let f := ((candidates (hCeil e)).find? (candOk (hBase e) ex hr h)).getD (hCeil e)
      some (BitVec.ofNat 4 f, BitVec.ofNat 8 (candScale f ex hr + 127).toNat)
  | _ => none

/-- Make a selection pending (R293, R294). -/
def State.setPending (s : State) (id : Nat) (v : Option (BitVec 4 × BitVec 8)) (read : Bool) : State :=
  { s with hyd := { s.hyd with selPending := smSet none s.hyd.selPending id v,
                               selFromRead := smSet false s.hyd.selFromRead id (read && v.isSome) } }

/-- HBM range of a tensor's reduced entry (R292, R293). -/
def State.redRange (s : State) (id : Nat) : Range := (s.fld .hyd HYD.RED_BASE * 2 ^ 12 + 256 * id, 256)

/-- The selection of one AUTO tensor from its reduced entry (R293). -/
def State.selectOne (s : State) (id : Nat) : State :=
  let r := s.readMem false 0 .inter [] (s.redRange id).1 256
  let v := leNat r.1.data
  let h := (List.range 32).map fun k => elemAt 32 v k
  match selectFormat (s.hydEntry id) h (valueOf fFP32 (elemAt 32 v 32)) with
  | none => (r.2.setPending id (some (s.selection id)) true).tally .hyd HYD.SELECT_HOLD_CNT HYD.EV_SELECT_HOLD
  | some x =>
    let s1 := r.2.setPending id (some x) true
    if x = s.selection id then s1 else s1.count .hyd HYD.SELECT_CHANGE_CNT

/-- FORMAT_SELECTION: after a valid verdict, in the SERVICE windows of the controllers (R293, R326); HYD_SNAP_TICK 0 disables it. -/
def execFormatSelection (s : State) : Host.Outcome State Fault Refusal :=
  .next (if s.sch.valid = some true && s.fld .hyd HYD.SNAP_TICK ≠ 0 && s.hyd.readDone.isNone then
      let ids := s.hydIds hAuto
      let verdict := s.sch.startPhase + 4 * (s.fld .sch SCH.LAST_DIGEST + 3000)
      let done := max (verdict + 4 * (1000 + 16 * ids.length)) (s.serviceFrom verdict (ids.map s.redRange))
      ids.foldl State.selectOne { s with hyd := { s.hyd with readDone := some done } }
    else s)

/-- SELECTION_ACTIVATE: at a step start the pending selections become active; those of a read that is not complete are
discarded (R294). -/
def State.activateSelections (s : State) (start : Phase) : State :=
  let late := match s.hyd.readDone with
    | some t => start < t
    | none => false
  let fromRead := fun id => smGet false s.hyd.selFromRead id
  let s1 := s.hyd.selPending.foldl (fun s e =>
    if late && fromRead e.1 then s
    else { s with hyd := { s.hyd with selActive := smSet none s.hyd.selActive e.1 e.2 } }) s
  let s2 := { s1 with hyd := { s1.hyd with selPending := [], selFromRead := [], readDone := none, snapped := false } }
  if late then s2.tally .hyd HYD.SELECT_LATE_CNT HYD.EV_SELECT_LATE else s2

/-! The table. -/

/-- Whether a configuration write holds a reserved value or sets what a feature or another bit forbids (R283). -/
def hydReject (feat : Nat) (e : Reg) : Bool :=
  let v := e.toNat
  (hAuto e && !bitOf feat 14) || (hNoise e && !bitOf feat 15) || (hVote e && !bitOf feat 1) || (hAuto e && hVote e) ||
    bitsOf v 15 11 ≠ 0 || bitsOf v 63 50 ≠ 0 || !(hCeil e = 1 || hCeil e = 3 || hCeil e = 4) ||
    hSilentThr e = 0 || hSilentThr e > 1000

/-- The entry that HYD_TAB_SEL selects, as HYD_TAB_DATA shows it (R299). -/
def State.hydTabData (s : State) : Reg :=
  let id := s.fld .hyd HYD.TAB_SEL_INDEX
  let sel := fun (x : Option (BitVec 4 × BitVec 8)) => match x with
    | some f => BitVec.ofNat 64 (f.1.toNat + f.2.toNat * 2 ^ 8 + 2 ^ 16)
    | none => 0
  match s.fld .hyd HYD.TAB_SEL_TABLE with
  | 0 => s.hydEntry id
  | 1 => if hAuto (s.hydEntry id) then sel (some (s.selection id)) else sel (smGet none s.hyd.selActive id)
  | 2 => sel (smGet none s.hyd.selPending id)
  | _ => 0

/-- Store a configuration entry; a tensor whose AUTO becomes set starts from (GCEIL, 127) (R294). -/
def State.setHydEntry (s : State) (id : Nat) (e : Reg) : State :=
  let fresh := hAuto e && !hAuto (s.hydEntry id)
  { s with hyd := { s.hyd with
      config := smSet hydResetEntry s.hyd.config id e,
      selActive := if fresh then smSet none s.hyd.selActive id (some (BitVec.ofNat 4 (hCeil e), 127)) else s.hyd.selActive } }

/-- A write to HYD_TAB_DATA: a configuration entry, or a pending selection (R282, R283, R294, R299). -/
def hydTabStore (w : RegW) (s : State) : State :=
  if !s.reaches .hyd then s else
    let id := s.fld .hyd HYD.TAB_SEL_INDEX
    let v := mergeBits s.hydTabData.toNat (wData w) (Half.mask w.half)
    match s.fld .hyd HYD.TAB_SEL_TABLE with
    | 0 =>
      if s.locked then s.lockWrite .hyd HYD.TAB_DATA.off
      else if hydReject (s.fld .glb GLB.FEAT_ACTIVE) (BitVec.ofNat 64 v) then
        s.tally .hyd HYD.TABLE_REJECT_CNT HYD.EV_TABLE_REJECT
      else s.setHydEntry id (BitVec.ofNat 64 v)
    | 2 => s.setPending id (if bitOf v 16 then some (BitVec.ofNat 4 (v % 16), BitVec.ofNat 8 (bitsOf v 15 8)) else none) false
    | _ => s

/-- HYD_TAB_WRITE (R283, R294). -/
def execHydTabWrite (w : RegW) (s : State) : Host.Outcome State Fault Refusal := .next (hydTabStore w s)

end Sys2Proof.Machine
end

