-- ==== Sys2Proof/Machine/Arrays.lean ====
section
/-! DEFINITION. The tensor array of a tile: loads, streams and drains (R97 to R123). -/
namespace Sys2Proof.Machine

/-! Operand classes. -/

/-- Term count of an operand format (R98); none for a format that is no array operand. -/
def termCount : Nat → Option Nat
  | 1 => some 2 | 2 => some 2 | 3 => some 4 | 4 => some 4 | 5 => some 4 | 6 => some 4 | 7 => some 8 | 8 => some 4 | 9 => some 8
  | _ => none

/-- Whether a format and composition may be an array operand (R84, R98). -/
def operandOk (f sc : Nat) : Bool := (termCount f).isSome && scalingOk sc f

/-- Whether an element code has the value zero (R127). -/
def codeZero (f code : Nat) : Bool := (valueOf f code).isZero

/-- Ranks of R139: NaN above infinities above finite magnitudes; ties to the lower place. -/
def outranks (a b : Fp) : Bool :=
  if a.isNan then !b.isNan else if b.isNan then false
  else if a.isInf then !b.isInf else b.abs.lt a.abs

/-! Descriptor fields (R118). -/
def aType (d : BitVec 512) : Nat := dBits d 3 0
def aFmt (d : BitVec 512) : Nat := dBits d 7 4
def aScaling (d : BitVec 512) : Nat := dBits d 9 8
def aTranspose (d : BitVec 512) : Bool := dBit d 10
def aSparse (d : BitVec 512) : Bool := dBit d 11
def aTp24 (d : BitVec 512) : Bool := dBit d 12
def aPres (d : BitVec 512) : Bool := dBit d 13
def aAddr (d : BitVec 512) : Nat := dBits d 37 16
def aScaleAddr (d : BitVec 512) : Nat := dBits d 59 38
def aMetaAddr (d : BitVec 512) : Nat := dBits d 85 64
def aRowStride (d : BitVec 512) : Nat := dBits d 115 96
def aScaleStride (d : BitVec 512) : Nat := dBits d 147 128
def aMetaStride (d : BitVec 512) : Nat := dBits d 179 160
def aTs (d : BitVec 512) : Fp := dF32 d 192
def aOutScale (d : BitVec 512) : Fp := dF32 d 224
def aVcntBase (d : BitVec 512) : Nat := dBits d 271 256
def aHydId (d : BitVec 512) : Nat := dBits d 283 272
def aCols (d : BitVec 512) : Nat := if dBits d 293 288 = 0 then 64 else dBits d 293 288

/-- How the elements of a descriptor are formed; arrays convert with its MODE and SCALE_RULE (R116). -/
def aSpec (d : BitVec 512) : ConvSpec :=
  { fmt := aFmt d, scaling := aScaling d, sat := dBit d 14, fit := dBit d 15, ts := aTs d }

/-- Bits that every array descriptor leaves 0 (R118). -/
def aReservedAll : Nat :=
  15 * 2 ^ 60 + (2 ^ 10 - 1) * 2 ^ 86 + (2 ^ 12 - 1) * 2 ^ 116 + (2 ^ 12 - 1) * 2 ^ 148 + (2 ^ 12 - 1) * 2 ^ 180 +
    15 * 2 ^ 284 + (2 ^ 218 - 1) * 2 ^ 294

/-- Fields that a LOAD, a STREAM and a DRAIN leave 0, as they do not read them (R118). -/
def aReservedLoad : Nat := aReservedAll + 7 * 2 ^ 13 + (2 ^ 60 - 1) * 2 ^ 224 + 63 * 2 ^ 288
def aReservedStream : Nat :=
  aReservedAll + 7 * 2 ^ 10 + 3 * 2 ^ 14 + (2 ^ 20 - 1) * 2 ^ 160 + (2 ^ 32 - 1) * 2 ^ 224 + (2 ^ 12 - 1) * 2 ^ 272 + 63 * 2 ^ 288
def aReservedDrain : Nat :=
  aReservedAll + 15 * 2 ^ 10 + (2 ^ 22 - 1) * 2 ^ 64 + (2 ^ 20 - 1) * 2 ^ 160 + (2 ^ 16 - 1) * 2 ^ 256

/-- Whether a region lies in the tile's scratchpad (R119). -/
def inSpad (r : Range) : Bool := r.2 = 0 || r.1 + r.2 ≤ spadSize

/-- Rows of bytes: `n` rows of `len` bytes from `a` at a stride. -/
def rowRanges (a stride n len : Nat) : List Range :=
  if len = 0 then [] else (List.range n).map fun i => (a + i * stride, len)

/-- Two lines of one bank among the reads of one VCLK cycle (R185). -/
def portClash (rs : List Range) : Bool :=
  let ls := (rs.flatMap fun r => granules 256 r.1 r.2).eraseDups
  let bs := ls.map fun l => bankOf (l * 256)
  bs.eraseDups.length ≠ bs.length

/-- Group the reads of successive ACLK cycles by VCLK cycle; `odd` when the first ACLK cycle is the second of its VCLK cycle. -/
def byVclk (odd : Bool) (rs : List (List Range)) : List (List Range) :=
  let rest := fun (l : List (List Range)) => (chunks 2 l).map List.flatten
  if odd then rs.take 1 ++ rest (rs.drop 1) else rest rs

/-- Whether the first ACLK cycle of an issue is the second of its VCLK cycle; an untimed issue takes the first (log 22). -/
def State.oddCycle (s : State) (i : TileIssue) : Bool :=
  s.sch.regime = .timed && issueStamp i.word / Unit_.period .arrStream (s.zonePoint (zoneOf i.tile.val)) % 2 = 1

/-! Conflicts of the loader with the activation reads (R101). -/

/-- The banks of ranges as a word. -/
def bankMask (rs : List Range) : BitVec 16 := (banksOf rs).foldl (fun (m : BitVec 16) b => m ||| BitVec.ofNat 16 (2 ^ b)) 0

/-- The banks that a stream reads in a VCLK cycle of the tile, `per` phases long. -/
def ActRead.inCycle (x : ActRead) (per c : Nat) : BitVec 16 := if c < x.at_ / per then 0 else x.banks.getD (c - x.at_ / per) 0

/-- VCLK cycles that a loader loses from cycle `c` on: a read that meets an activation read of its bank goes into the next cycle, and
every later one with it (R101, R187); `fuel` is at least the number of cycles that it takes. -/
def loaderLosses (busy : Nat → BitVec 16) : Nat → Nat → List (BitVec 16) → Nat
  | 0, _, _ => 0
  | _, _, [] => 0
  | fuel + 1, c, m :: rest =>
    let lost := m &&& busy c
    if lost = 0 then loaderLosses busy fuel (c + 1) rest else loaderLosses busy fuel (c + 1) (lost :: rest) + 1

/-- VCLK cycles that reads from a time on lose to the streams so far. -/
def ArrSt.losses (a : ArrSt) (per : Nat) (reads : List (BitVec 16)) (from_ : Phase) : Nat :=
  loaderLosses (fun c => a.acts.foldl (fun (m : BitVec 16) x => m ||| x.inCycle per c) 0)
    (reads.length + (a.acts.map fun x => x.banks.length).sum) (from_ / per) reads

/-! Loads. -/

/-- Source rows of a load, elements in each, and source rows read in each of its 64 ACLK cycles (R97, R102, R111, R113; log 22). -/
def loadShape (n : Nat) (transpose sparse : Bool) : Nat × Nat × Nat :=
  match transpose, sparse with
  | false, false => (64 * n, 64, n)
  | true, false => (64, 64 * n, 1)
  | true, true => (64, 64 * n, 1)
  | false, true => (128 * n, 32, 2 * n)

/-- Dense positions along a stored row: twice the kept values of a 2:4 row (R111). -/
def densePos (sparse : Bool) (elems : Nat) : Nat := if sparse then 2 * elems else elems

/-- Everything that ties a load to its descriptor. -/
structure LoadShape where
  n : Nat
  rows : Nat
  elems : Nat
  perCycle : Nat
  elemRows : List Range
  scaleRows : List Range
  metaRows : List Range
deriving DecidableEq, Repr

/-- The ranges that a load's source rows take. -/
def loadRanges (d : BitVec 512) : LoadShape :=
  let n := (termCount (aFmt d)).getD 0
  let sh := loadShape n (aTranspose d) (aSparse d)
  let dense := densePos (aSparse d) sh.2.1
  { n := n, rows := sh.1, elems := sh.2.1, perCycle := sh.2.2,
    elemRows := rowRanges (aAddr d) (aRowStride d) sh.1 (packedBytes (aFmt d) sh.2.1),
    scaleRows := rowRanges (aScaleAddr d) (aScaleStride d) sh.1 (scaleBytes (aScaling d) dense),
    metaRows := if aSparse d then rowRanges (aMetaAddr d) (aMetaStride d) sh.1 (ceilDiv sh.2.1 4) else [] }

/-- All ranges of a load. -/
def LoadShape.all (l : LoadShape) : List Range := l.elemRows ++ l.scaleRows ++ l.metaRows

/-- Reads of each ACLK cycle of a load. -/
def LoadShape.cycles (l : LoadShape) : List (List Range) :=
  (List.range 64).map fun j =>
    let part := fun (rs : List Range) => (rs.drop (j * l.perCycle)).take l.perCycle
    part l.elemRows ++ part l.scaleRows ++ part l.metaRows

/-- Grounds for MALFORMED of a load (R113, R117 to R119, R185). -/
def loadBad (feat : Nat) (odd : Bool) (w : Issue) (d : BitVec 512) : Bool :=
  let l := loadRanges d
  aType d ≠ 1 || d.toNat &&& aReservedLoad ≠ 0 || !operandOk (aFmt d) (aScaling d) ||
    (aSparse d && !aTranspose d && !aTp24 d) || (aTp24 d && !bitOf feat 3) ||
    w.epoch || w.vcnt || w.vsrc ≠ 0 || w.arg0 ≠ 0 || w.arg1 ≠ 0 || w.arg2 ≠ 0 || w.uspec ≠ 0 ||
    aAddr d % 64 ≠ 0 || aRowStride d % 64 ≠ 0 || aMetaAddr d % 64 ≠ 0 || aMetaStride d % 16 ≠ 0 ||
    l.all.any (fun r => !inSpad r) || (byVclk odd l.cycles).any portClash

/-- A stored row of a load: element codes, their values, and their 2-bit codes. -/
structure SrcRow where
  codes : List Nat
  vals : List Fp
  places : List Nat
deriving DecidableEq, Repr

/-- Read one source row; a 2:4 row's scales are indexed by dense position (R111). -/
def State.srcRow (s : State) (t : Fin 128) (d : BitVec 512) (l : LoadShape) (k : Nat) : SrcRow :=
  let codes := unpack (aFmt d) l.elems (s.spadRead t (l.elemRows.getD k (0, 0)))
  let scales := (s.spadRead t (l.scaleRows.getD k (0, 0))).map BitVec.toNat
  let places := if aSparse d then
      let m := leNat (s.spadRead t (l.metaRows.getD k (0, 0)))
      (List.range l.elems).map fun i => elemAt 2 m i
    else []
  let posOf := fun i => if aSparse d then 4 * (i / 2) + places.getD i 0 else i
  let vals := codes.zipIdx.map fun ci =>
    elemValue (aScaling d) (aFmt d) (aTs d) (scales.getD (posOf ci.2 / blockLen (aScaling d)) 0) ci.1
  ⟨codes, vals, places⟩

/-- An entry of a group of a 2:4 row: its dense position, whether its code is zero, and its value. -/
structure Kept where
  pos : Nat
  zero : Bool
  val : Fp
deriving DecidableEq, Repr

/-- The kept entries of one group of a 2:4 row, and whether a duplicate code dropped one: a zero kept value is a filler and
takes no position (R112, R113; DEDUCED, log 81). -/
def resolvePair (a b : Kept) : List Kept × Bool :=
  match a.zero, b.zero with
  | true, true => ([], false)
  | true, false => ([b], false)
  | false, true => ([a], false)
  | false, false => if a.pos = b.pos then ([a], true) else ([a, b], false)

/-- The kept entries of a 2:4 row, with the number of duplicates dropped (R111, R112). -/
def keptRow (f : Nat) (r : SrcRow) : List Kept × Nat :=
  let ks := (List.zip r.codes (List.zip r.vals r.places)).zipIdx.map fun x =>
    (⟨4 * (x.2 / 2) + x.1.2.2, codeZero f x.1.1, x.1.2.1⟩ : Kept)
  (chunks 2 ks).foldl (fun acc p =>
    match p with
    | [a, b] => let q := resolvePair a b; (acc.1 ++ q.1, acc.2 + q.2.toNat)
    | _ => acc) ([], 0)

/-- The two entries that a column of a 4 × 4 block keeps out of its non-zero ones, given as (stored row, value), lowest row
first; more than two leave the two that rank highest (R113, R114). -/
def keepTwo (es : List (Nat × Fp)) : List (Nat × Fp) :=
  if es.length ≤ 2 then es else
    let beats := fun (x : Nat × Fp) => (es.filter fun y => outranks y.2 x.2 || (!outranks x.2 y.2 && y.1 < x.1)).length
    es.filter fun x => beats x < 2

/-- A column padded with zeros at its lowest unused positions (R113). -/
def padTwo (es : List (Nat × Fp)) : List (Nat × Fp) :=
  let free := (List.range 4).filter fun p => !es.any fun e => e.1 = p
  es ++ (free.take (2 - es.length)).map fun p => (p, fpZero)

/-- What a load puts into a block: the entries of each column by reduction position, dropped duplicates, regrouped blocks. -/
structure Loaded where
  cols : List (List (Nat × Fp))
  dups : Nat
  viols : Nat
deriving DecidableEq, Repr

/-- Insert an entry in order of position. -/
def insertPos (e : Nat × Fp) : List (Nat × Fp) → List (Nat × Fp)
  | [] => [e]
  | x :: t => if e.1 < x.1 then e :: x :: t else x :: insertPos e t

/-- One 4 × 4 block of a transposable tensor regrouped by column: `rows` are the kept entries of its four stored rows (R113, R114). -/
def regroup (base c0 : Nat) (rows : List (List Kept)) : List (List (Nat × Fp)) × Bool :=
  let col := fun c => (rows.zipIdx).flatMap fun r =>
    (r.1.filter fun k => k.pos = c0 + c).map fun k => (r.2, k.val)
  let cols := (List.range 4).map col
  (cols.map fun es => (padTwo (keepTwo es)).foldr (fun e l => insertPos (base + e.1, e.2) l) [],
    cols.any fun es => es.length > 2)

/-- The block that a load reads (R102, R111 to R114). -/
def State.loadBlock (s : State) (t : Fin 128) (d : BitVec 512) : Loaded :=
  let l := loadRanges d
  let rows := (List.range l.rows).map fun k => s.srcRow t d l k
  match aTranspose d, aSparse d with
  | false, false =>
    ⟨(List.range 64).map fun c => rows.zipIdx.map fun r => (r.2, r.1.vals.getD c fpZero), 0, 0⟩
  | true, false => ⟨rows.map fun r => r.vals.zipIdx.map fun v => (v.2, v.1), 0, 0⟩
  | true, true =>
    let ks := rows.map (keptRow (aFmt d))
    ⟨ks.map fun k => k.1.foldr (fun e l => insertPos (e.pos, e.val) l) [], (ks.map Prod.snd).sum, 0⟩
  | false, true =>
    let ks := rows.map (keptRow (aFmt d))
    let blocks := (chunks 4 (ks.map Prod.fst)).zipIdx.map fun g =>
      (List.range 16).map fun q => regroup (4 * g.2) (4 * q) g.1
    let cols := (List.range 64).map fun c => blocks.flatMap fun b => ((b.getD (c / 4) ([], false)).1).getD (c % 4) []
    ⟨cols, (ks.map Prod.snd).sum, (blocks.map fun b => b.countP Prod.snd).sum⟩

/-- The stationary buffers of a tile. -/
def State.arr (s : State) (t : Fin 128) : ArrSt := smGet ArrSt.initial s.tiles.arr t.val

/-- Replace the stationary buffers of a tile. -/
def State.setArr (s : State) (t : Fin 128) (a : ArrSt) : State :=
  { s with tiles := { s.tiles with arr := smSet ArrSt.initial s.tiles.arr t.val a } }

/-- ACLK period of a tile in phases. -/
def State.aclk (s : State) (t : Fin 128) : Nat := Unit_.period .arrLoad (s.zonePoint (zoneOf t.val))

/-- VCLK period of a tile in phases. -/
def State.vclk (s : State) (t : Fin 128) : Nat := Unit_.period .vec (s.zonePoint (zoneOf t.val))

/-- A load that met a block no SWAP stream took by L + 8: the load is suppressed and the shadow keeps the earlier block, marked
POISON (R100). -/
def shadowCollide (t : Fin 128) (s : State) : State :=
  let a := s.arr t
  match a.held, a.incoming with
  | some h, some b =>
    if s.sch.regime = .timed && s.clk.phase > b.issuedAt + 8 * s.aclk t then
      let i : TileIssue := ⟨t, b.stream, ⟨0, BitVec.ofNat 32 ((b.issuedAt - s.sch.startPhase) / 4), b.desc, 0, 0, 0, 0, 0, false,
        false, false, 0, false, false, none⟩, 0⟩
      (((s.setArr t { a with held := some { h with poison := true }, incoming := none }).raise (.tarr t)
        TARR.EV_SHADOW_COLLISION).tileFault i .arrLoad .unitCollision).poisonOut i
    else s
  | _, _ => s

/-- SHADOW_COLLISION (R100). -/
def execShadowCollision (t : Fin 128) (s : State) : Host.Outcome State Fault Refusal := .next (shadowCollide t s)

/-- The block that a SWAP stream would take from the shadow. -/
def ArrSt.candidate (a : ArrSt) : Option Block := match a.held with | some b => some b | none => a.incoming

/-- The banks that a load reads in each VCLK cycle. -/
def State.loadReads (s : State) (i : TileIssue) (d : BitVec 512) : List (BitVec 16) :=
  (byVclk (s.oddCycle i) (loadRanges d).cycles).map bankMask

/-- VCLK cycles that a load issued at a time loses to the streams so far (R101). -/
def State.loadLoss (s : State) (i : TileIssue) (d : BitVec 512) (at_ : Phase) : Nat :=
  (s.arr i.tile).losses (s.vclk i.tile) (s.loadReads i d) at_

/-- A stream has issued: a load in progress loses the cycles that its reads take from it, and all that follows comes later (R101, R187). -/
def State.delayLoad (s : State) (t : Fin 128) : State :=
  let a := s.arr t
  match a.incoming with
  | none => s
  | some b =>
    let per := s.vclk t
    let n := a.losses per b.reads b.issuedAt
    let more := n - b.lost
    if more = 0 then s
    else
      let s1 := s.setArr t { a with incoming := some { b with lost := n, fullAt := b.fullAt + more * per } }
      let s2 := (s1.countN (.tarr t) TARR.LOAD_LOSS_CNT more).countN (.tspd t) (TSPD.LOSS_CNT (Rank.arrayRead.num - 1)) more
      (s2.occupy t.val .arrLoad (s.busyTill t.val .arrLoad + more * per)).markPending [.shadow t.val]
        (b.issuedAt + 72 * s.aclk t + n * per)

/-- What ARR_LOAD does at issue; a load whose shadow is still held counts when a SWAP stream takes the earlier block, and what it
counts of its rows it counts now, also where it is suppressed later (R99, R100, R112, R114, R125; DESIGN CHOICE, log 84). -/
def loadRun (i : TileIssue) (d : BitVec 512) (at_ : Phase) (poison : Bool) (s : State) : State :=
  let p : Page := .tarr i.tile
  let x := s.loadBlock i.tile d
  let a := s.arr i.tile
  let loss := s.loadLoss i d at_
  let full := at_ + 72 * s.aclk i.tile + loss * s.vclk i.tile
  let b : Block := { desc := i.word.desc, stream := i.stream, fmt := BitVec.ofNat 4 (aFmt d), sparse := aSparse d,
                     terms := (termCount (aFmt d)).getD 0, poison := poison, fullAt := full, issuedAt := at_, cols := x.cols,
                     reads := s.loadReads i d, lost := loss }
  let a1 : ArrSt := { a with held := match a.held with | some h => some h | none => a.incoming, incoming := some b }
  let s1 := ((((s.setArr i.tile a1).countN p TARR.LOAD_CNT (a.candidate.isNone).toNat).countN p TARR.LOAD_LOSS_CNT loss).tallyN p
    TARR.DUP_INDEX_CNT x.dups TARR.EV_DUP_INDEX).tallyN p TARR.TP24_VIOL_CNT x.viols TARR.EV_TP24_VIOLATION
  if poison then s1.poisonOut i else s1

/-- A load whose destination is marked POISON: the block in the shadow; an EMPTY shadow has none to mark (R70, R119; DESIGN CHOICE, log
84). -/
def markShadow (t : Fin 128) (s : State) : State :=
  let a := s.arr t
  s.setArr t { a with held := a.held.map fun b => { b with poison := true },
                      incoming := a.incoming.map fun b => { b with poison := true } }

/-- The plan of a load (R66). -/
def loadPlan (i : TileIssue) (d : BitVec 512) (s : State) : Plan :=
  { bad := loadBad (s.fld .glb GLB.FEAT_ACTIVE) (s.oddCycle i) i.word d, decodes := aType d = 1, reads := (loadRanges d).all, writes := [], regsIn := [],
    regsOut := [.shadow i.tile.val], waitTill := 0, hbm := [], occ := 64 * s.aclk i.tile, result := 72 * s.aclk i.tile,
    rank := .arrayRead, lost := some (s.loadLoss i d) }

/-- An untimed load waits for room in the shadow: a third block has none (R123). -/
def loadWaits (t : Fin 128) (_ : Phase) (s : State) : Bool :=
  s.sch.regime = .untimed && (s.arr t).held.isSome && (s.arr t).incoming.isSome

/-- ARR_LOAD as the array issues it. -/
def loadJob (i : TileIssue) (d : BitVec 512) (s : State) : Job :=
  ⟨.arrLoad, 0, 0, loadPlan i d s, ⟨loadWaits i.tile, fun _ _ => false, id, markShadow i.tile, loadRun i d⟩⟩

/-- The state in which a tile's array meets an instruction due at a time in a timed step: a load that found no room by then has
been suppressed (R100). -/
def State.arrayAt (s : State) (t : Fin 128) (at_ : Phase) : State :=
  if s.sch.regime = .timed then shadowCollide t (s.advanceTo at_) else s

/-- ARR_LOAD (R99 to R102, R111 to R114, R117 to R119). -/
def execArrLoad (i : TileIssue) (s0 : State) : Host.Outcome State Fault Refusal :=
  let d := s0.descriptor i.tile.val i.word.desc
  let s := s0.arrayAt i.tile (s0.sch.startPhase + issueStamp i.word)
  .next (issueJob i (loadJob i d s) s)

/-! Streams. -/

/-- The shadow block that is FULL at a time. -/
def ArrSt.ready (a : ArrSt) (t : Phase) : Option Block := a.candidate.bind fun b => if b.fullAt ≤ t then some b else none

/-- The buffers after a SWAP stream has taken the block; an untimed load that waited for it now completes (R99, R123). -/
def ArrSt.swap (a : ArrSt) (b : Block) (untimed : Bool) (t row : Nat) : ArrSt :=
  match a.held with
  | some _ =>
    { a with
      active := some b
      held := none
      incoming := a.incoming.map fun x => if untimed then { x with fullAt := max x.fullAt (t + 64 * row) } else x }
  | none => { a with active := some b, held := none, incoming := none }

/-- USPEC of a stream (R117). -/
def swapBit (w : Issue) : Bool := w.uspec.getLsbD 0
def accumBit (w : Issue) : Bool := w.uspec.getLsbD 1

/-- ROWS and ACC_ROW (R117). -/
def rowsArg (w : Issue) : Nat := bitsOf w.arg2.toNat 10 0
def accArg (w : Issue) : Nat := bitsOf w.arg1.toNat 10 0

/-- Whether rows of the accumulator lie within one half (R105). -/
def halfOk (w : Issue) : Bool :=
  let a := accArg w
  let n := rowsArg w
  1 ≤ n && n ≤ 1024 && a + n ≤ 2048 && a / 1024 = (a + n - 1) / 1024

/-- The half of the accumulator that an instruction uses: B from row 1,024 (R105). -/
def halfB (w : Issue) : Bool := accArg w ≥ 1024

/-- The block that a stream multiplies with at a time: the one it takes, or the active one. -/
def streamBlock (w : Issue) (a : ArrSt) (t : Phase) : Option Block :=
  if swapBit w then (match a.ready t with | some b => some b | none => a.active) else a.active

/-- Activation elements of a row against a block (R97, R111). -/
def actElems (f : Nat) (sparse : Bool) : Nat := (if sparse then 128 else 64) * (termCount f).getD 0

/-- Which rows of a stream are gated (R104). -/
def State.gatedRows (s : State) (i : TileIssue) (d : BitVec 512) : List Bool :=
  let valid := s.validCount i.tile i.word
  let pres := leNat (if aPres d then s.spadRead i.tile (aMetaAddr d, ceilDiv (rowsArg i.word) 8) else [])
  (List.range (rowsArg i.word)).map fun r =>
    (i.word.vcnt && aVcntBase d + r ≥ valid) || (aPres d && !bitOf pres r)

/-- Rows that a stream's occupancy counts: all of them when timed; fewer when untimed rows are absent (R148). -/
def State.streamRows (s : State) (i : TileIssue) (d : BitVec 512) : Nat :=
  let n := rowsArg i.word
  let pres := leNat (if aPres d then s.spadRead i.tile (aMetaAddr d, ceilDiv n 8) else [])
  let byPres := if aPres d then max (popcount n pres) (ceilDiv n 16) else n
  let bySlot := if i.word.vcnt && i.word.vsrc = 2 then
      max (s.validCount i.tile i.word) (s.fld (.tmil i.tile) (TMIL.SLOT_MIN_ROWS (i.word.arg0.toNat - 0xFFF0))) else n
  if s.sch.regime = .untimed then min n (min byPres bySlot) else n

/-- The ranges of an activation row. -/
def actRow (d : BitVec 512) (sparse : Bool) (r : Nat) : List Range :=
  let n := actElems (aFmt d) sparse
  let sb := scaleBytes (aScaling d) n
  (aAddr d + r * aRowStride d, packedBytes (aFmt d) n) ::
    (if sb = 0 then [] else [(aScaleAddr d + r * aScaleStride d, sb)])

/-- The range of the row-presence bitmap. -/
def presRange (w : Issue) (d : BitVec 512) : List Range := if aPres d then [(aMetaAddr d, ceilDiv (rowsArg w) 8)] else []

/-- Grounds for MALFORMED of a stream (R98, R105, R117 to R119, R185, R349). -/
def streamBad (feat : Nat) (timed odd : Bool) (w : Issue) (d : BitVec 512) (b : Option Block) : Bool :=
  let sparse := (b.map Block.sparse).getD false
  let rows := (List.range (rowsArg w)).map (actRow d sparse)
  let bits := fun (r : Nat) => if aPres d then [(aMetaAddr d + r / 8, 1)] else []
  aType d ≠ 2 || d.toNat &&& aReservedStream ≠ 0 || !operandOk (aFmt d) (aScaling d) ||
    (match b with | some b => b.terms ≠ (termCount (aFmt d)).getD 0 | none => false) ||
    w.epoch || w.arg1.toNat ≥ 2048 || w.arg2.toNat ≥ 2048 || w.uspec.toNat ≥ 4 || (!w.vcnt && w.arg0 ≠ 0) || !halfOk w ||
    (timed && !bitOf feat 4 && (aPres d || (w.vcnt && w.vsrc = 2))) ||
    aAddr d % 64 ≠ 0 || aRowStride d % 64 ≠ 0 || aMetaAddr d % 64 ≠ 0 ||
    (rows.flatten ++ presRange w d).any (fun r => !inSpad r) ||
    (byVclk odd (rows.zipIdx.map fun r => r.1 ++ bits r.2)).any portClash

/-- One array cell: the partial sum with its products, rounded once, and whether it overflowed or made a NaN (R108, R110). -/
structure CellOut where
  sum : W32
  ovf : Nat
  nans : Nat
deriving DecidableEq, Repr

/-- An exact sum of terms rounded to FP32, with the events of R110. -/
def addRound (acc : CellOut) (terms : List Fp) : CellOut :=
  let e := fpSum (f32 acc.sum :: terms)
  let r := rne32 e
  ⟨r, acc.ovf + (e.isFin && (f32 r).isInf).toNat,
    acc.nans + (e.isNan && !(f32 acc.sum :: terms).any Fp.isNan).toNat⟩

/-- The column result of one activation row: cells from north to south, each over `span` reduction positions (R108). -/
def columnOut (x : Array Fp) (span : Nat) (col : List (Nat × Fp)) : CellOut :=
  let ps := col.map fun e =>
    let a := x.getD e.1 fpZero
    let p := a.mul e.2
    (e.1 / span, p, p.isNan && !a.isNan && !e.2.isNan)
  let start : CellOut := ⟨0x8000_0000#32, 0, ps.countP fun p => p.2.2⟩
  (List.range 64).foldl (fun acc r => addRound acc ((ps.filter fun p => p.1 = r).map fun p => p.2.1)) start

/-- A row against a block: 64 column results; an EMPTY buffer gives +0 stationary terms (R100, R108). -/
def rowOut (n : Nat) (b : Option Block) (x : List Fp) : List CellOut :=
  let xa := x.toArray
  match b with
  | some b => b.cols.map (columnOut xa (if b.sparse then 2 * n else n))
  | none =>
    let zero := (List.range (64 * n)).map fun k => (k, fpZero)
    List.replicate 64 (columnOut xa n zero)

/-- Put column results into an accumulator row (R109). -/
def accInto (accum : Bool) (old : AccRow) (cs : List CellOut) : List CellOut :=
  if accum then (List.zip old.vals cs).map fun oc => addRound { oc.2 with sum := oc.1 } [f32 oc.2.sum]
  else cs

/-- Key of an accumulator row. -/
def accKey (t : Fin 128) (r : Nat) : Nat := t.val * 2048 + r

/-- An accumulator row. -/
def State.accRow (s : State) (t : Fin 128) (r : Nat) : AccRow := smGet AccRow.initial s.tiles.acc (accKey t r)

/-- Store an accumulator row. -/
def State.setAccRow (s : State) (t : Fin 128) (r : Nat) (v : AccRow) : State :=
  { s with tiles := { s.tiles with acc := smSet AccRow.initial s.tiles.acc (accKey t r) v } }

/-- Mark the accumulator rows of an instruction POISON (R106). -/
def markAcc (i : TileIssue) (s : State) : State :=
  (List.range (rowsArg i.word)).foldl (fun s r =>
    s.setAccRow i.tile (accArg i.word + r) { s.accRow i.tile (accArg i.word + r) with poison := true }) s

/-- Read an activation row as values. -/
def State.actVals (s : State) (t : Fin 128) (d : BitVec 512) (sparse : Bool) (r : Nat) : List Fp :=
  let n := actElems (aFmt d) sparse
  let rs := actRow d sparse r
  decRow (aSpec d) (unpack (aFmt d) n (s.spadRead t (rs.getD 0 (0, 0)))) ((s.spadRead t (rs.getD 1 (0, 0))).map BitVec.toNat)

/-- One row of a stream (R103, R104, R108 to R110). -/
def streamRow (i : TileIssue) (d : BitVec 512) (b : Option Block) (poison gated : Bool) (r : Nat) (s : State) : State :=
  let row := accArg i.word + r
  let p : Page := .tarr i.tile
  if gated then
    let s1 := s.count p TARR.ROWS_GATED_CNT
    if accumBit i.word then s1 else s1.setAccRow i.tile row { AccRow.initial with poison := poison }
  else
    let old := s.accRow i.tile row
    let x := s.actVals i.tile d ((b.map Block.sparse).getD false) r
    let cs := accInto (accumBit i.word) old (rowOut ((termCount (aFmt d)).getD 0) b x)
    (((s.setAccRow i.tile row ⟨cs.map CellOut.sum, poison⟩).count p TARR.ROWS_CNT).tallyN p TARR.ACC_OVERFLOW_CNT
      (cs.map CellOut.ovf).sum TARR.EV_ACC_OVERFLOW).tallyN p TARR.NAN_GEN_CNT (cs.map CellOut.nans).sum TARR.EV_NAN_GENERATED

/-- The reads of a stream in each ACLK cycle: the rows in turn, of which absent ones take no cycle in an untimed step (R103, R104, R148). -/
def actCycles (d : BitVec 512) (sparse timed : Bool) (gates : List Bool) : List (List Range) :=
  let bits := fun (r : Nat) => if aPres d then [(aMetaAddr d + r / 8, 1)] else []
  (gates.zipIdx.filter fun g => timed || !g.1).map fun g => (if g.1 then [] else actRow d sparse g.2) ++ bits g.2

/-- The array reads its activations from a time on, which delays a load in progress; reads that have ended are dropped (R101). -/
def State.actReads (s : State) (i : TileIssue) (at_ : Phase) (cycles : List (List Range)) : State :=
  let a := s.arr i.tile
  let per := s.vclk i.tile
  let live := a.acts.filter fun x => at_ < x.at_ + x.banks.length * per
  (s.setArr i.tile { a with acts := live ++ [⟨at_, (byVclk (s.oddCycle i) cycles).map bankMask⟩] }).delayLoad i.tile

/-- What ARR_STREAM does at issue (R99, R100, R101, R103, R104). -/
def streamRun (i : TileIssue) (d : BitVec 512) (at_ : Phase) (poison : Bool) (s : State) : State :=
  let a := s.arr i.tile
  let b := streamBlock i.word a at_
  let taken := swapBit i.word && (a.ready at_).isSome
  let s1 := match taken, a.ready at_ with
    | true, some x => (s.setArr i.tile (a.swap x (s.sch.regime == Regime.untimed) at_ (s.aclk i.tile))).countN (.tarr i.tile)
        TARR.LOAD_CNT (a.held.isSome && a.incoming.isSome).toNat
    | _, _ => s
  let gates := s.gatedRows i d
  let cycles := actCycles d ((b.map Block.sparse).getD false) (s.sch.regime = .timed) gates
  let accBad := accumBit i.word && gates.zipIdx.any fun g => !g.1 && (s.accRow i.tile (accArg i.word + g.2)).poison
  let bad := poison || (b.map Block.poison).getD false || accBad
  let s2 := ((s1.actReads i at_ cycles).count (.tarr i.tile) TARR.STREAM_CNT).countN (.tarr i.tile) TARR.BUSY_CNT (s.streamRows i d)
  let s3 := gates.zipIdx.foldl (fun s g => streamRow i d b bad g.1 g.2 s) s2
  if bad then s3.poisonOut i else s3

/-- A stream's own conditions: SWAP without a FULL shadow, or no active block (R100, R123). -/
def streamNotReady (i : TileIssue) (t : Phase) (s : State) : Bool :=
  let a := s.arr i.tile
  if swapBit i.word then (a.ready t).isNone else a.active.isNone

/-- Time at which the last drain of a half ends its occupancy. -/
def State.drainEnd (s : State) (t : Fin 128) (b : Bool) : Phase := smGet 0 s.tiles.drainEnd (2 * t.val + b.toNat)

/-- A stream whose first accumulator write falls before a drain of its half ends (R106). -/
def streamCollides (i : TileIssue) (t : Phase) (s : State) : Bool :=
  t + 136 * s.aclk i.tile < s.drainEnd i.tile (halfB i.word)

/-- The plan of a stream (R66, R104). -/
def streamPlan (i : TileIssue) (d : BitVec 512) (t : Phase) (s : State) : Plan :=
  let a := s.arr i.tile
  let b := streamBlock i.word a t
  let sparse := (b.map Block.sparse).getD false
  let gates := s.gatedRows i d
  let rows := gates.zipIdx.flatMap fun g => if g.1 then [] else actRow d sparse g.2
  let per := s.aclk i.tile
  let n := s.streamRows i d
  { bad := streamBad (s.fld .glb GLB.FEAT_ACTIVE) (s.sch.regime = .timed) (s.oddCycle i) i.word d b,
    decodes := aType d = 2 && halfOk i.word,
    reads := rows ++ presRange i.word d, writes := [], regsIn := [], regsOut := [.half i.tile.val (halfB i.word)],
    waitTill := max ((a.candidate.map Block.fullAt).getD 0 * (swapBit i.word).toNat)
      (s.drainEnd i.tile (halfB i.word) - 136 * per),
    hbm := [], occ := n * per, result := (135 + n) * per, rank := .arrayRead, lost := some fun _ => 0 }

/-- ARR_STREAM as the array issues it, at a time. -/
def streamJob (i : TileIssue) (d : BitVec 512) (t : Phase) (s : State) : Job :=
  ⟨.arrStream, 0, 0, streamPlan i d t s,
    ⟨streamNotReady i, streamCollides i, fun s => s.raise (.tarr i.tile) TARR.EV_HALF_COLLISION, markAcc i, streamRun i d⟩⟩

/-- ARR_STREAM (R97, R98, R100, R103 to R110, R115, R117 to R119). -/
def execArrStream (i : TileIssue) (s0 : State) : Host.Outcome State Fault Refusal :=
  let d := s0.descriptor i.tile.val i.word.desc
  let t := if s0.sch.regime = .timed then s0.sch.startPhase + issueStamp i.word
    else max s0.clk.phase (((s0.arr i.tile).candidate.map Block.fullAt).getD 0)
  let s := s0.arrayAt i.tile t
  .next (issueJob i (streamJob i d t s) s)

/-! Drains. -/

/-- Formats that a drain writes (R116). -/
def drainFmt (f : Nat) : Bool := f ≤ 11

/-- Grounds for MALFORMED of a drain (R84, R105, R116 to R119, R295). -/
def drainBad (w : Issue) (d : BitVec 512) (sel : Option (ConvSpec × Int)) : Bool :=
  let n := rowsArg w
  aType d ≠ 3 || d.toNat &&& aReservedDrain ≠ 0 || !drainFmt (aFmt d) || !scalingOk (aScaling d) (aFmt d) || sel.isNone ||
    w.epoch || w.vcnt || w.vsrc ≠ 0 || w.arg0 ≠ 0 || w.arg1.toNat ≥ 2048 || w.arg2.toNat ≥ 2048 || w.uspec ≠ 0 || !halfOk w ||
    aAddr d % 64 ≠ 0 || aRowStride d % 64 ≠ 0 ||
    (rowRanges (aAddr d) (aRowStride d) n (packedBytes (aFmt d) (storedLen (aScaling d) (aCols d))) ++
      rowRanges (aScaleAddr d) (aScaleStride d) n (scaleBytes (aScaling d) (aCols d))).any fun r => !inSpad r

/-- The ranges that a drain writes, in the format it writes. -/
def drainRanges (w : Issue) (d : BitVec 512) (c : ConvSpec) : List Range :=
  rowRanges (aAddr d) (aRowStride d) (rowsArg w) (packedBytes c.fmt (storedLen c.scaling (aCols d))) ++
    rowRanges (aScaleAddr d) (aScaleStride d) (rowsArg w) (scaleBytes c.scaling (aCols d))

/-- A value times 2^e. -/
def Fp.scale (x : Fp) (e : Int) : Fp := match x with | .fin s m f => .fin s m (f + e) | y => y

/-- One row of a drain: what it writes, and what its tap records (R116, R284, R295). -/
def drainRow (d : BitVec 512) (c : ConvSpec) (shift : Int) (row : AccRow) (r : Nat) :
    List (Nat × List Byte) × List ConvEv × List Fp :=
  let xs := (row.vals.take (aCols d)).map fun v => (f32 v).mul (aOutScale d)
  let e := encRow c (xs.map fun x => x.scale shift)
  ((aAddr d + r * aRowStride d, pack c.fmt (storedCodes c.scaling e.codes)) ::
    (if e.scales.isEmpty then [] else [(aScaleAddr d + r * aScaleStride d, e.scales.map (BitVec.ofNat 8))]), e.evs, xs)

/-- What ARR_DRAIN does at issue (R106, R116). -/
def drainRun (i : TileIssue) (d : BitVec 512) (c : ConvSpec) (shift : Int) (at_ : Phase) (poison : Bool) (s : State) : State :=
  let n := rowsArg i.word
  let rows := (List.range n).map fun r => s.accRow i.tile (accArg i.word + r)
  let outs := rows.zipIdx.map fun r => drainRow d c shift r.1 r.2
  let bad := poison || rows.any AccRow.poison
  let occ := ceilDiv (n * 64 * fmtWidth (aFmt d)) 2048 * s.vclk i.tile
  let s1 := { s with tiles := { s.tiles with
      drainEnd := smSet 0 s.tiles.drainEnd (2 * i.tile.val + (halfB i.word).toNat) (at_ + occ + i.loss * s.vclk i.tile) } }
  let s2 := finishOut i bad (outs.flatMap fun o => o.1) (s1.count (.tarr i.tile) TARR.DRAIN_CNT)
  s2.tap at_ (aHydId d) (convTap c.fmt (outs.flatMap fun o => o.2.1) (outs.flatMap fun o => o.2.2) 0 false)

/-- ARR_DRAIN as the array issues it. -/
def drainJob (i : TileIssue) (s : State) : Job :=
  let d := s.descriptor i.tile.val i.word.desc
  let sel := s.selected (aHydId d) (aSpec d)
  let c := sel.getD (aSpec d, 0)
  let occ := ceilDiv (rowsArg i.word * 64 * fmtWidth (aFmt d)) 2048
  let per := s.vclk i.tile
  let p : Plan := { bad := drainBad i.word d sel, decodes := aType d = 3 && sel.isSome && (drainRanges i.word d c.1).all inSpad,
                    reads := [], writes := drainRanges i.word d c.1,
                    regsIn := [.half i.tile.val (halfB i.word)], regsOut := [], waitTill := 0, hbm := [], occ := occ * per,
                    result := (occ + 6) * per, rank := .arrayWrite }
  ⟨.arrDrain, 0, 0, p, Work.plain (fun s => s.markRanges i.tile.val p.writes) (drainRun i d c.1 c.2)⟩

/-- ARR_DRAIN (R105, R106, R116 to R119, R295). -/
def execArrDrain (i : TileIssue) (s : State) : Host.Outcome State Fault Refusal := .next (issueJob i (drainJob i s) s)

end Sys2Proof.Machine
end

