-- ==== Sys2Proof/Machine/HallTime.lean ====
section
/-! DEFINITION. Hall time: the count, the time exchange, the servo states, PTM and TICK_OUT (R28 to R49). -/
namespace Sys2Proof.Machine

/-- Codes of HTM_STATUS.STATE (R39). -/
def htDisabled : Nat := 0
def htFreqAcq : Nat := 1
def htPhaseAcq : Nat := 2
def htLocked : Nat := 3
def htHoldover : Nat := 4
def htFault : Nat := 5

/-- HTM_STATUS.STATE. -/
def State.htState (s : State) : Nat := s.fld .htm HTM.STATUS_STATE

/-- Whether hall time is locked for R16 (R44). -/
def State.timeLocked (s : State) : Bool := s.htState = htLocked

/-- The conditions of R16, beside an image for timed steps. -/
def State.timedReady (s : State) : Bool :=
  bitOf (s.fld .glb GLB.FEAT_ACTIVE) 0 && s.timeLocked && !s.flag .htm HTM.STATUS_TIME_FAULT && !s.flag .bst BST.STATUS_FAILED &&
  ((List.finRange 8).all fun z => !s.flag (.zn z) ZN.STATUS_LIMIT) && !s.flag .thm THM.STATUS_HOT

/-- Whether the loaded image may run timed (R16, R54). -/
def State.timedImage (s : State) : Bool :=
  match s.sch.img with
  | some m => !m.untimedOnly
  | none => false

/-- GLB_STATUS.TIMED_READY: every condition of R16 holds (R417). -/
def State.timedReadyNow (s : State) : Bool := s.timedReady && s.timedImage

/-- TIMED_READY_LOST, when what happened since `old` has ended a condition of R16 (R417). -/
def State.watchReady (s old : State) : State :=
  if old.timedReadyNow && !s.timedReadyNow then s.tally .glb GLB.TIMED_READY_LOST_CNT GLB.EV_TIMED_READY_LOST else s

/-- Whether the module is the grandmaster (R31). -/
def State.isGm (s : State) : Bool := s.flag .htm HTM.CTRL_GRANDMASTER

/-- Enter a state of R39: STATE and the status bits that follow it. -/
def State.enterHt (s : State) (st : Nat) : State :=
  s.setFlds .htm [(HTM.STATUS_STATE, st), (HTM.STATUS_LOCKED, (st = htLocked : Bool).toNat),
    (HTM.STATUS_HOLDOVER, (st = htHoldover : Bool).toNat)]

/-- HT takes a value: every port sends its next symbol after the next multiple of 1,000 (R29, R34). -/
def State.loadHt (s : State) (v : BitVec 80) : State :=
  { s with
    clk := { s.clk with ht := v }
    htm := { s.htm with ports := smMap HtmPort.initial (fun q => { q with sentAt := v.toNat / 65536 / 1000 }) s.htm.ports } }

/-- Enter LOCKED: the event is raised, and TIME_FAULT clears (R39, R45). -/
def State.enterHtLocked (s : State) : State :=
  ((s.enterHt htLocked).setFld .htm HTM.STATUS_TIME_FAULT 0).raise .htm HTM.EV_LOCKED

/-- What the module keeps of a port's exchange. -/
def State.htPort (s : State) (p : Nat) : HtmPort := smGet HtmPort.initial s.htm.ports p

/-- Keep something of a port's exchange. -/
def State.setHtPort (s : State) (p : Nat) (q : HtmPort) : State :=
  { s with htm := { s.htm with ports := smSet HtmPort.initial s.htm.ports p q } }

/-- A port's delay has varied by 10 ps or less over its last 64 exchanges; 10 ps are 1,310 doubled units (R36; log 16). -/
def HtmPort.stable (q : HtmPort) : Bool :=
  let d := q.delays.take 64
  !d.isEmpty && (d.foldl max (d.headD 0) - d.foldl min (d.headD 0)) ≤ 1310

/-- A port that meets every condition of R36 but the one on GM_ID. -/
def State.eligible (s : State) (p : Nat) : Bool :=
  let q := s.htPort p
  !bitOf (s.fld .htm HTM.CTRL_PORT_MASK) p && q.heard && !q.lost && (q.locked || q.gm) && q.stable

/-- The ports L0 to L11. -/
def portList : List Nat := List.range 12

/-- The GM_ID of the parent port's symbols; of the alternative parent's, and then the one followed last, when the parent is not
heard (R36, R38; log 16). -/
def State.parentGm (s : State) : Nat :=
  let a := s.fld .htm HTM.CTRL_PARENT
  let b := s.fld .htm HTM.CTRL_PARENT_ALT
  let ok := fun p => p < 12 && (s.htPort p).heard && !(s.htPort p).lost
  if ok a then (s.htPort a).gmId.toNat else if ok b then (s.htPort b).gmId.toNat else s.fld .htm HTM.GM_ID

/-- Whether a port is contributing (R36). -/
def State.contributes (s : State) (p : Nat) : Bool := s.eligible p && (s.htPort p).gmId.toNat = s.parentGm

/-- The contributing ports. -/
def State.contributing (s : State) : List Nat := portList.filter s.contributes

/-- CRC-8, polynomial 0x07, one byte more (R34). -/
def crc8Step (c b : Nat) : Nat :=
  (List.range 8).foldl (fun c _ => if c ≥ 128 then (c * 2 % 256) ^^^ 0x07 else c * 2) (c ^^^ b)

/-- CRC-8 of the 31 bytes of bits [247:0], least significant byte first, from 0 (R34; log 17). -/
def crc8 (v : Nat) : Nat := (List.range 31).foldl (fun c i => crc8Step c (v / 256 ^ i % 256)) 0

/-- The time symbol of R34 from its fields. -/
def packSymbol (flags seq stratum gmId depart echo hold : Nat) : BitVec 256 :=
  let v := 0x5A + flags * 2 ^ 8 + seq * 2 ^ 16 + stratum * 2 ^ 32 + gmId * 2 ^ 40 + depart * 2 ^ 56 + echo * 2 ^ 136 +
    hold * 2 ^ 216
  BitVec.ofNat 256 (v + crc8 v * 2 ^ 248)

/-- FLAGS of the symbols that this module sends (R34). -/
def State.symbolFlags (s : State) (q : HtmPort) : Nat :=
  s.timeLocked.toNat + s.isGm.toNat * 2 + (s.htState = htHoldover : Bool).toNat * 4 + q.haveEcho.toNat * 8

/-- TIME_SYMBOL_SEND: one symbol after each HT multiple of 1,000, on a port whose link is up (R34).  DESIGN CHOICE: HOLD is its low 32
bits, with ECHO_VALID set, however old the echoed symbol is (log 82). -/
def execTimeSymbolSend (p : Fin 12) (s : State) : Host.Outcome State Fault Refusal :=
  let q := s.htPort p.val
  let st := s.fld (.lnk p) LNK.STATUS_STATE
  .next (if (st = 2 ∨ st = 3) ∧ q.sentAt < s.ht / 1000 then
      let depart := s.clk.ht.toNat
      let hold := (s.clk.ht - q.t2).toNat % 2 ^ 32
      let sym := packSymbol (s.symbolFlags q) q.seq.toNat (s.fld .htm HTM.STATUS_STRATUM) (s.fld .htm HTM.GM_ID) depart
        q.t1.toNat (if q.haveEcho then hold else 0)
      (s.setHtPort p.val { q with seq := q.seq + 1, sentAt := s.ht / 1000 }).send (.timeSymbol p.val sym)
    else s)

/-- The doubled delay and offset of an exchange (R35): t2 = t3 − HOLD. -/
def exchange (t1 hold t3 t4 : Nat) : Int × Int :=
  let t2 := (t3 : Int) - hold
  (((t4 : Int) - t1) - (t3 - t2), (t2 - t1) - ((t4 : Int) - t3))

/-- Mean of doubled delays in ps, to the nearest (R35). -/
def meanPs (d : List Int) : Nat :=
  if d.isEmpty then 0 else
    let n : Int := d.length
    ((d.sum * 1000 * 2 + n * 2 * 65536) / (2 * (n * 2 * 65536))).toNat

/-- Keep a valid symbol: what it says of its sender, when it came, and how many have come in a row, a gap of more than 1.5 µs
breaking the row (R34, R36; log 16). -/
def HtmPort.heardOne (q : HtmPort) (now : Phase) (v : Nat) (t4 : BitVec 80) : HtmPort :=
  let run := if now ≤ q.lastAt + 6000 then q.goodRun else 0
  { q with t1 := BitVec.ofNat 80 (bitsOf v 135 56), t2 := t4, haveEcho := true, heard := true, lastAt := now,
           goodRun := min 64 (run + 1), locked := bitOf v 8, gm := bitOf v 9, gmId := BitVec.ofNat 16 (bitsOf v 55 40),
           stratum := bitsOf v 39 32 }

/-- Take the delay and offset of an exchange into a port's means (R35). -/
def HtmPort.measured (q : HtmPort) (d o : Int) : HtmPort :=
  { q with exchanges := q.exchanges + 1, delays := (d :: q.delays).take 1024, offset := some o }

/-- The first contributing port in PHASE_ACQ loads HT := t3 + delay, once (R29, R39); half a unit is dropped (log 82). -/
def coarseLoad (p : Nat) (t3 : Nat) (d : Int) (s : State) : State :=
  if s.htState = htPhaseAcq && !s.isGm && !s.htm.stepped && s.contributes p then
    ({ s with htm := { s.htm with stepped := true } }).loadHt (BitVec.ofInt 80 ((t3 : Int) + d / 2))
  else s

/-- A port that has had 64 valid symbols in a row is no longer time-lost (R36). -/
def regainPort (p : Nat) (s : State) : State :=
  let q := s.htPort p
  if q.lost && q.goodRun ≥ 64 then
    let m := s.fld .htm HTM.STATUS_PORT_TIME_LOST
    (s.setHtPort p { q with lost := false }).setFld .htm HTM.STATUS_PORT_TIME_LOST (m - (m &&& 2 ^ p))
  else s

/-- A symbol with GM set or STRATUM below 255 through a contributing port: NO_GM does not hold (R38). -/
def seeGm (p : Nat) (s : State) : State :=
  let q := s.htPort p
  if s.contributes p && (q.gm || q.stratum < 255) then
    ({ s with htm := { s.htm with gmSeenAt := s.clk.phase } }).setFld .htm HTM.STATUS_NO_GM 0
  else s

/-- A valid symbol's exchange (R35); HTM_PORT_OFFSET drops the half unit (DESIGN CHOICE, log 82). -/
def takeExchange (p : Nat) (v : Nat) (t4 : BitVec 80) (s : State) : State :=
  if bitOf v 11 then
    let t3 := bitsOf v 135 56
    let x := exchange (bitsOf v 215 136) (bitsOf v 247 216) t3 t4.toNat
    let q := (s.htPort p).measured x.1 x.2
    coarseLoad p t3 x.1 ((s.setHtPort p q).setFlds .htm [(HTM.PORT_DELAY_DELAY_PS p, meanPs q.delays),
      (HTM.PORT_DELAY_VALID p, (q.exchanges ≥ 1024 : Bool).toNat), (HTM.PORT_OFFSET p, unsgn 32 (x.2 / 2))])
  else s

/-- A symbol has arrived at a port, its first bit at `t4` (R34, R35, R39).  DESIGN CHOICE: a symbol of good CRC and another TYPE is no
time symbol, is counted nowhere and breaks no row of valid ones (log 82). -/
def State.takeSymbol (s : State) (p : Nat) (v : Nat) (t4 : BitVec 80) : State :=
  if crc8 (v % 2 ^ 248) ≠ v / 2 ^ 248 then
    (s.count .htm HTM.SYM_CRC_CNT).setHtPort p { s.htPort p with goodRun := 0 }
  else if v % 256 ≠ 0x5A then s
  else
    let s1 := (s.count .htm HTM.SYM_RX_CNT).setHtPort p ((s.htPort p).heardOne s.clk.phase v t4)
    seeGm p (takeExchange p v t4 (regainPort p s1))

/-- TIME_SYMBOL_RX (R34, R35, R39). -/
def execTimeSymbolRx (p : Fin 12) (sym : BitVec 256) (t4 : BitVec 80) (s : State) : Host.Outcome State Fault Refusal :=
  .next (s.takeSymbol p.val sym.toNat t4)

/-- The time data of a codeword: the part with FTYPE 1 begins a symbol, nine continuations end it, and anything else breaks it off; the
symbol arrives with its first codeword (R208; log 84). -/
def State.takeTimePart (s : State) (p : Nat) (ftype : Nat) (tdata : BitVec 26) (arrival : BitVec 80) : State :=
  let q := s.htPort p
  if ftype = 1 then s.setHtPort p { q with symParts := 1, symBits := BitVec.ofNat 260 tdata.toNat, symAt := arrival }
  else if ftype = 2 && 0 < q.symParts then
    let v := q.symBits ||| BitVec.ofNat 260 (tdata.toNat * 2 ^ (26 * q.symParts))
    if q.symParts = 9 then (s.setHtPort p { q with symParts := 0 }).takeSymbol p (v.toNat % 2 ^ 256) q.symAt
    else s.setHtPort p { q with symParts := q.symParts + 1, symBits := v }
  else if q.symParts = 0 then s
  else s.setHtPort p { q with symParts := 0 }

/-- PORT_TIME_LOST: 4 µs have passed without a valid symbol (R36). -/
def execPortTimeLost (p : Fin 12) (s : State) : Host.Outcome State Fault Refusal :=
  let q := s.htPort p.val
  .next (if q.lost || s.clk.phase < q.lastAt + 16000 then s
    else ((s.setHtPort p.val { q with lost := true, goodRun := 0 }).setFld .htm HTM.STATUS_PORT_TIME_LOST
      (s.fld .htm HTM.STATUS_PORT_TIME_LOST ||| 2 ^ p.val)).tally .htm HTM.TIME_LOST_CNT HTM.EV_PORT_TIME_LOST)

/-- Two GM_ID values among the ports that meet the other conditions: counted when it begins (R38; log 16). -/
def gmConflict (s : State) : State :=
  let now := (portList.filter s.eligible).any fun p => (s.htPort p).gmId.toNat ≠ s.parentGm
  let s1 := { s with htm := { s.htm with conflict := now } }
  if now && !s.htm.conflict then (s1.tally .htm HTM.GM_CONFLICT_CNT HTM.EV_GM_CONFLICT).degraded else s1

/-- Where the module syntonises: PARENT while it contributes, else PARENT_ALT (R33). -/
def State.syntonised (s : State) (c : List Nat) : Option (Fin 12) :=
  let a := s.fld .htm HTM.CTRL_PARENT
  let b := s.fld .htm HTM.CTRL_PARENT_ALT
  let pick := if c.contains a then a else b
  if h : pick < 12 then (if c.contains pick then some ⟨pick, h⟩ else none) else none

/-- Follow the source: STRATUM, which is 255 where no source is known, GM_ID, PARENT_SWITCH and PHASE_ONLY (R33, R34). -/
def followSource (c : List Nat) (s : State) : State :=
  match s.syntonised c with
  | none => s.setFlds .htm [(HTM.STATUS_PHASE_ONLY, (!c.isEmpty).toNat), (HTM.STATUS_STRATUM, 255)]
  | some p =>
    let q := s.htPort p.val
    let s1 := s.setFlds .htm [(HTM.STATUS_PHASE_ONLY, 0), (HTM.STATUS_STRATUM, min 255 (q.stratum + 1)),
      (HTM.GM_ID, q.gmId.toNat)]
    let s2 := if s.htm.source.isSome && s.htm.source ≠ some p then s1.raise .htm HTM.EV_PARENT_SWITCH else s1
    { s2 with htm := { s2.htm with source := some p } }

/-- Limit a correction (R30, R31). -/
def clampInt (lo hi x : Int) : Int := max lo (min hi x)

/-- The doubled combined offset of the contributing ports, in 1/65,536 ns (R37); the mean is rounded down (DESIGN CHOICE, log 82). -/
def State.combined (s : State) (c : List Nat) : Int :=
  ((c.map fun p => ((s.htPort p).offset.getD 0)).sum) / c.length

/-- The servo with ports contributing: HTM_OFFSET, half a unit dropped, the root correction within ±50 ppm from the offset and the
sum of the offsets so far, and the estimate of R45 (log 9, log 82). -/
def steer (o2 : Int) (s : State) : State :=
  let last := sgn 32 (s.fld .htm HTM.FREQ_ADJ)
  let sum := s.htm.integral + o2
  let adj := clampInt (-50000000) 50000000 (Config.servo o2 sum last)
  let f := max 0 (Config.filtered o2 s.htm.filtered)
  ({ s with htm := { s.htm with filtered := f, integral := sum } }).setFlds .htm [(HTM.OFFSET, unsgn 32 (o2 / 2)),
    (HTM.FREQ_ADJ, unsgn 32 adj), (HTM.ERR_EST, min 65535 (f.toNat + 60))]

/-- Enter FAULT: the estimate has passed 400 ps (R45). -/
def State.enterHtFault (s : State) : State :=
  (((s.enterHt htFault).setFld .htm HTM.STATUS_TIME_FAULT 1).tally .htm HTM.TIME_FAULT_CNT HTM.EV_TIME_FAULT).degraded

/-- The estimate from which the error grows while no port contributes, and when that began (R45). -/
def State.holdFrom (s : State) : State :=
  { s with htm := { s.htm with holdAt := s.clk.phase, holdEst := s.fld .htm HTM.ERR_EST, held := true } }

/-- Enter HOLDOVER (R44). -/
def State.enterHoldover (s : State) : State :=
  let s1 := s.holdFrom
  (((s1.enterHt htHoldover).setFld .htm HTM.HOLD_TIME 0).tally .htm HTM.HOLDOVER_CNT HTM.EV_HOLDOVER_ENTER).degraded

/-- 1,024 exchanges in a row with the offset at 40 ps or less, in 5,242 doubled units of 1/65,536 ns (R39). -/
def countRuns (o2 : Int) (s : State) : State :=
  { s with htm := { s.htm with held := false
                               offRun := if o2.natAbs ≤ 5242 then s.htm.offRun + 1 else 0
                               okRun := if s.fld .htm HTM.ERR_EST ≤ 200 then s.htm.okRun + 1 else 0 } }

/-- The servo update with ports contributing (R37, R39, R45). -/
def servoOn (c : List Nat) (s : State) : State :=
  let o2 := s.combined c
  let s1 := countRuns o2 (steer o2 s)
  let st := s1.htState
  if st = htPhaseAcq then if s1.htm.offRun ≥ 1024 then s1.enterHtLocked else s1
  else if st = htHoldover then s1.enterHtLocked
  else if st = htLocked then if s1.fld .htm HTM.ERR_EST > 400 then s1.enterHtFault else s1
  else if s1.htm.offRun ≥ 1024 && s1.htm.okRun ≥ 1024 then s1.enterHtLocked else s1

/-- The servo update with no port contributing: holdover, and no row of exchanges goes on (R39, R44, R45; log 16).  The error grows
by 50 ps in 4,000,000 phases, and what passes 400 ps is judged before it is rounded down to a register's ps. -/
def servoOff (s0 : State) : State :=
  let s := { s0 with htm := { s0.htm with offRun := 0, okRun := 0 } }
  if s.htState = htLocked then s.enterHoldover
  else if s.htState = htPhaseAcq then s
  else
    let h := if s.htm.held then s else s.holdFrom
    let spent := h.clk.phase - h.htm.holdAt
    let s1 := h.setFld .htm HTM.ERR_EST (min 65535 (h.htm.holdEst + spent / 80000))
    if h.htState = htHoldover then
      let s2 := s1.setFld .htm HTM.HOLD_TIME (spent / 4000)
      if h.htm.holdEst * 80000 + spent > 400 * 80000 then s2.enterHtFault else s2
    else s1

/-- In FREQ_ACQ the root is steered to the recovered clock of the parent, whose frequency is a free value (R30, R39; log 83). -/
def steerToParent (s : State) : State :=
  let d := s.draw
  d.2.setFld .htm HTM.FREQ_ADJ (unsgn 32 (clampInt (-50000000) 50000000 (sgn 32 (d.1.toNat % 2 ^ 32))))

/-- SERVO_UPDATE: the update of each 1 µs of a module that is not the grandmaster (R30, R33, R36 to R39, R44, R45); updates lie 1 µs
apart from ENABLE on, and a command before the next one does nothing (log 83). -/
def execServoUpdate (s : State) : Host.Outcome State Fault Refusal :=
  .next (if s.isGm || s.htState = htDisabled || s.clk.stopped || s.clk.phase < s.htm.servoAt + 4000 then s
    else
      let s0 := { s with htm := { s.htm with servoAt := s.clk.phase - (s.clk.phase - s.htm.servoAt) % 4000 } }
      let s1 := gmConflict s0
      let c := s1.contributing
      let s2 := followSource c s1
      (if s.htState = htFreqAcq then steerToParent s2
        else if c.isEmpty then servoOff s2 else if s2.htm.stepped then servoOn c s2 else s2).watchReady s)

/-- FREQ_ACQUIRED: the frequency error has been 10^-9 or less for 1 ms, which FREQ_ACQ has lasted (R39). -/
def execFreqAcquired (s : State) : Host.Outcome State Fault Refusal :=
  .next (if s.htState = htFreqAcq && s.clk.phase ≥ s.htm.enabledAt + 4000000 then s.enterHt htPhaseAcq else s)

/-- NO_GM: no grandmaster through a contributing port for 4 µs (R38; log 16). -/
def execNoGm (s : State) : Host.Outcome State Fault Refusal :=
  .next (if s.htState = htLocked && !s.isGm && s.clk.phase ≥ s.htm.gmSeenAt + 16000 && !s.flag .htm HTM.STATUS_NO_GM then
      ((s.setFld .htm HTM.STATUS_NO_GM 1).raise .htm HTM.EV_NO_GM).degraded
    else s)

/-- HTM_CTRL.ENABLE goes to 1: acquisition starts (R32, R39). -/
def htmStart (s : State) : State :=
  let s1 := { s with htm := { s.htm with enabledAt := s.clk.phase, loadedAt := none, edgeAt := none, stepped := false,
                                         offRun := 0, okRun := 0, tickMissing := false, integral := 0,
                                         servoAt := s.clk.phase, tickFrom := s.clk.phase, held := false } }
  if s.isGm then
    (s1.enterHt htPhaseAcq).setFlds .htm [(HTM.STATUS_STRATUM, 0), (HTM.GM_ID, s.fld .swx SWX.HALL_ID_HALL_ID)]
  else s1.enterHt htFreqAcq

/-- HTM_CTRL.ENABLE goes to 0: the root free-runs and HT counts from 0 (R39; log 18).  A pulse of TICK_OUT lasts its 100 ns.  DESIGN
CHOICE: a time of day that is pending stays so for the next ENABLE (log 82). -/
def htmStop (s : State) : State :=
  let s1 := { s with htm := { Htm.initial with ports := s.htm.ports, todPending := s.htm.todPending, autoAt := s.htm.autoAt,
                                               pulseAt := s.htm.pulseAt } }
  (s1.loadHt 0).setFlds .htm [(⟨0x018, 63, 0⟩, 0xFF * 2 ^ 48 + s.fld .htm HTM.STATUS_PORT_TIME_LOST * 2 ^ 32), (HTM.ERR_EST, 0),
    (HTM.OFFSET, 0), (HTM.FREQ_ADJ, 0)]

/-- The grandmaster is LOCKED, its own offset 0 (R32, R45): TICK_IN may be missing from here on. -/
def State.gmLock (s : State) : State :=
  (({ s with htm := { s.htm with tickFrom := s.clk.phase, tickMissing := false } }).setFld .htm HTM.ERR_EST 60).enterHtLocked

/-- The correction of a grandmaster: none on its TCXO, and within 0.1 ppm while it follows TICK_IN (R31). -/
def gmAdjust (s : State) : State :=
  let adj := if s.flag .htm HTM.CTRL_TICK_IN_EN then clampInt (-100000) 100000 (sgn 32 (s.fld .htm HTM.FREQ_ADJ)) else 0
  s.setFld .htm HTM.FREQ_ADJ (unsgn 32 adj)

/-- A module that is made grandmaster while it holds hall time adopts its HT without a step (R38); LOCKED is raised where it was not
LOCKED before. -/
def htmAdopt (s : State) : State :=
  let s1 := gmAdjust (s.setFlds .htm [(HTM.STATUS_NO_GM, 0), (HTM.STATUS_STRATUM, 0), (HTM.STATUS_PHASE_ONLY, 0),
    (HTM.GM_ID, s.fld .swx SWX.HALL_ID_HALL_ID)])
  if s.htState = htLocked then
    ({ s1 with htm := { s1.htm with tickFrom := s.clk.phase, tickMissing := false } }).setFld .htm HTM.ERR_EST 60
  else s1.gmLock

/-- TICK_IN_EN of a grandmaster that is enabled goes to 0, when it free-runs on its TCXO, or to 1 (R31, R32). -/
def gmTickIn (s : State) : State :=
  if s.flag .htm HTM.CTRL_TICK_IN_EN then
    { s with htm := { s.htm with tickFrom := s.clk.phase, edgeAt := none, tickMissing := false } }
  else gmAdjust s

/-- Start a PTM dialogue, which needs feature bit 10 (R47). -/
def ptmStart (s : State) : State :=
  if bitOf (s.fld .glb GLB.FEAT_ACTIVE) 10 then
    ({ s with htm := { s.htm with ptmT1 := some s.clk.ht } }).send (.ptmRequest s.clk.ht)
  else s

/-- What a write to HTM_CTRL does besides storing its bits; `old` is the state before it (R31, R38, R39, R47).  DESIGN CHOICE:
GRANDMASTER set in FREQ_ACQ or PHASE_ACQ, or cleared on a grandmaster that is enabled, leaves the state as it is (log 82). -/
def htmCtrl (old : State) (w : RegW) (s : State) : State :=
  let on := s.flag .htm HTM.CTRL_ENABLE
  let was := old.flag .htm HTM.CTRL_ENABLE
  let s1 := if on && !was then htmStart s else if !on && was then htmStop s
    else if on && s.isGm && !old.isGm && s.htState ≥ htLocked then htmAdopt s
    else if on && s.isGm && s.flag .htm HTM.CTRL_TICK_IN_EN ≠ old.flag .htm HTM.CTRL_TICK_IN_EN then gmTickIn s else s
  onlyIf (wHits w HTM.CTRL_PTM_REQ) ptmStart s1

/-- A write to HTM_CTRL. -/
def htmCtrlWrite (w : RegW) (s : State) : State := (ctrlWrite s .htm w (htmCtrl s w)).watchReady s

/-- HTM_ENABLE (R39). -/
def execHtmEnable (w : RegW) (s : State) : Host.Outcome State Fault Refusal := .next (htmCtrlWrite w s)

/-- HTM_DISABLE (R39). -/
def execHtmDisable (w : RegW) (s : State) : Host.Outcome State Fault Refusal := .next (htmCtrlWrite w s)

/-- PTM_REQ (R47). -/
def execPtmReq (w : RegW) (s : State) : Host.Outcome State Fault Refusal := .next (htmCtrlWrite w s)

/-- Whether a write to HTM_TOD_SET makes its value pending: in DISABLED and, for the grandmaster, in PHASE_ACQ (R32). -/
def State.todOpen (s : State) : Bool := s.htState = htDisabled || (s.htState = htPhaseAcq && s.isGm)

/-- A write to HTM_TOD_SET: in another state it is ignored and counted (R32), and so it is while the register is locked (R65). -/
def todWrite (w : RegW) (s : State) : State :=
  if !s.reaches .htm then s
  else if s.locked then
    let s1 := s.store .htm HTM.TOD_SET.off w
    if s.todOpen then s1 else s1.count .htm HTM.TOD_IGNORED_CNT
  else if s.todOpen then
    let s1 := s.store .htm HTM.TOD_SET.off w
    { s1 with htm := { s1.htm with todPending := some (s1.reg (fldAddr .htm HTM.TOD_SET)) } }
  else s.count .htm HTM.TOD_IGNORED_CNT

/-- HTM_TOD_SET (R32). -/
def execHtmTodSet (w : RegW) (s : State) : Host.Outcome State Fault Refusal := .next (todWrite w s)

/-- PTM_AUTO_DIALOGUE: every 10 ms while PTM_AUTO is set (R47). -/
def execPtmAutoDialogue (s : State) : Host.Outcome State Fault Refusal :=
  .next (if s.flag .htm HTM.CTRL_PTM_AUTO && s.clk.phase ≥ s.htm.autoAt + 40000000 then
      ptmStart { s with htm := { s.htm with autoAt := s.clk.phase } }
    else s)

/-- PTM_RESPONSE: three values latched together (R47). -/
def execPtmResponse (host : Reg) (turnaround : BitVec 32) (s : State) : Host.Outcome State Fault Refusal :=
  .next (match s.htm.ptmT1 with
    | none => s
    | some t1 =>
      let t4 := s.clk.ht.toNat
      ({ s with htm := { s.htm with ptmT1 := none } }).setFlds .htm [(HTM.PTM_HT, (t1.toNat + t4) / 2 / 65536),
        (HTM.PTM_HOST, host.toNat), (HTM.PTM_RTT, (t4 - t1.toNat) / 65536 - turnaround.toNat)])

/-- The grandmaster follows TICK_IN: the correction stays within 0.1 ppm (R31; log 9). -/
def followTick (s : State) : State :=
  let off : Int := (s.ht % 1000000000 : Nat)
  let err := if off > 500000000 then 1000000000 - off else -off
  let sum := s.htm.integral + err * 2 * 65536
  let adj := clampInt (-100000) 100000 (Config.servo (err * 2 * 65536) sum (sgn 32 (s.fld .htm HTM.FREQ_ADJ)))
  ({ s with htm := { s.htm with integral := sum } }).setFld .htm HTM.FREQ_ADJ (unsgn 32 adj)

/-- TICK_IN_EDGE (R31, R32). -/
def execTickInEdge (s : State) : Host.Outcome State Fault Refusal :=
  .next (if s.isGm && s.flag .htm HTM.CTRL_TICK_IN_EN then
      let s1 := { s with htm := { s.htm with edgeAt := some s.clk.phase, tickFrom := s.clk.phase, tickMissing := false } }
      match s.htm.todPending, s.htState = htPhaseAcq && !s.htm.stepped with
      | some v, true =>
        ({ s1 with htm := { s1.htm with todPending := none, stepped := true, loadedAt := some s.clk.phase } }).loadHt
          (BitVec.ofNat 80 (v.toNat * 65536))
      | _, _ => if s.htState = htLocked then followTick s1 else s1
    else s)

/-- GM_LOCK_TIMER: 20 ms after the load, or after ENABLE when no load is due (R32).  DESIGN CHOICE: a value that is pending while
TICK_IN_EN is clear stays pending (log 82). -/
def execGmLockTimer (s : State) : Host.Outcome State Fault Refusal :=
  let waits := s.htm.todPending.isSome && s.flag .htm HTM.CTRL_TICK_IN_EN && s.htm.loadedAt.isNone
  .next (if s.isGm && s.htState = htPhaseAcq && !waits &&
        s.clk.phase ≥ s.htm.loadedAt.getD s.htm.enabledAt + 80000000 then
      s.gmLock
    else s)

/-- TICK_IN_MISSING: no edge for 2 × 10^9 ns of ENABLE while a load is due, or while the grandmaster is LOCKED and follows TICK_IN
(R32). -/
def execTickInMissing (s : State) : Host.Outcome State Fault Refusal :=
  let late := fun (t : Phase) => s.clk.phase ≥ t + 8000000000
  let said := fun (s : State) => (s.raise .htm HTM.EV_TICK_IN_MISSING).degraded
  .next (if s.isGm && s.flag .htm HTM.CTRL_TICK_IN_EN && !s.htm.tickMissing then
      let s1 := { s with htm := { s.htm with tickMissing := true } }
      if s.htState = htPhaseAcq && s.htm.todPending.isSome && s.htm.loadedAt.isNone && late (s.htm.edgeAt.getD s.htm.enabledAt) then
        ((said { s1 with htm := { s1.htm with todPending := none } }).count .htm HTM.TOD_IGNORED_CNT).gmLock
      else if s.htState = htLocked && late s.htm.tickFrom then said s1 else s
    else s)

/-- TICK_OUT_PULSE: a pulse within 2 ns of each HT multiple of 10^9 (R48). -/
def execTickOutPulse (s : State) : Host.Outcome State Fault Refusal :=
  let h := s.clk.ht.toNat + 2 * 65536
  let near := h % (1000000000 * 65536) ≤ 4 * 65536
  let fresh := match s.htm.pulseAt with
    | some t => t + 400 ≤ s.clk.phase
    | none => true
  .next (if s.flag .htm HTM.CTRL_TICK_OUT_EN && near && fresh then
      ({ s with htm := { s.htm with pulseAt := some s.clk.phase } }).send (.tickPulse (h / (1000000000 * 65536) * 1000000000))
    else s)

/-- Whether TICK_OUT is high: 100 ns from the edge (R48). -/
def State.tickOut (s : State) : Bool :=
  match s.htm.pulseAt with
  | some t => s.clk.phase < t + 400
  | none => false

end Sys2Proof.Machine
end

