-- ==== Sys2Proof/Machine/Cooperage.lean ====
section
/-! DEFINITION. Bank power states (R188 to R192) and the cooperage: pools, allocation and release (R193 to R203). -/
namespace Sys2Proof.Machine

/-! Bank power. -/

/-- Codes of TSPD_BANK_STATE and TSPD_BANK_PWR (R188, R204). -/
def bankOn : Nat := 0
def bankRetention : Nat := 1
def bankOff : Nat := 2
def bankWaking : Nat := 3

/-- Key of a bank. -/
def bankKey (t : Fin 128) (b : Nat) : Nat := 16 * t.val + b

/-- The transition that a bank is in. -/
def State.bankTr (s : State) (t : Fin 128) (b : Nat) : Option BankTr := smGet none s.tiles.banks (bankKey t b)

/-- The state that TSPD_BANK_PWR requests of a bank. -/
def State.bankAsked (s : State) (t : Fin 128) (b : Nat) : Nat := bitsOf (s.fld (.tspd t) TSPD.BANK_PWR) (2 * b + 1) (2 * b)

/-- Put a code into a bank's two bits of a word. -/
def bankPut (v b code : Nat) : Nat := v - bitsOf v (2 * b + 1) (2 * b) * 4 ^ b + code * 4 ^ b

/-- Show a bank's state, and what TSPD_STATUS says of the tile's banks (R204). -/
def State.showBank (s : State) (t : Fin 128) (b code : Nat) : State :=
  let v := bankPut (s.fld (.tspd t) TSPD.BANK_STATE) b code
  let is := fun (c k : Nat) => bitsOf v (2 * k + 1) (2 * k) = c
  s.setFlds (.tspd t) [(TSPD.BANK_STATE, v), (TSPD.STATUS_WAKING, ((List.range 16).any fun k => is bankWaking k).toNat),
    (TSPD.STATUS_BANK_ON, ((List.range 16).map fun k => if is bankOn k then 2 ^ k else 0).sum)]

/-- Whether a request waits for a transition or for the zone (R188). -/
def State.setBankWait (s : State) (t : Fin 128) (b : Nat) (v : Bool) : State :=
  { s with tiles := { s.tiles with bankWait := smSet false s.tiles.bankWait (bankKey t b) v } }

/-- Replace the transition of a bank. -/
def State.setBankTr (s : State) (t : Fin 128) (b : Nat) (v : Option BankTr) : State :=
  { s with tiles := { s.tiles with banks := smSet none s.tiles.banks (bankKey t b) v } }

/-- Time of a transition in phases, and whether it clears the bank (table *Bank transitions*, R188). -/
def bankTime (per from_ to_ : Nat) : Nat × Bool :=
  if from_ = bankOff then (400 + 1024 * per, true)
  else if to_ = bankOn then (400, false) else (80, false)

/-- What TSPD_BANK_STATE shows during a transition (R188; log 34). -/
def bankShown (from_ to_ : Nat) : Nat :=
  if to_ = bankOn then bankWaking else if from_ = bankOn then to_ else from_

/-- Start the transition to the requested state, from the state reached; what needs VCLK waits while the zone is OFF (R188). -/
def State.startBank (s : State) (t : Fin 128) (b : Nat) : State :=
  let from_ := s.bankState t b
  let to_ := s.bankAsked t b
  let point := s.fld (.zn (zoneOf t.val)) ZN.STATUS_OP
  if from_ = to_ then s.setBankWait t b false
  else if point = 3 ∧ to_ ≠ bankOff ∧ (to_ = bankOn ∨ from_ = bankOff) then s.setBankWait t b true
  else
    let d := bankTime (Unit_.period .vec point) from_ to_
    let from_At := s.clk.phase + if d.2 then 400 else d.1
    ((s.setBankWait t b false).setBankTr t b (some ⟨to_, from_At, s.clk.phase + d.1, d.2⟩)).showBank t b (bankShown from_ to_)

/-- A request for a bank: it waits for a transition in progress, or for the tile to be ready (R188, R192). -/
def State.requestBank (s : State) (t : Fin 128) (b code : Nat) : State :=
  let s1 := s.setFld (.tspd t) TSPD.BANK_PWR (bankPut (s.fld (.tspd t) TSPD.BANK_PWR) b code)
  if (s1.bankTr t b).isSome || s1.bankState t b = bankWaking then s1.setBankWait t b true else s1.startBank t b

/-- A write to TSPD_BANK_PWR: each covered bank's request, 3 leaving it unchanged; the register is locked in timed steps
(R65, R188, R204). -/
def State.bankPwrWrite (s : State) (t : Fin 128) (banks : List Nat) (v : Nat) : State :=
  if !s.reaches (.tspd t) || banks.isEmpty then s
  else if s.locked then s.lockWrite (.tspd t) TSPD.BANK_PWR.off
  else banks.foldl (fun s b =>
    let code := bitsOf v (2 * b + 1) (2 * b)
    if code = 3 then s else s.requestBank t b code) s

/-- BANK_ON_REQUEST (R188). -/
def execBankOnRequest (t : Fin 128) (b : Fin 16) (s : State) : Host.Outcome State Fault Refusal :=
  .next (s.bankPwrWrite t [b.val] (bankOn * 4 ^ b.val))

/-- BANK_RETENTION_REQUEST (R188). -/
def execBankRetentionRequest (t : Fin 128) (b : Fin 16) (s : State) : Host.Outcome State Fault Refusal :=
  .next (s.bankPwrWrite t [b.val] (bankRetention * 4 ^ b.val))

/-- BANK_OFF_REQUEST (R188). -/
def execBankOffRequest (t : Fin 128) (b : Fin 16) (s : State) : Host.Outcome State Fault Refusal :=
  .next (s.bankPwrWrite t [b.val] (bankOff * 4 ^ b.val))

/-- The keys of a bank's bytes within its tile's scratchpad: its 1,024 lines (R184). -/
def inBank (t : Fin 128) (b key : Nat) : Bool := key / spadSize = t.val && bankOf (key % spadSize) = b

/-- Every line of a bank cleared to zero, with its marks (R188). -/
def State.clearBank (s : State) (t : Fin 128) (b : Nat) : State :=
  { s with tiles := { s.tiles with spad := smDrop (inBank t b) s.tiles.spad,
                                   spadPoison := smDrop (inBank t b) s.tiles.spadPoison } }

/-- The clearing of a bank that begins at a time, at a point of its zone: 100 ns, then 1,024 VCLK cycles (R188, R192). -/
def clearingFrom (at_ : Phase) (target point : Nat) : BankTr :=
  ⟨target, at_ + 400, at_ + 400 + 1024 * Unit_.period .vec point, true⟩

/-- The clearing that the banks of a zone's tiles are in after a reset, at a point of the zone (R192). -/
def State.wakeAt (s : State) (z : Fin 8) (point : Nat) : Option BankTr :=
  match smGet none s.tiles.waking z.val with
  | some tr => some tr
  | none => s.tiles.readyAt.map fun e => clearingFrom e bankOn point

/-- A bank has reached a state; a request that waited starts from it (R188). -/
def State.bankReached (s : State) (t : Fin 128) (b code : Nat) : State :=
  let s1 := (s.setBankTr t b none).showBank t b code
  if smGet false s1.tiles.bankWait (bankKey t b) then s1.startBank t b else s1

/-- BANK_TRANSITION_DONE: a transition ends, or the bank of a tile that was reset becomes ON (R188, R192). -/
def execBankTransitionDone (t : Fin 128) (b : Fin 16) (s : State) : Host.Outcome State Fault Refusal :=
  .next (match s.bankTr t b.val with
    | some tr =>
      let s1 := s.advanceTo tr.endsAt
      (if tr.clears then s1.clearBank t b.val else s1).bankReached t b.val tr.target
    | none =>
      let point := s.fld (.zn (zoneOf t.val)) ZN.STATUS_OP
      match s.wakeAt (zoneOf t.val) point with
      | some tr =>
        if s.bankState t b.val = bankWaking && point ≠ 3 then (s.advanceTo tr.endsAt).bankReached t b.val bankOn else s
      | none => s)

/-- The tiles of a zone. -/
def zoneTiles (z : Fin 8) : List (Fin 128) := (List.finRange 128).filter fun t => tileZone t.val = z.val

/-- A bank of a zone that enters OFF: ON and a transition to ON end in RETENTION, and a clearing in OFF; what it is asked for then
starts, or waits for the zone (R188, R190; log 34). -/
def State.bankZoneOff (s : State) (t : Fin 128) (b : Nat) : State :=
  let s1 := match s.bankTr t b with
    | some tr =>
      if tr.clears then (s.setBankTr t b none).showBank t b bankOff
      else if tr.target = bankOn then (s.setBankTr t b none).showBank t b bankRetention
      else s
    | none => if s.bankState t b = bankOn then s.showBank t b bankRetention else s
  if (s1.bankTr t b).isSome || s1.bankState t b = bankWaking then s1 else s1.startBank t b

/-- A transition when the zone goes from one point that runs to another: each cycle of a clearing that is still to come counts at the
new rate (R188). -/
def BankTr.repace (tr : BankTr) (now : Phase) (old new : Nat) : BankTr :=
  if !tr.clears || tr.endsAt ≤ now then tr
  else
    let f := max now tr.from_
    { tr with endsAt := f + (tr.endsAt - f) * Unit_.period .vec new / Unit_.period .vec old }

/-- The clearing after a reset follows the points of a zone: it begins when the zone leaves OFF (R188, R192). -/
def State.wakeFollows (s : State) (z : Fin 8) (old new : Nat) : State :=
  let w : Option BankTr :=
    if old = 3 then s.tiles.readyAt.map fun _ => clearingFrom s.clk.phase bankOn new
    else (s.wakeAt z old).map fun tr => tr.repace s.clk.phase old new
  if new = 3 then s else { s with tiles := { s.tiles with waking := smSet none s.tiles.waking z.val w } }

/-- What a zone's change of point does to its banks (R188, R190). -/
def State.banksFollow (s0 : State) (z : Fin 8) (old new : Nat) : State :=
  if old = new then s0
  else (zoneTiles z).foldl (fun s t => (List.range 16).foldl (fun s b =>
    if new = 3 then s.bankZoneOff t b
    else match s.bankTr t b with
      | some tr => if old = 3 then s else s.setBankTr t b (some (tr.repace s.clk.phase old new))
      | none => if old = 3 && s.bankState t b != bankWaking then s.startBank t b else s) s) (s0.wakeFollows z old new)

/-! Pools and buffers. -/

/-- Size of a class: 1 KiB, 4 KiB, 16 KiB, 64 KiB, 256 KiB, and the 1 MiB reserve (R193). -/
def classSize (c : Nat) : Nat := 1024 * 4 ^ c

/-- The smallest class that holds a size (R195). -/
def classFor (size : Nat) : Nat := ((List.range 5).find? fun c => size ≤ classSize c).getD 5

/-- Buffers of a class, and the first ID of the class. -/
def Pool.count (p : Pool) (c : Nat) : Nat := p.counts.getD c 0
def Pool.classBase (p : Pool) (c : Nat) : Nat := p.idBase + (p.counts.take c).sum

/-- Number of buffers of a pool. -/
def Pool.total (p : Pool) : Nat := p.counts.sum

/-- Whether a pool holds a buffer ID. -/
def Pool.holds (p : Pool) (id : Nat) : Bool := p.idBase ≤ id && id < p.idBase + p.total

/-- Class of a buffer of a pool. -/
def Pool.classOf (p : Pool) (id : Nat) : Nat :=
  ((List.range 6).find? fun c => id < p.classBase c + p.count c).getD 5

/-- Address of a buffer: the buffers lie from BASE, class by class (R193). -/
def Pool.addr (p : Pool) (id : Nat) : Nat :=
  let c := p.classOf id
  p.base + ((List.range c).map fun i => p.count i * classSize i).sum + (id - p.classBase c) * classSize c

/-- The enabled pool of a number. -/
def State.pool (s : State) (n : Nat) : Option Pool := smGet none s.coop.pools n

/-- The enabled pool that holds a buffer ID. -/
def State.poolOf (s : State) (id : Nat) : Option (Nat × Pool) :=
  s.coop.pools.findSome? fun e => match e.2 with
    | some p => if p.holds id then some (e.1, p) else none
    | none => none

/-- A buffer. -/
def State.buf (s : State) (id : Nat) : Buf := smGet Buf.initial s.coop.bufs id

/-- Replace a buffer. -/
def State.setBuf (s : State) (id : Nat) (b : Buf) : State :=
  { s with coop := { s.coop with bufs := smSet Buf.initial s.coop.bufs id b } }

/-- Free buffers of a class of a pool (R205). -/
def State.freeCount (s : State) (p : Pool) (c : Nat) : Nat :=
  p.count c - (s.coop.bufs.filter fun e => e.2.live && p.classBase c ≤ e.1 && e.1 < p.classBase c + p.count c).length

/-- The free buffer of a class with the lowest ID; one freed in this cycle is open from the next (R195, R201). -/
def State.freeBuf (s : State) (p : Pool) (c : Nat) : Option Nat :=
  ((List.range (p.count c)).map fun i => p.classBase c + i).find? fun id => !(s.buf id).live && !s.coop.freed.contains id

/-- The search of R195 from a class: the buffer found and the fall-back steps taken. -/
def State.search (s : State) (p : Pool) : Nat → Nat → Nat → Option Nat × Nat
  | 0, _, steps => (none, steps)
  | fuel + 1, c, steps =>
    match s.freeBuf p c with
    | some id => (some id, steps)
    | none => if c ≥ 5 then (none, steps) else s.search p fuel (c + 1) (steps + 1)

/-- Unit IDs that may own a buffer: tile units, kilns, racks, the lauter engine and port ingress (R200). -/
def ownerId (u : Nat) : Bool :=
  (u < 0x800 && u % 16 ≤ 5) || (0x800 ≤ u && u < 0x880 && (u % 16 = 9 || u % 16 = 10)) || u = 0x908 ||
    (0xA00 ≤ u && u < 0xA0C)

/-- Unit IDs of the lauter engine, a tile's transfer engine, and the ingress of a switch input (R200; log 35). -/
def lauterUnit : BitVec 16 := 0x0908
def xferUnit (t : Fin 128) : BitVec 16 := BitVec.ofNat 16 (16 * t.val + 5)
def ingressUnit (input : Nat) : BitVec 16 := BitVec.ofNat 16 (0x0A00 + input)

/-- Free a live buffer (R199 to R201). -/
def State.freeBuffer (s : State) (id : Nat) : State :=
  let s1 := s.setBuf id Buf.initial
  { s1 with coop := { s1.coop with freed := s1.coop.freed ++ [id] } }

/-- A release acts (R199, R200). -/
def State.releaseNow (s0 : State) (unit : BitVec 16) (id : Nat) : State :=
  let s1 := s0.count .coop COOP.RELEASE_CNT
  let b := s1.buf id
  match s1.poolOf id, b.live with
  | some (_, p), true =>
    if p.named then
      if b.owner = unit then s1.freeBuffer id else s1.tally .coop COOP.FOREIGN_CNT COOP.EV_FOREIGN_RELEASE
    else if b.count ≤ 1 then s1.freeBuffer id
    else s1.setBuf id { b with count := b.count - 1 }
  | _, _ => s1.tally .coop COOP.STRAY_CNT COOP.EV_STRAY_RELEASE

/-- An MCLK cycle begins: the ports take eight requests and eight releases more (R196, R201). -/
def State.coopAt (s : State) (cycle : Nat) : State :=
  if s.coop.cycle ≥ cycle then s
  else { s with coop := { s.coop with cycle := cycle, accepted := 0, releases := 0, freed := [] } }

/-- A release reaches the ports of the cycle that is running: the ninth is ignored (R201). -/
def State.portRelease (s : State) (unit : BitVec 16) (id : Nat) : State :=
  if s.coop.releases ≥ 8 then s.tally .coop COOP.PORT_LIMIT_CNT COOP.EV_PORT_LIMIT
  else ({ s with coop := { s.coop with releases := s.coop.releases + 1 } }).releaseNow unit id

/-- The low-water marks of a pool's classes 0 to 3 take its free counts where those are lower, or start from them (R205). -/
def State.poolLow (s : State) (n : Nat) (p : Pool) (fresh : Bool) : State :=
  let old := s.fld .coop (COOP.POOL_LOW n)
  let v := (List.range 4).map fun c =>
    let f := min 65535 (s.freeCount p c)
    (if fresh then f else min f (bitsOf old (16 * c + 15) (16 * c))) * 2 ^ (16 * c)
  s.setFld .coop (COOP.POOL_LOW n) v.sum

/-- The low-water marks of every pool start from its free counts; a pool that is not enabled has none (R205). -/
def State.poolsLow (s : State) : State :=
  (List.range 16).foldl (fun s n => match s.pool n with
    | some p => s.poolLow n p true
    | none => s.setFld .coop (COOP.POOL_LOW n) 0) s

/-- A request fails: counted for its pool and in all (R197). -/
def State.allocFails (s : State) (n : Nat) : State :=
  (if (s.pool n).isSome then s.count .coop (COOP.POOL_FAIL n) else s).count .coop COOP.FAIL_CNT

/-- Whether a request names what R196 refuses: no enabled pool, a size out of range, a count of 0, a reserved owner. -/
def reqBad (p : Option Pool) (size : Nat) (init : BitVec 16) : Bool :=
  match p with
  | none => true
  | some q => size = 0 || size > 2 ^ 20 || (if q.named then !ownerId init.toNat else init = 0 || init.toNat > 255)

/-- Accept an allocation request in the cycle that is running: the buffer, and the MCLK cycles to its completion (R195 to R198). -/
def State.accept (s : State) (n size : Nat) (init : BitVec 16) : (Option Nat × Nat) × State :=
  if s.coop.accepted ≥ 8 then
    ((none, 14), (s.tally .coop COOP.PORT_LIMIT_CNT COOP.EV_PORT_LIMIT).allocFails n)
  else
    let s1 := { s with coop := { s.coop with accepted := s.coop.accepted + 1 } }
    let p := s1.pool n
    if reqBad p size init then ((none, 14), (s1.tally .coop COOP.REQ_BAD_CNT COOP.EV_REQ_BAD).allocFails n)
    else match p with
      | none => ((none, 14), s1)
      | some q =>
        let r := s1.search q 6 (classFor size) 0
        let s2 := s1.countN .coop COOP.FALLBACK_CNT r.2
        match r.1 with
        | none => ((none, 14), (s2.allocFails n).raise .coop COOP.EV_ALLOC_FAIL)
        | some id =>
          let b : Buf := ⟨true, if q.named then 0 else init.toNat, if q.named then init else 0, 0⟩
          ((some id, 4 + 2 * r.2), (s2.setBuf id b).poolLow n q false)

/-- What a unit has sent acts in its cycle: a request is answered when its time has passed (R195, R201). -/
def CoopDue.serve (d : CoopDue) (s : State) : State :=
  let s1 := s.coopAt (d.at_ / 2)
  match d.act with
  | .release id => s1.portRelease d.unit id
  | .ask n size init =>
    let x := s1.accept n size init
    { x.2 with coop := { x.2.coop with
        waiting := x.2.coop.waiting ++ [⟨(d.at_ / 2 + x.1.2) * 2, d.unit, x.1.1.map fun id => BitVec.ofNat 16 id⟩] } }

/-- Order in which what units send acts: by MCLK cycle; in one cycle the requests, then the releases, whose buffers are open from the
next; each in order of unit ID (R196, R201). -/
def CoopDue.order (d : CoopDue) : Nat := (d.at_ / 2 * 2 + d.isRelease.toNat) * 65536 + d.unit.toNat

/-- What units have sent that comes before a place in that order acts (R196, R201). -/
def State.coopBefore (s : State) (k : Nat) : State :=
  let now := fun (d : CoopDue) => decide (d.order < k)
  (sortOn CoopDue.order (s.coop.due.filter now)).foldl (fun s (d : CoopDue) => d.serve s)
    { s with coop := { s.coop with due := s.coop.due.filter fun d => !now d } }

/-- First place in that order of an MCLK cycle. -/
def coopPlace (cycle : Nat) : Nat := cycle * 2 * 65536

/-- The MCLK cycle that is running, after what units sent for earlier ones (R196, R201). -/
def State.coopCycle (s : State) : State := (s.coopBefore (coopPlace (s.clk.phase / 2))).coopAt (s.clk.phase / 2)

/-- The cooperage as what has been sent by now leaves it, the cycle that is running with it (R201). -/
def State.coopNow (s : State) : State := s.coopBefore (coopPlace (s.clk.phase / 2 + 1))

/-- What host software finds at a page: at COOP, what units sent for earlier cycles has acted (R201; log 46). -/
def State.pageNow (s : State) (p : Page) : State := if p = .coop then s.coopCycle else s

/-- A unit sends a release for a time (R251, R443; log 46). -/
def State.releaseAt (s : State) (t : Phase) (unit : BitVec 16) (id : Nat) : State :=
  { s with coop := { s.coop with due := s.coop.due ++ [⟨t, unit, .release id⟩] } }

/-- An allocation that a unit of the module makes at once, after the requests of this cycle from units before it; it is complete at the
14 cycles that R67 charges (R196; log 35). -/
def State.allocNow (s : State) (unit : BitVec 16) (n size : Nat) (init : BitVec 16) : Option Nat × State :=
  let c := s.clk.phase / 2
  let r := ((s.coopBefore (coopPlace c + unit.toNat + 1)).coopAt c).accept n size init
  (r.1.1, if r.1.1.isSome then r.2.count .coop COOP.ALLOC_CNT else r.2)

/-- A unit sends an allocation request in this cycle (R195, R196). -/
def State.askBuf (s0 : State) (r : AllocReq) : State :=
  let s := s0.coopCycle
  { s with coop := { s.coop with due := s.coop.due ++ [⟨s.clk.phase, r.unit, .ask r.pool.val r.size r.init⟩] } }

/-- ALLOC_REQUEST: it is taken with the other requests of its cycle, in order of unit ID (R195, R196; log 35). -/
def execAllocRequest (r : AllocReq) (s : State) : Host.Outcome State Fault Refusal :=
  .next (if s.running then s.askBuf r else s)

/-- The first element of a list by a key, and the rest. -/
def takeFirst {α : Type} (key : α → Nat) : List α → Option (α × List α)
  | [] => none
  | x :: t =>
    match takeFirst key t with
    | none => some (x, t)
    | some (y, r) => if key y < key x then some (y, x :: r) else some (x, t)

/-- ALLOC_COMPLETE: the allocation that completes first returns its buffer or its failure (R195). -/
def execAllocComplete (s0 : State) : Host.Outcome State Fault Refusal :=
  .next (
    let s := s0.coopNow
    match takeFirst AllocRes.at_ s.coop.waiting with
    | none => s
    | some (r, rest) =>
      let s1 := ({ s with coop := { s.coop with waiting := rest } }).advanceTo r.at_
      (if r.buffer.isSome then s1.count .coop COOP.ALLOC_CNT else s1).send (.alloc r.unit r.buffer))

/-- A unit sends a release in this cycle (R199 to R201). -/
def State.releaseBuf (s0 : State) (unit : BitVec 16) (id : Nat) : State :=
  let s := s0.coopCycle
  s.releaseAt s.clk.phase unit id

/-- RELEASE (R199 to R201). -/
def execRelease (unit : BitVec 16) (buffer : BitVec 16) (s : State) : Host.Outcome State Fault Refusal :=
  .next (if s.running then s.releaseBuf unit buffer.toNat else s)

/-- At a step start every buffer of a STEP_SCOPED pool is freed, and the low-water marks start again (R202, R205). -/
def State.coopStepStart (s0 : State) : State :=
  let s := s0.coopNow
  let perStep := fun id => match s.poolOf id with
    | some (_, p) => p.stepScoped
    | none => false
  let s1 := { s with coop := { s.coop with bufs := smDrop perStep s.coop.bufs } }
  s1.poolsLow

/-- Live buffers, saturating (R205). -/
def State.liveCount (s : State) : Nat := min 65535 (s.coop.bufs.countP fun e => e.2.live)

/-- COOP_QUERY of a buffer ID (R205). -/
def State.coopQuery (s : State) (id : Nat) : Nat :=
  match s.poolOf id with
  | none => 0
  | some (n, p) =>
    let b := s.buf id
    n + p.classOf id * 2 ^ 4 + b.live.toNat * 2 ^ 7 + (if p.named then b.owner.toNat * 2 ^ 16 else b.count * 2 ^ 8) +
      b.valid * 2 ^ 32 + 2 ^ 63

end Sys2Proof.Machine
end

