-- ==== Sys2Proof/Machine/Cells.lean ====
section
/-! DEFINITION. Cells, their checks, channel entries, slot runs and the topology of a hall (R206 to R219, R229, R231, R232). -/
namespace Sys2Proof.Machine

/-! Cells. -/

/-- Cell kinds (R211). -/
def kHead : Nat := 0
def kBody : Nat := 1
def kBeHead : Nat := 2
def kReduce : Nat := 3

/-- The 512 bits of a cell (R211). -/
def cellBits (c : FCell) : Nat :=
  c.kind.toNat + c.channel.toNat * 2 ^ 2 + c.index.toNat * 2 ^ 18 + c.missing.toNat * 2 ^ 24 + c.deflected.toNat * 2 ^ 25 +
    c.poison.toNat * 2 ^ 26 + c.hop.toNat * 2 ^ 27 + c.body.toNat * 2 ^ 32

/-- The cell that 512 bits spell (R211). -/
def cellOf (v : Nat) : FCell :=
  ⟨BitVec.ofNat 2 v, BitVec.ofNat 16 (bitsOf v 17 2), BitVec.ofNat 6 (bitsOf v 23 18), bitOf v 24, bitOf v 25, bitOf v 26,
    BitVec.ofNat 5 (bitsOf v 31 27), BitVec.ofNat 480 (bitsOf v 511 32)⟩

/-- A cell of a kind on a channel with an index and bytes 4 to 63. -/
def mkCell (kind : Nat) (ch : BitVec 16) (index : Nat) (poison : Bool) (body : Nat) : FCell :=
  ⟨BitVec.ofNat 2 kind, ch, BitVec.ofNat 6 index, false, false, poison, 0, BitVec.ofNat 480 body⟩

/-- The data bytes of a cell: 40 after a route field, or 60 (R211, R212). -/
def cellData (c : FCell) : List Byte :=
  if c.kind = 0 || c.kind = 2 then leBytes 40 (c.body.toNat / 2 ^ 160) else leBytes 60 c.body.toNat

/-- Where a cell's first data byte lies in its message (R212). -/
def cellOffset (c : FCell) : Nat := if c.kind = 1 then 40 + 60 * (c.index.toNat - 1) else 0

/-- One byte more of a CRC of `w` bits, most significant bit first, not reflected (R208, R229). -/
def crcStep (w poly c b : Nat) : Nat :=
  (List.range 8).foldl (fun c _ =>
    if c ≥ 2 ^ (w - 1) then (c * 2 % 2 ^ w) ^^^ poly else c * 2) (c ^^^ b * 2 ^ (w - 8))

/-- CRC of the first `n` bytes of a number, least significant byte first. -/
def crcOf (w poly init n v : Nat) : Nat := (List.range n).foldl (fun c i => crcStep w poly c (v / 256 ^ i % 256)) init

/-- CRC-16 of a cell's 512 bits (R208). -/
def cellCrc16 (v : Nat) : Nat := crcOf 16 0x1021 0xFFFF 64 v

/-- CRC-64 of a cell's 512 bits (R229). -/
def cellCrc64 (v : Nat) : Nat := crcOf 64 0x42F0_E1EB_A9EA_3693 0 64 v

/-! Channel entries. -/

/-- An empty entry: KIND 7 (R215). -/
def emptyEntry : BitVec 256 := BitVec.ofNat 256 7

/-- The entry of a channel; a channel beyond the section has none (R215). -/
def State.chanEntry (s : State) (ch : BitVec 16) : Nat := (smGet emptyEntry s.fab.channels ch.toNat).toNat

/-- Fields of an entry (R215). -/
def ceKind (e : Nat) : Nat := e % 8
def ceSecond (e : Nat) : Bool := bitOf e 3
def ceTile (e : Nat) : Nat := bitsOf e 14 8
def ceMode (e : Nat) : Nat := bitsOf e 16 15
def cePool (e : Nat) : Nat := bitsOf e 20 17
def ceAddr (e : Nat) : Nat := bitsOf e 53 32
def ceStride (e : Nat) : Nat := bitsOf e 63 54 * 64
def ceInit (e : Nat) : BitVec 16 := BitVec.ofNat 16 (bitsOf e 79 64)
def ceRoute (e : Nat) : Nat := bitsOf e 255 96
def ceOp (e : Nat) : Nat := bitsOf e 99 96
def ceFmt (e : Nat) : Nat := bitsOf e 103 100
def ceHyd (e : Nat) : Nat := bitsOf e 115 104
def ceTensor (e : Nat) : Nat := bitsOf e 127 116
def ceInMask (e : Nat) : Nat := bitsOf e 159 128
def ceOut (e : Nat) : Nat := bitsOf e 164 160
def ceCopyLocal (e : Nat) : Bool := bitOf e 165
def ceEpoch (e : Nat) : Nat := bitsOf e 191 176

/-- Channel kinds (R215). -/
def chUnicast : Nat := 0
def chMulticast : Nat := 1
def chReduction : Nat := 2
def chLauter : Nat := 3
def chRack : Nat := 4
def chBackground : Nat := 5
def chEmpty : Nat := 7

/-- DIGEST (R227). -/
def opDigest : Nat := 6

/-- The initial count or owner of a request by a channel, as the mode of its pool gives it (R195, R215). -/
def State.chanInit (s : State) (e : Nat) : BitVec 16 :=
  match s.pool (cePool e) with
  | some p => if p.named then ceInit e else BitVec.ofNat 16 ((ceInit e).toNat % 256)
  | none => ceInit e

/-- Whether a channel belongs to second runnings: by its entry, or by the carve-out's channel range (R215, R315). -/
def State.chanSecond (s : State) (ch : BitVec 16) : Bool :=
  let e := s.chanEntry ch
  if ceKind e ≠ chEmpty then ceSecond e else
    match s.sch.img with
    | some m => match m.bubbles.head? with
      | some b => b.chBase ≤ ch.toNat && ch.toNat < b.chBase + b.chCount
      | none => false
    | none => false

/-! Slot runs. -/

/-- A slot run (R219). -/
structure Run where
  start : Nat
  lane : Nat
  kind : Nat
  channel : Nat
  count : Nat
deriving DecidableEq, Repr

/-- The run that 16 bytes spell (R219). -/
def runOf (v : Nat) : Run := ⟨bitsOf v 33 0, bitsOf v 35 34, bitsOf v 38 36, bitsOf v 55 40, bitsOf v 95 64⟩

/-- A section of the primary image: its address in HBM and its length (R50, R51). -/
def State.section (s : State) (typ inst : Nat) : Option (Nat × Nat) :=
  match s.sch.img with
  | some m => (m.dir.find? fun d => d.typ = typ && d.inst = inst).map fun d => (m.base + d.off, d.len)
  | none => none

/-- Number of runs in the section of a port (R219). -/
def State.runCount (s : State) (inst : Nat) : Nat :=
  match s.section 4 inst with
  | some x => x.2 / 16
  | none => 0

/-- Front of a port's run ring. -/
def runKey (inst : Nat) : Nat := 1024 + inst

/-- Runs in a quarter of a port's ring (R220). -/
def quarterRuns : Nat := 1024

/-- A run as the port's ring holds it or, before the ring has read it, as the section in HBM does (R57, R220). -/
def State.run (s : State) (inst i : Nat) : Run :=
  match (s.front (runKey inst)).words.find? fun w => w.1 = i with
  | some w => runOf w.2.1
  | none => match s.section 4 inst with
    | some x => runOf (s.peekNat .inter (x.1 + 16 * i) 16)
    | none => runOf 0

/-- Whether a run's quarter is in a ring at a time. -/
def Front.holds (f : Front) (i : Nat) (t : Phase) : Bool := f.usable.any fun q => q.1 = i / quarterRuns && q.2 ≤ t

/-- Whether a run's quarter is in the ring at a time, and it was read without POISON (R57, R220). -/
def State.runHeld (s : State) (inst i : Nat) (t : Phase) : Bool :=
  let f := s.front (runKey inst)
  f.holds i t && f.words.any fun w => w.1 = i && !w.2.2

/-- Slot period of an edge switch's output in phases (R206, R219). -/
def outPeriod (out : Nat) : Nat := if out < 6 then 1 else 2

/-- The channel and kind that a run reserves a lane's slot at a time for, in a timed step (R219, R220). -/
def State.reserved (s : State) (inst lane : Nat) (t : Phase) : Option (Nat × Nat) :=
  if s.sch.regime != .timed || t < s.sch.startPhase || (t - s.sch.startPhase) % outPeriod inst ≠ 0 then none
  else
    let slot := (t - s.sch.startPhase) / outPeriod inst
    let f := s.front (runKey inst)
    (f.words.find? fun w =>
      let r := runOf w.2.1
      r.lane = lane && r.start ≤ slot && slot < r.start + r.count && !w.2.2 && f.holds w.1 t).map fun w =>
        ((runOf w.2.1).channel, (runOf w.2.1).kind)

/-- Whether a run that the ring does not hold at a time, its quarter being late, has a lane's slot for a channel: scheduled cells still
pass in its slots (R220). -/
def State.lateRun (s : State) (inst lane ch : Nat) (t : Phase) : Bool :=
  let slot := (t - s.sch.startPhase) / outPeriod inst
  (List.range (s.runCount inst)).any fun i =>
    let r := s.run inst i
    r.channel = ch && r.lane = lane && r.start ≤ slot && slot < r.start + r.count && !(s.front (runKey inst)).holds i t

/-! Topology. -/

/-- Whether a link port is on the east edge (R206). -/
def portEast (p : Nat) : Bool := [3, 4, 5, 9, 10, 11].contains p

/-- LNK page of a port. -/
def lnkPage (p : Nat) : Page := .lnk ⟨p % 12, Nat.mod_lt _ (by decide)⟩

/-- States of a port (R233). -/
def portDisabled : Nat := 0
def portTraining : Nat := 1
def portLocked : Nat := 2
def portAdmitted : Nat := 3
def portDown : Nat := 4

/-- State of a port. -/
def State.portState (s : State) (p : Nat) : Nat := s.fld (lnkPage p) LNK.STATUS_STATE

/-- Whether a port carries cells. -/
def State.admitted (s : State) (p : Nat) : Bool := s.portState p = portAdmitted

/-- The module's hall ID. -/
def State.hallId (s : State) : Nat := s.fld .swx SWX.HALL_ID_HALL_ID

/-- Ways along a torus dimension that shorten the distance: up, down, or both when they are equal (R232). -/
def torusWays (n a b : Nat) : Bool × Bool :=
  let m := max 1 n
  let up := (b + m - a % m) % m
  let down := (a + m - b % m) % m
  (up ≠ 0 && up ≤ down, down ≠ 0 && down ≤ up)

/-- The link ports that shorten the distance to a hall ID, ascending (R206, R231, R232; log 36). -/
def State.productive (s : State) (dest : Nat) : List Nat :=
  let me := s.hallId
  let du := (dest % 4 + 4 - me % 4) % 4
  let dv := (dest / 4 % 4 + 4 - me / 4 % 4) % 4
  let row := if du = 1 then [0] else if du = 3 then [1] else if du = 2 then [3] else []
  let col := if dv = 1 then [2] else if dv = 2 then [4] else if dv = 3 then [5] else []
  let way := fun (i : Fin 3) (lo up down : Nat) =>
    let w := torusWays (Config.hallSize i) (bitsOf me (lo + 3) lo) (bitsOf dest (lo + 3) lo)
    (if w.1 then [up] else []) ++ (if w.2 then [down] else [])
  let torus := if du = 0 ∧ dv = 0 then way 0 4 6 7 ++ way 1 8 8 9 ++ way 2 12 10 11 else []
  portList12.filter fun p => (row ++ col ++ torus).contains p
where
  portList12 : List Nat := List.range 12

/-- The port codes of R214 that name link ports. -/
def routePorts (code : Nat) : List Nat :=
  if code ≤ 11 then [code] else if code = 13 then [0, 1, 3] else if code = 14 then [2, 4, 5] else []

/-- ROUTE[h] and COPY bit h of a head (R213). -/
def cellRoute (c : FCell) (h : Nat) : Nat := bitsOf c.body.toNat (4 * h + 3) (4 * h)
def cellCopy (c : FCell) (h : Nat) : Bool := bitOf c.body.toNat (128 + h)

/-- Fields of a best-effort head (R213). -/
def destHall (c : FCell) : Nat := bitsOf c.body.toNat 15 0
def destUnit (c : FCell) : Nat := bitsOf c.body.toNat 23 16
def cellLen (c : FCell) : Nat := bitsOf c.body.toNat 26 24 + 1
def destAddr (c : FCell) : Nat := bitsOf c.body.toNat 53 32

/-- DEST_UNIT of Zhexal (R213). -/
def unitZhexal : Nat := 0x80

end Sys2Proof.Machine
end

