-- ==== Sys2Proof/Machine/Switch.lean ====
section
/-! DEFINITION. The edge switches and the mesh routers: grants, latches, deflection, and delivery (R214 to R218, R221 to R225,
R232, R235, R317). -/
namespace Sys2Proof.Machine

/-! Outputs.  An edge switch numbers its outputs as IN_MASK numbers inputs; a router numbers local 0, west 1, east 2, north 3,
south 4, central 5, in the order of its inputs (R223, R437; log 37). -/

/-- Whether a switch is the east edge switch. -/
def swIsEast : Sw → Bool
  | .east => true
  | _ => false

/-- Whether a switch is a mesh router. -/
def swIsRouter : Sw → Bool
  | .router _ => true
  | _ => false

/-- Traversal in phases: 4 ns in an edge switch, 1 MCLK cycle in a router (R221). -/
def swTraverse : Sw → Nat
  | .router _ => 2
  | _ => 16

/-- The edge switch of an edge. -/
def edgeSw (east : Bool) : Sw := if east then .east else .west

/-- Mesh edge port of a row (R215). -/
def meshPort (east : Bool) (r : Nat) : Nat := (if east then 24 else 16) + r

/-- Number of lanes of an output: one toward a link, four on the mesh (R219). -/
def laneList (sw : Sw) (out : Nat) : List Nat := if !(swIsRouter sw) && out < 12 then [0] else [0, 1, 2, 3]

/-- Slot period of an input in phases (R206, R219). -/
def inPeriod (sw : Sw) (input : Nat) : Nat := if (swIsRouter sw) then 2 else outPeriod input

/-- Router outputs that lead to another switch from a tile, ascending. -/
def routerOuts (t : Nat) : List Nat :=
  [1, 2] ++ (if t / 16 = 0 then [] else [3]) ++ (if t / 16 = 7 then [] else [4])

/-- The outputs of a switch that a deflected head may take, ascending. -/
def swOuts : Sw → List Nat
  | .router t => routerOuts t.val
  | sw => (List.range 12).filter (fun p => portEast p = (swIsEast sw)) ++ (List.range 8).map (meshPort (swIsEast sw))

/-- The router of a tile. -/
def routerOf (t : Nat) : Sw := .router ⟨t % 128, Nat.mod_lt _ (by decide)⟩

/-- Where an output of this module leads: the next switch, its input, and the phases from the output to it (R66, R67). -/
def State.leads (s : State) (sw : Sw) (out : Nat) : Option (Sw × Nat × Nat) :=
  match sw with
  | .router t =>
    let n := t.val
    let to_ := fun (m i : Nat) => some (routerOf m, i, s.crossing n m)
    match out with
    | 1 => if n % 16 = 0 then some (.west, meshPort false (n / 16), 0) else to_ (n - 1) 2
    | 2 => if n % 16 = 15 then some (.east, meshPort true (n / 16), 0) else to_ (n + 1) 1
    | 3 => if n / 16 = 0 then none else to_ (n - 16) 4
    | 4 => if n / 16 = 7 then none else to_ (n + 16) 3
    | _ => none
  | .west => if 16 ≤ out then some (routerOf (16 * (out % 8)), 1, 2) else none
  | .east => if 16 ≤ out then some (routerOf (16 * (out % 8) + 15), 2, 2) else none

/-! Occupation of outputs. -/

/-- The latched path that holds a lane of an output at a slot edge (R223). -/
def State.holder (s : State) (sw : Sw) (out lane : Nat) (t : Phase) : Option Latch :=
  s.fab.latches.find? fun l => l.sw = sw && l.aliveAt t && l.fate = .pass && l.outs.any fun o => o.out = out && o.lane = lane

/-- Whether a cell without a path takes a lane of an output in a slot. -/
def State.isTaken (s : State) (sw : Sw) (out lane : Nat) (t : Phase) : Bool :=
  s.fab.taken.any fun x => x.sw = sw && x.out = out && x.lane = lane && x.at_ = t

/-- What reserves a lane's slot; routers have no runs (R219). -/
def State.reservedAt (s : State) (sw : Sw) (out lane : Nat) (t : Phase) : Option (Nat × Nat) :=
  if (swIsRouter sw) then none else s.reserved out lane t

/-- Whether a lane takes a scheduled cell of a channel: no scheduled path or cell holds it, and no run reserves it for another
channel (R223). -/
def State.lanesFor (s : State) (sw : Sw) (out : Nat) (ch : BitVec 16) (t : Phase) : List Nat :=
  (laneList sw out).filter fun k =>
    !s.isTaken sw out k (t + (swTraverse sw)) &&
    (match s.holder sw out k t with | some l => l.low | none => true) &&
    (match s.reservedAt sw out k (t + (swTraverse sw)) with | some r => r.1 = ch.toNat | none => true)

/-- The lane that a scheduled cell takes: one reserved for its channel, else one that no path holds, else the first. -/
def State.pickLane (s : State) (sw : Sw) (out : Nat) (ch : BitVec 16) (t : Phase) : Option Nat :=
  let ks := s.lanesFor sw out ch t
  match ks.find? fun k => (s.reservedAt sw out k (t + (swTraverse sw))).isSome with
  | some k => some k
  | none => match ks.find? fun k => (s.holder sw out k t).isNone with
    | some k => some k
    | none => ks.head?

/-- Whether an output is closed to best-effort heads: BE_EN clear, a port not ADMITTED, or one whose runs are late (R220, R223,
R238). -/
def State.closedToBe (s : State) (sw : Sw) (out : Nat) : Bool :=
  !s.flag .swx SWX.CTRL_BE_EN || (!(swIsRouter sw) && ((out < 12 && !s.admitted out) || s.fab.closed.contains out))

/-- The lane of an output whose next `n` slots a best-effort message finds free (R223, R225). -/
def State.freeLane (s : State) (sw : Sw) (out n : Nat) (t : Phase) : Option Nat :=
  if s.closedToBe sw out then none else
    (laneList sw out).find? fun k =>
      (s.holder sw out k t).isNone && !s.isTaken sw out k (t + (swTraverse sw)) &&
      (List.range n).all fun i => (s.reservedAt sw out k (t + (swTraverse sw) + i * inPeriod sw out)).isNone

/-- The lane of an output whose slot is reserved for a BACKGROUND channel and free (R223). -/
def State.backgroundLane (s : State) (sw : Sw) (out : Nat) (ch : BitVec 16) (t : Phase) : Option Nat :=
  if s.closedToBe sw out then none else
    (laneList sw out).find? fun k =>
      (s.holder sw out k t).isNone && !s.isTaken sw out k (t + (swTraverse sw)) &&
      ((swIsRouter sw) || match s.reservedAt sw out k (t + (swTraverse sw)) with | some r => r.1 = ch.toNat | none => false)

/-- Replace a latched path by its input and lane. -/
def State.setLatch (s : State) (l : Latch) : State :=
  { s with fab := { s.fab with
      latches := s.fab.latches.filter (fun m => !(m.sw = l.sw && m.input = l.input && m.lane = l.lane)) ++ [l] } }

/-- The path latched for an input and lane. -/
def State.latchAt (s : State) (sw : Sw) (input lane : Nat) : Option Latch :=
  s.fab.latches.find? fun l => l.sw = sw && l.input = input && l.lane = lane

/-- Release the path of an input and lane (R222). -/
def State.release (s : State) (sw : Sw) (input lane : Nat) : State :=
  match s.latchAt sw input lane with
  | none => s
  | some l => l.finish { s with fab := { s.fab with
      latches := s.fab.latches.filter fun m => !(m.sw = sw && m.input = input && m.lane = lane) } }

/-- A scheduled cell takes a lane from a best-effort message, whose remaining cells are dropped (R223). -/
def State.displace (s : State) (sw : Sw) (out lane : Nat) (t : Phase) : State :=
  match s.holder sw out lane t with
  | some l => if l.low then s.setLatch { l with fate := .trunc } else s
  | none => s

/-! Cells leaving. -/

/-- A dropped scheduled cell sets its cause in a timed step (R22, R215, R235). -/
def State.droppedCell (s : State) (ch : BitVec 16) : State :=
  if s.sch.regime = .timed then s.invalid (s.chanSecond ch) .dropped else s

/-- A cell that calls for a channel entry that is empty (R215, R226). -/
def State.noChannel (s : State) (ch : BitVec 16) : State :=
  (s.tally .swx SWX.NO_CHANNEL_CNT SWX.EV_NO_CHANNEL).droppedCell ch

/-- Whether the tallies of R229 cover a cell: in a timed step, neither best effort, nor BACKGROUND, nor of a DIGEST channel. -/
def State.tallied (s : State) (be bg : Bool) (c : FCell) : Bool :=
  s.sch.regime = .timed && !be && !bg &&
    !(c.kind = 3 && ceKind (s.chanEntry c.channel) = chReduction && ceOp (s.chanEntry c.channel) = opDigest)

/-- Count a cell in a port's tally of one direction (R229). -/
def State.tallySent (s : State) (p : Nat) (c : FCell) : State :=
  { s.count (lnkPage p) LNK.TALLY_SENT with fab := { s.fab with
      sentCrc := smSet 0 s.fab.sentCrc p (smGet 0 s.fab.sentCrc p ^^^ BitVec.ofNat 64 (cellCrc64 (cellBits c))) } }

def State.tallyRecv (s : State) (p : Nat) (c : FCell) : State :=
  { s.count (lnkPage p) LNK.TALLY_RECV with fab := { s.fab with
      recvCrc := smSet 0 s.fab.recvCrc p (smGet 0 s.fab.recvCrc p ^^^ BitVec.ofNat 64 (cellCrc64 (cellBits c))) } }

/-- A scheduled cell that leaves an edge switch in a slot that no run reserves for its channel; one whose run is late passes (R220,
R223). -/
def State.runCheck (s : State) (sw : Sw) (out lane : Nat) (ch : BitVec 16) (t : Phase) : State :=
  if s.sch.regime != .timed || (swIsRouter sw) || (s.reservedAt sw out lane t).any (fun r => r.1 = ch.toNat) ||
    s.lateRun out lane ch.toNat t then s
  else (s.tally .swx SWX.RUN_MISMATCH_CNT SWX.EV_RUN_MISMATCH).schedFault (s.chanSecond ch) .slotCollision s.nowhere

/-- A cell leaves through a link port, in the position of a codeword whose slot it takes and with its CRC-16, or is dropped there when
the port is not ADMITTED (R208, R229, R235). -/
def State.sendLink (s : State) (p : Nat) (t : Phase) (be bg : Bool) (c : FCell) : State :=
  if s.admitted p then
    let n := smGet (0, 0) s.fab.idle p
    let s0 := s.count (lnkPage p) LNK.CELL_TX_CNT
    let s1 := { s0 with fab := { s0.fab with idle := smSet (0, 0) s0.fab.idle p (n.1, n.2 + 1) } }
    (if s1.tallied be bg c then s1.tallySent p c else s1).send (.cell p t c (BitVec.ofNat 16 (cellCrc16 (cellBits c))))
  else
    let s1 := s.tally (lnkPage p) LNK.DEAD_PORT_DROP_CNT LNK.EV_DEAD_PORT_DROP
    if be || bg then s1 else s1.droppedCell c.channel

/-- Put a cell on its way to a switch input. -/
def State.fly (s : State) (f : Flight) : State := { s with fab := { s.fab with flight := s.fab.flight ++ [f] } }

/-- A cell of a latched path leaves through one of its outputs at time `t` (R214, R221, R225). -/
def State.emit (s : State) (l : Latch) (o : OutPath) (t : Phase) (c : FCell) : State :=
  let c1 := if o.inc then { c with hop := c.hop + 1 } else c
  let s1 := if l.be || l.bg || l.low then s else s.runCheck l.sw o.out o.lane l.channel t
  if o.ends then s1
  else match s1.leads l.sw o.out with
    | some n => s1.fly ⟨t + n.2.2, n.1, n.2.1, o.lane, c1, o.goal, false⟩
    | none => if o.out < 12 && !(swIsRouter l.sw) then (if s1.admitted o.out then s1 else s).sendLink o.out t l.be l.bg c1 else s1

/-! Delivery. -/

/-- Whether a cell's write breaks the carve-out of a timed step (R317): the banks of a tile, or the HBM range. -/
def State.cellCarved (s : State) (second : Bool) (tile : Option Nat) (r : Range) : Bool :=
  s.sch.regime = .timed && s.sch.img.isSome &&
  match s.carvedHbm with
  | none => second
  | some c => match tile with
    | some t =>
      let own := ((s.bubble t).map Bubble.banks).getD 0
      (banksOf [r]).any fun b => own.getLsbD b != second
    | none => if second then !within r c else overlaps r c

/-- A cell check of R317 fails: the cell is dropped, and its job has a fault; a BACKGROUND cell lost so sets no cause, and is counted
alone (R215, R320). -/
def State.carvedCell (s : State) (second bg : Bool) : State :=
  if bg then s.carveEvent second else s.schedFault second .carveOut s.nowhere

/-- Fabric ingress writes a cell's bytes into a tile's scratchpad: they stand there 2 VCLK cycles after the time `at_`, and 1 later
for each conflict lost (R67, R186, R187, R189, R215, R317; log 38). -/
def State.ingress (s : State) (second bg : Bool) (tile a : Nat) (data : List Byte) (poison : Bool) (at_ : Phase) (loss : Nat) : State :=
  let t : Fin 128 := ⟨tile % 128, Nat.mod_lt _ (by decide)⟩
  let d := data.take (spadSize - a)
  if s.cellCarved second (some t.val) (a, d.length) then s.carvedCell second bg
  else ((s.countN (.tspd t) (TSPD.LOSS_CNT (Rank.ingress.num - 1)) loss).access second t .ingress [(a, d.length)]).later
    [⟨at_ + (2 + loss) * Unit_.period .vec (s.zonePoint (zoneOf t.val)), .spad t a d poison⟩]

/-- Fabric ingress writes a cell's bytes into a buffer of an HBM pool, in a POOL window (R216, R326, R327). -/
def State.ingressHbm (s : State) (second bg : Bool) (id a at_ : Nat) (data : List Byte) (poison : Bool) : State :=
  let pool := ((s.poolOf id).map Prod.fst).getD 16
  if s.cellCarved second none (a, data.length) then s.carvedCell second bg
  else
    let rel := at_ - s.sch.startPhase
    let adm : Admission := fun _ g s => s.admitGran winPool pool (rel / 4) rel g fun s => if bg then s else s.serviceFault second
    s.writeVia adm 0 .inter 0 a data poison (at_ + visibleAfter)

/-- The charge of a cooperage allocation at head arrival: 14 MCLK cycles (R66, R67). -/
def allocCharge : Nat := 28

/-- What a cell of a path leaves at its sink; `t` is the time at which it gets there. -/
def Latch.take (l : Latch) (c : FCell) (t : Phase) (loss : Nat) (s : State) : State :=
  let l1 := { l with poison := l.poison || c.poison, cells := l.cells + 1,
                     head := if c.kind = 1 then l.head else c.body,
                     body := if c.kind = 1 then l.body ++ (cellData c) else l.body }
  let sec := s.chanSecond l.channel
  let bg : Bool := l.bg
  let s1 := match l.sink with
    | .rows tile addr _ buf =>
      s.ingress sec bg tile (addr + (cellOffset c)) (cellData c) c.poison (t + if buf.isSome && c.kind != 1 then allocCharge else 0) loss
    | .hbm id addr =>
      s.ingressHbm sec bg id (addr + (cellOffset c)) (t + if c.kind = 1 then 0 else allocCharge) (cellData c) c.poison
    | .digest edge =>
      { s with sch := { s.sch with results := s.sch.results ++
        [(⟨t - s.sch.startPhase, edge - s.sch.startPhase, c.body, c.missing, c.poison, sec⟩ : DigestRes)] } }
    | _ => s
  s1.setLatch l1

/-- A cell of a granted path passes: out of every output, and into the sink. -/
def State.passCell (s : State) (l : Latch) (c : FCell) (t : Phase) (loss : Nat) : State :=
  let s0 := if l.noChan then s.noChannel l.channel else s
  match l.fate with
  | .gone => s0.setLatch l
  | .trunc => (s0.tally .swx SWX.BE_TRUNC_CNT SWX.EV_BE_TRUNC).setLatch l
  | .pass =>
    let s1 := l.outs.foldl (fun s o => s.emit l o (t + (swTraverse l.sw)) c) s0
    match l.sink with
    | .none => s1.setLatch l
    | _ => l.take c (t + (swTraverse l.sw)) loss s1

/-! Heads. -/

/-- An output that a head wants: candidate output numbers, what follows, and whether the path ends in a sink there. -/
structure Want where
  outs : List Nat
  goal : Goal
  inc : Bool
  ends : Bool
deriving DecidableEq, Repr

/-- What a head asks of a switch: its outputs, the sink here, whether it calls for an empty entry, whether it is dropped for
want of a route entry, and a buffer that its grant uses. -/
structure Ask where
  wants : List Want
  sink : Sink
  noChan : Bool
  hopDrop : Bool
  buf : Option Nat
  deliver : Bool
deriving DecidableEq, Repr

/-- The mesh edge ports of an edge. -/
def meshPorts (east : Bool) : List Nat := (List.range 8).map (meshPort east)

/-- The controller that a rack message's head data names (R310). -/
def headCtrl (c : FCell) : Nat := bitsOf c.body.toNat 174 172

/-- The delivery of a head at this module by its channel's entry, from an input of an edge switch, and the buffer that it takes
(R215, R216, R253, R310, R437).  None when the allocation of R216 fails, which drops the message. -/
def State.localAsk (s : State) (east : Bool) (input : Nat) (c : FCell) : Option (Want × Option Nat) × State :=
  let e := s.chanEntry c.channel
  let m := smGet 0 s.fab.msgs c.channel.toNat
  let row := fun t => [meshPort east (t / 16)]
  if ceKind e = chLauter then (some (⟨[meshPort east 3], .engine (.lauter input) 0, false, false⟩, none), s)
  else if ceKind e = chRack then (some (⟨meshPorts east, .engine .rack (headCtrl c), false, false⟩, none), s)
  else if ceMode e = 3 then
    let r := s.allocNow (ingressUnit input) (cePool e) (ceStride e) (s.chanInit e)
    match r.1, s.pool (cePool e) with
    | some id, some p =>
      if p.scratch then (some (⟨row p.tile, .land 0 p.tile (p.addr id) (some id), false, false⟩, some id), r.2)
      else
        let k := ((interGran (p.addr id)).map granStack).getD 0
        (some (⟨meshPorts east, .engine (.hbm id (p.addr id)) k, false, false⟩, some id), r.2)
    | _, _ => (none, r.2)
  else (some (⟨row (ceTile e), .land (ceMode e) (ceTile e) (ceAddr e + m * ceStride e) none, false, false⟩, none), s)

/-- What a head asks of an edge switch (R214, R218; log 39): the switch that owns a port uses up the route entry that names it;
ports of the other edge are reached by one copy across the mesh. -/
def State.edgeAsk (s : State) (east : Bool) (input : Nat) (c : FCell) (g : Goal) : Ask × State :=
  let own := fun (ps : List Nat) => (ps.filter fun p => portEast p = east).map fun p => (⟨[p], .route, true, false⟩ : Want)
  match g with
  | .ports ps => (⟨own ps, .none, false, false, none, false⟩, s)
  | _ =>
    let h := c.hop.toNat
    let ps := routePorts ((cellRoute c) h)
    let far := ps.filter fun p => portEast p != east
    let end_ := ps ≠ [] ∧ h = 31
    let fwd := if end_ then [] else own ps ++ (if far.isEmpty then [] else [⟨meshPorts east, .ports far, false, false⟩])
    if (cellRoute c) h = 12 || (cellCopy c) h then
      if ceKind (s.chanEntry c.channel) = chEmpty then (⟨fwd, .none, true, end_, none, false⟩, s)
      else
        let r := s.localAsk east input c
        match r.1 with
        | some w => (⟨fwd ++ [w.1], .none, false, end_, w.2, true⟩, r.2)
        | none => (⟨fwd, .none, false, end_, none, false⟩, r.2)
    else (⟨fwd, .none, false, end_, none, false⟩, s)

/-- The edge toward which a router sends a scheduled cell: that of a head's first output, the tile's own when its route starts
with a delivery, or that of a combine's ports (R229, R441; log 39). -/
def combineEast (e : Nat) : Bool :=
  match (List.range 32).find? fun p => bitOf (ceInMask e) p with
  | some p => if p < 12 then portEast p else p ≥ 24
  | none => if ceOut e < 12 then portEast (ceOut e) else ceOut e ≥ 24

def firstEast (t : Nat) (c : FCell) : Bool :=
  match routePorts ((cellRoute c) c.hop.toNat) with
  | p :: _ => portEast p
  | [] => t % 16 ≥ 8

/-- The router output toward a sink beside the mesh, and whether the path ends there: along row 3 to the central port of the die that
the cell comes from, or along the row to the columns of a stack and along the column to its edge unit (R68, R437). -/
def engineOut (t input : Nat) (k : Sink) (stack : Nat) : Nat × Bool :=
  let c := t % 16
  match k with
  | .lauter _ | .digest _ =>
    let port := if input = 1 then 7 else 8
    if c = port then (5, true) else (if c < port then 2 else 1, false)
  | _ =>
    let lo := 4 * (stack % 4)
    if c < lo then (2, false) else if lo + 3 < c then (1, false)
    else if stack < 4 then (3, t / 16 = 0) else (4, t / 16 = 7)

/-- What a scheduled cell asks of a router (R218, R437). -/
def State.routerAsk (s : State) (t input : Nat) (c : FCell) (g : Goal) : Ask :=
  let on := fun (o : Nat) => (⟨[o], g, false, false⟩ : Want)
  let here := (⟨[0], g, false, true⟩ : Want)
  let toward := fun (east : Bool) => (⟨[on (if east then 2 else 1)], .none, false, false, none, false⟩ : Ask)
  match g with
  | .land mode tile addr buf =>
    let rows := Sink.rows t addr (t = tile && (c.kind != 3 || c.index = 0)) buf
    let along := on (if t % 16 < tile % 16 then 2 else 1)
    if mode = 2 ∧ (input = 3 ∨ input = 4) then
      let go := if input = 3 then 4 else 3
      ⟨here :: (if (routerOuts t).contains go then [on go] else []), rows, false, false, none, false⟩
    else if t % 16 = tile % 16 then
      let turn := if mode = 2 then ([3, 4].filter fun o => (routerOuts t).contains o).map on else []
      ⟨here :: turn, rows, false, false, none, false⟩
    else if mode = 1 then ⟨[here, along], rows, false, false, none, false⟩
    else ⟨[along], .none, false, false, none, false⟩
  | .ports ps => toward (portEast (ps.headD 0))
  | .edge east => toward east
  | .engine k stack =>
    let o := engineOut t input k stack
    if o.2 then ⟨[⟨[o.1], g, false, true⟩], k, false, false, none, false⟩ else ⟨[on o.1], .none, false, false, none, false⟩
  | .reduce => toward (combineEast (s.chanEntry c.channel))
  | _ => toward (firstEast t c)

/-- The outputs and lanes that a scheduled head gets; none when one of them is not free (R223). -/
def State.grantAll (s : State) (sw : Sw) (ch : BitVec 16) (t : Phase) (bg : Bool) (ws : List Want) :
    Option (List OutPath) × Nat :=
  ws.foldl (fun acc w =>
    match acc.1 with
    | none => acc
    | some os =>
      let pick := fun (o : Nat) =>
        if !(swIsRouter sw) && o < 12 && !s.admitted o then some (o, 0)
        else ((if bg then s.backgroundLane sw o ch t else s.pickLane sw o ch t)).map fun k => (o, k)
      let named := w.outs.filter fun o => (laneList sw o).any fun k =>
        match s.reservedAt sw o k (t + (swTraverse sw)) with | some r => r.1 = ch.toNat | none => false
      match (named ++ w.outs).findSome? pick with
      | some x => (some (os ++ [⟨x.1, x.2, w.goal, w.inc, w.ends⟩]), acc.2)
      | none => (none, w.outs.headD 0)) (some [], 0)

/-- A path without outputs for a head at an input. -/
def Flight.latch (f : Flight) : Latch :=
  { sw := f.sw, input := f.input, lane := f.lane, outs := [], sink := .none, channel := f.cell.channel,
    be := false, bg := false, low := false, fate := .pass, noChan := false, nextIndex := 1, lastAt := f.at_,
    period := inPeriod f.sw f.input, poison := false, cells := 0, head := 0, body := [] }

/-- SCHEDULE_COLLISION at an output (R224). -/
def State.collision (s : State) (sw : Sw) (ch : BitVec 16) (out : Nat) (t : Phase) : State :=
  let s1 := s.tally .swx SWX.COLL_CNT SWX.EV_SCHEDULE_COLLISION
  let slot := (t + (swTraverse sw) - s.sch.startPhase) / (if (swIsRouter sw) then 2 else outPeriod out)
  let s2 := if s1.flag .swx SWX.COLL_FIRST_VALID then s1 else
    s1.setFld .swx SWX.COLL_FIRST (ch.toNat + out % 32 * 2 ^ 16 + 2 ^ 31 + slot % 2 ^ 32 * 2 ^ 32)
  if s2.sch.regime = .timed then s2.schedFault (s2.chanSecond ch) .slotCollision s2.nowhere else s2

/-- The first output of a switch, ascending, with a lane that is free for one cell of a channel (R223, R224). -/
def State.deflectTo (s : State) (sw : Sw) (ch : BitVec 16) (t : Phase) : Option (Nat × Nat) :=
  (swOuts sw).findSome? fun o =>
    if !swIsRouter sw && o < 12 && !s.admitted o then none
    else ((s.lanesFor sw o ch t).find? fun k => (s.holder sw o k t).isNone).map fun k => (o, k)

/-- The first output of a switch, ascending, with a lane free for `n` slots (R225). -/
def State.anyFree (s : State) (sw : Sw) (n : Nat) (t : Phase) : Option (Nat × Nat) :=
  (swOuts sw).findSome? fun o => (s.freeLane sw o n t).map fun k => (o, k)

/-- A head that lost its output is deflected, or dropped with its message when no output is free (R224). -/
def State.deflect (s : State) (f : Flight) (l : Latch) : State :=
  match s.deflectTo f.sw f.cell.channel f.at_ with
  | some x =>
    let c := { f.cell with deflected := true, hop := if f.cell.hop = 31 then 31 else f.cell.hop + 1 }
    s.passCell { l with outs := [⟨x.1, x.2, .route, false, false⟩], low := true } c f.at_ 0
  | none => (s.tally .swx SWX.NO_OUTPUT_CNT SWX.EV_NO_OUTPUT_DROP).setLatch { l with fate := .gone }

/-- Whether a channel is BACKGROUND: by its entry, or by the run that reserves a slot for it at one of the outputs that its head
asks for, since a module that only forwards needs no entry (R215, R219). -/
def State.isBackground (s : State) (sw : Sw) (ch : BitVec 16) (t : Phase) (ws : List Want) : Bool :=
  let k := ceKind (s.chanEntry ch)
  k = chBackground || (k = chEmpty && ws.any fun w => w.outs.any fun o => (laneList sw o).any fun n =>
    match s.reservedAt sw o n (t + (swTraverse sw)) with | some r => r.1 = ch.toNat && r.2 = chBackground | none => false)

/-- Count a message that is delivered at this module (R215), and put its buffer on the channel's arrival list (R216). -/
def State.countMessage (s : State) (ch : BitVec 16) (a : Ask) : State :=
  if a.deliver then
    let buf := match a.buf with
      | some id => [(ch.toNat, id)]
      | none => []
    { s with fab := { s.fab with msgs := smSet 0 s.fab.msgs ch.toNat (smGet 0 s.fab.msgs ch.toNat + 1),
                                 pooled := s.fab.pooled ++ buf } }
  else s

/-- Give back the buffer of a head that was not granted. -/
def State.ungrant (s : State) (a : Ask) : State :=
  match a.buf with
  | some id => s.freeBuffer id
  | none => s

/-- Grant a scheduled head what it asks for, or deflect or drop it; a REDUCE cell that loses is dropped (R214, R222 to R224). -/
def State.grantHead (s : State) (f : Flight) (a : Ask) (loss : Nat) : State :=
  let ch := f.cell.channel
  let bg := s.isBackground f.sw ch f.at_ a.wants
  let s1 := if a.hopDrop then
      let s' := s.tally .swx SWX.HOP_DROP_CNT SWX.EV_HOP_DROP
      if bg then s' else s'.droppedCell ch
    else s
  let g := s1.grantAll f.sw ch f.at_ bg a.wants
  let l := { f.latch with bg := bg, low := bg, noChan := a.noChan, sink := a.sink }
  match g.1 with
  | some os =>
    let s2 := os.foldl (fun s o => if bg then s else s.displace f.sw o.out o.lane f.at_) (s1.countMessage ch a)
    s2.passCell { l with outs := os } f.cell f.at_ loss
  | none =>
    let s2 := s1.ungrant a
    let l1 := { l with sink := .none }
    if bg then s2.passCell { l1 with fate := .trunc } f.cell f.at_ loss
    else if f.cell.kind = 3 then s2.collision f.sw ch g.2 f.at_
    else (s2.collision f.sw ch g.2 f.at_).deflect f l1

/-- Count a received cell in the tallies of its link port (R229). -/
def State.received (s : State) (f : Flight) (be bg : Bool) : State :=
  if !(swIsRouter f.sw) && f.input < 12 && s.tallied be bg f.cell then s.tallyRecv f.input f.cell else s

/-- A HEAD, or a REDUCE cell at a router, at a switch input (R214, R222 to R224). -/
def State.headAt (s0 : State) (f : Flight) (loss : Nat) : State :=
  let s := ((s0.advanceTo f.at_).settle f.at_).release f.sw f.input f.lane
  if f.cell.deflected then
    ((s.received f false false).tally .swx SWX.DEFLECT_DISCARD_CNT SWX.EV_DEFLECT_DISCARD).setLatch
      { f.latch with fate := .gone, low := true }
  else match f.sw with
    | .router t => s.grantHead f (s.routerAsk t.val f.input f.cell f.goal) loss
    | sw =>
      let r := s.edgeAsk (swIsEast sw) f.input f.cell f.goal
      (r.2.received f false (r.2.isBackground sw f.cell.channel f.at_ r.1.wants)).grantHead f r.1 loss

/-! Bodies. -/

/-- The body cell that stands for one that failed its CRC: the latched channel, the next index, POISON, and zero data (R209). -/
def Latch.fill (l : Latch) : FCell := mkCell kBody l.channel (l.nextIndex % 64) true 0

/-- A body cell that finds no path (R222); a BACKGROUND channel's is not tallied and sets no cause (R215, R229). -/
def State.strayBody (s : State) (f : Flight) : State :=
  let bg : Bool := ceKind (s.chanEntry f.cell.channel) = chBackground
  let s1 := (s.received f false bg).tally .swx SWX.STRAY_BODY_CNT SWX.EV_STRAY_BODY
  if bg then s1 else s1.droppedCell f.cell.channel

/-- A BODY cell at a switch input: along the latched path, or stray (R209, R222).  The cells of one message at a mesh edge port stand
one slot of the port that they leave by apart, which no lane's slot exceeds (R219, R251; log 50). -/
def State.bodyAt (s0 : State) (f : Flight) (loss : Nat) : State :=
  let s := s0.advanceTo f.at_
  let next := fun (l : Latch) (c : FCell) =>
    s.passCell { l with nextIndex := l.nextIndex + 1, lastAt := f.at_ } c f.at_ loss
  match s.latchAt f.sw f.input f.lane with
  | some l =>
    if l.lastAt < f.at_ && f.at_ ≤ l.lastAt + l.period then
      if f.lost then next l l.fill
      else if l.channel = f.cell.channel && f.cell.index.toNat = l.nextIndex % 64 then
        (s.received f l.be l.bg).passCell { l with nextIndex := l.nextIndex + 1, lastAt := f.at_ } f.cell f.at_ loss
      else (s.release f.sw f.input f.lane).strayBody f
    else if f.lost then s.release f.sw f.input f.lane
    else (s.release f.sw f.input f.lane).strayBody f
  | none => if f.lost then s else s.strayBody f

/-! Best effort. -/

/-- The productive outputs of a best-effort head at a switch, ascending, and the sink when it has arrived (R67, R225, R232;
log 40): inside the mesh a message routes along its column first.  A message of a RACK channel goes to the rack that its head data
name (R310, R314; log 43). -/
def State.beWants (s : State) (sw : Sw) (c : FCell) : List Nat × Sink :=
  let home := (destHall c) = s.hallId
  let u := (destUnit c)
  let prod := s.productive (destHall c)
  match sw with
  | .router t =>
    let n := t.val
    let vert := fun r => if n / 16 < r then [4] else [3]
    if home then
      if u < 128 then
        if n / 16 ≠ u / 16 then (vert (u / 16), .none)
        else if n % 16 ≠ u % 16 then ([if n % 16 < u % 16 then 2 else 1], .none)
        else ([0], .rows n (destAddr c) false none)
      else if u = unitZhexal then if n / 16 ≠ 0 then ([3], .none) else if n % 16 ≠ 0 then ([1], .none) else ([0], .zhexal)
      else if ceKind (s.chanEntry c.channel) = chRack then
        let k := headCtrl c
        let edge := if k < 4 then 0 else 7
        if n / 16 ≠ edge then (vert edge, .none)
        else let o := engineOut n 0 .rack k; ([o.1], if o.2 then .rack else .none)
      else ([], .none)
    else match prod with
      | p :: _ => ([if portEast p then 2 else 1], .none)
      | [] => ([], .none)
  | _ =>
    let e := (swIsEast sw)
    if home then
      if u < 128 then ([meshPort e (u / 16)], .none)
      else if u = unitZhexal then (if e then meshPorts e else [meshPort e 0], .none)
      else if ceKind (s.chanEntry c.channel) = chRack then (meshPorts e, .none)
      else ([], .none)
    else
      let own := prod.filter fun p => portEast p = e
      if own.isEmpty && !prod.isEmpty then (meshPorts e, .none) else (own, .none)

/-- Let a best-effort head out through an output; HOP goes up where it leaves a link port or is deflected (R225). -/
def State.beOut (s : State) (f : Flight) (o : Nat × Nat) (k : Sink) (deflected : Bool) (loss : Nat) : State :=
  let up := deflected.toNat + (!(swIsRouter f.sw) && o.1 < 12).toNat
  let l := { f.latch with be := true, low := true, sink := k, outs := [⟨o.1, o.2, .be, false, k ≠ .none⟩] }
  if f.cell.hop.toNat + up > 31 then
    (s.tally .swx SWX.HOP_DROP_CNT SWX.EV_HOP_DROP).setLatch { l with sink := .none, outs := [], fate := .gone }
  else s.passCell l { f.cell with hop := BitVec.ofNat 5 (f.cell.hop.toNat + up) } f.at_ loss

/-- A best-effort head at a switch input: a productive output, else a deflection, else dropped (R223, R225). -/
def State.beHeadAt (s0 : State) (f : Flight) (loss : Nat) : State :=
  let s := ((s0.advanceTo f.at_).settle f.at_).release f.sw f.input f.lane
  let n := (cellLen f.cell)
  let w := s.beWants f.sw f.cell
  let first := w.1.find? fun o => (s.freeLane f.sw o 1 f.at_).isSome
  match first.bind fun o => (s.freeLane f.sw o n f.at_).map fun k => (o, k) with
  | some o => s.beOut f o w.2 false loss
  | none =>
    match s.anyFree f.sw n f.at_ with
    | some o => (if f.cell.hop = 31 then s else s.count .swx SWX.DEFLECT_CNT).beOut f o .none true loss
    | none => (s.tally .swx SWX.NO_OUTPUT_CNT SWX.EV_NO_OUTPUT_DROP).setLatch { f.latch with be := true, low := true, fate := .gone }

/-- Key of entry `e` of controller k. -/
def rackKey (k e : Nat) : Nat := 64 * k + e

/-- Key of a chunk of an entry. -/
def chunkKey (k e j : Nat) : Nat := rackKey k e * 2 ^ 32 + j

/-- Mark a chunk SENT from a time on, and count it (R310, R320). -/
def State.chunkSent (s : State) (key : Nat) (t : Phase) : State :=
  let c := smGet Chunk.initial s.rack.chunks key
  ({ s with rack := { s.rack with chunks := smSet Chunk.initial s.rack.chunks key { c with sent := some t } } }).count .rack
    RACK.CHUNK_SENT_CNT

/-- The cells of a best-effort message enter its router from a time on, and the chunk that it ends is then SENT (R225, R310). -/
def BeMsg.enter (m : BeMsg) (t : Fin 128) (t0 : Phase) (s : State) : State :=
  let s1 := (m.cells.zipIdx).foldl (fun s x => s.fly ⟨t0 + 2 * x.2, .router t, m.input, 1, x.1, .be, false⟩) s
  match m.chunk with
  | some key => s1.chunkSent key (t0 + 2 * m.cells.length)
  | none => s1

/-- BE_INJECT: a tile's first waiting message, or that of the edge unit beside it, enters its router once the first output has LEN + 1
free slots ahead (R225); it takes lane 1 of the input, scheduled cells lane 0 (log 37). -/
def execBeInject (t : Fin 128) (s : State) : Host.Outcome State Fault Refusal :=
  .next (match findIdx (fun m => m.tile = t.val) s.fab.be with
    | none => s
    | some (i, m) =>
      match m.cells with
      | [] => { s with fab := { s.fab with be := s.fab.be.eraseIdx i } }
      | c :: _ =>
        let s1 := s.advanceTo (nextEdge 2 (max s.clk.phase m.readyAt))
        let t0 := s1.clk.phase
        let busy := s1.fab.flight.any fun f => f.sw = .router t && f.input = m.input && f.lane = 1
        let o := (s1.beWants (.router t) c).1.head?
        if busy || (o.bind fun o => s1.freeLane (.router t) o m.cells.length t0).isNone then s
        else m.enter t t0 { s1 with fab := { s1.fab with be := s1.fab.be.eraseIdx i } })

end Sys2Proof.Machine
end

