-- ==== Sys2Proof/Machine/Ports.lean ====
section
/-! DEFINITION. The link ports: states, training, admission, and what a port receives (R207 to R210, R231, R233 to R237,
R445). -/
namespace Sys2Proof.Machine

/-! States. -/

/-- Set one bit of a field to a value. -/
def State.setFldBit (s : State) (p : Page) (f : Fld) (i : Nat) (b : Bool) : State :=
  let v := s.fld p f
  s.setFld p f (v - (bitOf v i).toNat * 2 ^ i + b.toNat * 2 ^ i)

/-- Whether a port is LOCKED or ADMITTED. -/
def State.portUp (s : State) (p : Nat) : Bool := s.portState p = portLocked || s.portState p = portAdmitted

/-- Idle positions that a port has sent since its slots count: one slot in each period while it is LOCKED or ADMITTED, less its
cells (R206, R208, R237; log 75). -/
def State.idleSlots (s : State) (p : Nat) : Nat :=
  let n := smGet (0, 0) s.fab.idle p
  if s.portUp p then s.clk.phase / outPeriod p - n.1 / outPeriod p - n.2 else 0

/-- The idle positions so far go into IDLE_CNT, and the slots count from now on. -/
def State.foldIdle (s : State) (p : Nat) : State :=
  let s1 := s.countN (lnkPage p) LNK.IDLE_CNT (s.idleSlots p)
  { s1 with fab := { s1.fab with idle := smSet (0, 0) s1.fab.idle p (s.clk.phase, 0) } }

/-- A port enters a state: LNK_STATUS, and the port's bits of SWX_STATUS; an admission that is pending ends where the port
leaves LOCKED (R233, R234, R237, R238). -/
def State.enterPort (s : State) (p : Nat) (st : Nat) : State :=
  let s1 := (s.foldIdle p).setFld (lnkPage p) LNK.STATUS_STATE st
  let s2 := if st = portLocked then s1 else s1.setFld (lnkPage p) LNK.STATUS_ADMIT_PEND 0
  (s2.setFldBit .swx SWX.STATUS_PORT_ADMITTED p (st = portAdmitted)).setFldBit .swx SWX.STATUS_PORT_LOCKED p
    (st = portAdmitted || st = portLocked)

/-- A port becomes DISABLED (R233). -/
def State.portDisable (s : State) (p : Nat) : State :=
  (s.enterPort p portDisabled).setFld (lnkPage p) LNK.STATUS_LANE_LOCK 0

/-- A port that enters TRAINING has made no exchange yet (R35). -/
def State.forgetDelay (s : State) (p : Nat) : State :=
  (s.setHtPort p { s.htPort p with exchanges := 0, delays := [], offset := none }).setFlds .htm
    [(HTM.PORT_DELAY_DELAY_PS p, 0), (HTM.PORT_DELAY_VALID p, 0)]

/-- A port starts training; leaving DISABLED clears the failed lanes it keeps (R35, R233, R234). -/
def State.portTrain (s0 : State) (p : Nat) : State :=
  let s := s0.forgetDelay p
  let s1 := if s.portState p = portDisabled then s.setFld (lnkPage p) LNK.LANE_FAIL 0 else s
  (s1.enterPort p portTraining).setFld (lnkPage p) LNK.STATUS_LANE_LOCK 0

/-- A port goes DOWN: counted, timed, and a DEGRADED event (R233, R237, R402). -/
def State.portFall (s : State) (p : Nat) : State :=
  let s1 := (s.enterPort p portDown).setFld (lnkPage p) LNK.DOWN_TIME s.ht
  let s2 := { s1 with fab := { s1.fab with downAt := smSet 0 s1.fab.downAt p s.clk.phase,
                                           badRun := smSet 0 s1.fab.badRun p 0 } }
  (s2.tally (lnkPage p) LNK.DOWN_CNT LNK.EV_DOWN).degraded

/-- A LOCKED port is admitted (R234). -/
def State.admitPort (s : State) (p : Nat) : State :=
  (s.enterPort p portAdmitted).raise (lnkPage p) LNK.EV_ADMITTED

/-- At a step boundary every pending admission takes effect (R234). -/
def State.admitPending (s : State) : State :=
  (List.range 12).foldl (fun s p =>
    if s.flag (lnkPage p) LNK.STATUS_ADMIT_PEND && s.portState p = portLocked then
      (s.setFld (lnkPage p) LNK.STATUS_ADMIT_PEND 0).admitPort p
    else s) s

/-- A port sends its module's hall ID, the VALID bit and its own number (R445). -/
def State.sendPeerId (s : State) (p : Nat) : State :=
  s.send (.peerId p (BitVec.ofNat 16 s.hallId) (s.flag .swx SWX.HALL_ID_VALID) p)

/-- LNK_PEER takes what the peer sent (R445). -/
def State.takePeer (s : State) (p : Nat) (hall : BitVec 16) (valid : Bool) (port : BitVec 4) : State :=
  s.setFld (lnkPage p) LNK.PEER (hall.toNat + port.toNat * 2 ^ 16 + valid.toNat * 2 ^ 31)

/-- What a write to LNK_CTRL does besides storing its bits; `old` is the state before it (R233, R234).  While a fabric reset runs
the port waits for its end (R236). -/
def lnkCtrl (p : Fin 12) (old : State) (w : RegW) (s : State) : State :=
  let pg : Page := .lnk p
  let on := s.flag pg LNK.CTRL_ENABLE
  let auto := s.flag pg LNK.CTRL_AUTO_RETRAIN
  let s1 :=
    if !on then (if s.portState p.val = portDisabled then s else s.portDisable p.val)
    else if !old.flag pg LNK.CTRL_ENABLE && !s.boot.fabricBusy then s.portTrain p.val
    else if auto && !old.flag pg LNK.CTRL_AUTO_RETRAIN && s.portState p.val = portDown then
      { s with fab := { s.fab with downAt := smSet 0 s.fab.downAt p.val s.clk.phase } }
    else s
  if wHits w LNK.CTRL_ADMIT && s1.portState p.val = portLocked then
    if s1.sch.regime = .timed then s1.setFld pg LNK.STATUS_ADMIT_PEND 1 else s1.admitPort p.val
  else s1

/-- A write to LNK_CTRL. -/
def lnkCtrlWrite (p : Fin 12) (w : RegW) (s : State) : State := ctrlWrite s (.lnk p) w (lnkCtrl p s w)

/-- LNK_ENABLE (R233). -/
def execLnkEnable (p : Fin 12) (w : RegW) (s : State) : Host.Outcome State Fault Refusal := .next (lnkCtrlWrite p w s)

/-- LNK_DISABLE (R233). -/
def execLnkDisable (p : Fin 12) (w : RegW) (s : State) : Host.Outcome State Fault Refusal := .next (lnkCtrlWrite p w s)

/-- AUTO_RETRAIN: software sets AUTO_RETRAIN of a port in DOWN (R233). -/
def execAutoRetrain (p : Fin 12) (w : RegW) (s : State) : Host.Outcome State Fault Refusal := .next (lnkCtrlWrite p w s)

/-- ADMIT (R234). -/
def execPortAdmit (p : Fin 12) (w : RegW) (s : State) : Host.Outcome State Fault Refusal := .next (lnkCtrlWrite p w s)

/-- PORT_TRAINED: all lanes locked and framing found; the training exchange carries both hall IDs (R233, R445). -/
def execPortTrained (p : Fin 12) (peerHall : BitVec 16) (peerValid : Bool) (peerPort : BitVec 4) (s : State) :
    Host.Outcome State Fault Refusal :=
  .next (if s.portState p.val ≠ portTraining then s
    else
      let s1 := (s.enterPort p.val portLocked).setFld (.lnk p) LNK.STATUS_LANE_LOCK (2 ^ portLanes p.val - 1)
      let s2 := { s1 with fab := { s1.fab with badRun := smSet 0 s1.fab.badRun p.val 0 } }
      ((s2.raise (.lnk p) LNK.EV_UP).sendPeerId p.val).takePeer p.val peerHall peerValid peerPort)

/-- Lanes fail: kept in LNK_LANE_FAIL, and a DEGRADED event (R234, R402). -/
def State.lanesFail (s : State) (p : Fin 12) (failed : Nat) : State :=
  ((s.setFlds (.lnk p) [(LNK.LANE_FAIL, s.fld (.lnk p) LNK.LANE_FAIL ||| failed),
    (LNK.STATUS_LANE_LOCK, mergeBits (s.fld (.lnk p) LNK.STATUS_LANE_LOCK) 0 failed)]).raise (.lnk p) LNK.EV_LANE_FAIL).degraded

/-- PORT_DOWN: a cause of R233 at a port that is LOCKED or ADMITTED; a lane failure is recorded too (R234). -/
def execPortDown (p : Fin 12) (cause : DownCause) (s : State) : Host.Outcome State Fault Refusal :=
  .next (if !s.portUp p.val then s
    else match cause with
      | .lanes failed =>
        let f := failed.toNat % 2 ^ portLanes p.val
        if f = 0 then s else (s.lanesFail p f).portFall p.val
      | .codewords | .framing => s.portFall p.val)

/-- RETRAIN_TIMER: 1 ms in DOWN with AUTO_RETRAIN set (R233). -/
def execRetrainTimer (p : Fin 12) (s : State) : Host.Outcome State Fault Refusal :=
  .next (if s.portState p.val = portDown && s.flag (.lnk p) LNK.CTRL_AUTO_RETRAIN && s.flag (.lnk p) LNK.CTRL_ENABLE &&
      !s.boot.fabricBusy && s.clk.phase ≥ smGet 0 s.fab.downAt p.val + 4000000 then s.portTrain p.val
    else s)

/-- A write to SWX_HALL_ID sets VALID, and every port that is up tells its peer (R231, R238, R445). -/
def hallIdWrite (w : RegW) (s : State) : State :=
  if !s.reaches .swx || w.half = .high then s
  else if s.locked then s.lockWrite .swx SWX.HALL_ID.off
  else
    let s1 := s.setFld .swx SWX.HALL_ID (wData w % 2 ^ 16 + 2 ^ 31)
    ((List.range 12).filter s1.portUp).foldl (fun s p => s.sendPeerId p) s1

/-- SWX_HALL_ID_WRITE (R231, R445). -/
def execSwxHallIdWrite (w : RegW) (s : State) : Host.Outcome State Fault Refusal := .next (hallIdWrite w s)

/-- PEER_ID_MESSAGE (R445). -/
def execPeerIdMessage (p : Fin 12) (peerHall : BitVec 16) (peerValid : Bool) (peerPort : BitVec 4) (s : State) :
    Host.Outcome State Fault Refusal :=
  .next (if s.portUp p.val then s.takePeer p.val peerHall peerValid peerPort else s)

/-! Receiving. -/

/-- Symbols that the code corrects in a codeword (R207). -/
def fecLimit : Nat := 6

/-- Span of a codeword, ten slots, in phases (R207). -/
def codewordSpan (p : Nat) : Nat := 10 * outPeriod p

/-- The phase at which HT reaches a number of quarter nanoseconds, to the nearest (log 45). -/
def State.phaseOfHt (s : State) (q : Nat) : Phase :=
  ((s.clk.phase : Int) + ((q * 0x4000 : Nat) - (s.clk.ht.toNat : Int) + 0x2000) / 0x4000).toNat

/-- Delay in ns that the buffer adds to 64 ns: the image's, or that measured when no image is loaded or it marks the port 0xFF
(R210). -/
def State.portDelayNs (s : State) (p : Nat) : Nat :=
  let measured := ceilDiv (s.fld .htm (HTM.PORT_DELAY_DELAY_PS p)) 1000
  match s.sch.img with
  | some m => let d := m.portDelay.getD p 0xFF
    if d = 0xFF then measured else d
  | none => measured

/-- The codeword's launch edge in phases of HT: HT at arrival less the cable delay, to the nearest codeword boundary; none when
the port has no delay yet or the arrival is more than 1 ns off (R210; log 45). -/
def State.launchEdge (s : State) (p : Nat) (arrival : BitVec 80) : Option Nat :=
  let x : Int := (arrival.toNat : Int) * 1000 - (s.fld .htm (HTM.PORT_DELAY_DELAY_PS p) * 65536 : Nat)
  let g : Int := codewordSpan p * 16384 * 1000
  let n := (x + g / 2) / g
  if (s.htPort p).exchanges = 0 || n < 0 || (x - n * g).natAbs > 65536000 then none else some (n.toNat * codewordSpan p)

/-- What a cell that has crossed the deskew buffer does at the switch (R211). -/
def goalOf (c : FCell) : Goal := if c.kind = 2 then .be else if c.kind = 3 then .reduce else .route

/-- A cell that fails its CRC-16: counted, and a cause in a timed step whatever it was (R209). -/
def State.crcDrop (s : State) (p : Fin 12) : State :=
  let s1 := s.tally (.lnk p) LNK.CRC_DROP_CNT LNK.EV_CRC_DROP
  if s1.sch.regime = .timed then s1.invalid false .dropped else s1

/-- A cell that the deskew buffer discards (R210). -/
def State.deskewDrop (s : State) (p : Fin 12) : State :=
  let s1 := s.tally (.lnk p) LNK.DESKEW_DROP_CNT LNK.EV_DESKEW_DROP
  if s1.sch.regime = .timed then s1.invalid false .dropped else s1

/-- One cell position of a codeword: `at_` is when the switch takes it, when the codeword is on its grid (R208 to R210). -/
def State.receiveSlot (s : State) (p : Fin 12) (bad : Bool) (at_ : Option Phase) (b : SlotBits) : State :=
  let fails := bad || b.crc.toNat ≠ cellCrc16 b.cell.toNat
  let c := cellOf b.cell.toNat
  let s1 := if fails then s.crcDrop p else s.count (.lnk p) LNK.CELL_RX_CNT
  match at_ with
  | some t => s1.fly ⟨t, edgeSw (portEast p.val), p.val, 0, c, goalOf c, fails⟩
  | none => if fails then s1 else s1.deskewDrop p

/-- The code's verdict on a codeword: four in a row that it cannot correct take the port DOWN (R207, R233). -/
def State.fecVerdict (s : State) (p : Fin 12) (symErr : Nat) : State :=
  if symErr ≤ fecLimit then
    { s.countN (.lnk p) LNK.FEC_CORR_CNT symErr with fab := { s.fab with badRun := smSet 0 s.fab.badRun p.val 0 } }
  else
    let n := smGet 0 s.fab.badRun p.val + 1
    let s1 := s.tally (.lnk p) LNK.FEC_UNCORR_CNT LNK.EV_FEC_UNCORR
    let s2 := { s1 with fab := { s1.fab with badRun := smSet 0 s1.fab.badRun p.val n } }
    if n ≥ 4 then s2.portFall p.val else s2

/-- CODEWORD_RX: a codeword at a port that is up; only an ADMITTED port carries cells, and any carries time (R207 to R210, R233). -/
def execCodewordRx (p : Fin 12) (cw : Codeword) (s : State) : Host.Outcome State Fault Refusal :=
  .next (if !s.portUp p.val then s
    else
      let bad := cw.symErr > fecLimit
      let edge := (s.launchEdge p.val (BitVec.ofNat 80 cw.arrival)).map fun e =>
        e + 4 * (64 + s.portDelayNs p.val)
      let s1 := if s.admitted p.val then
          ((cw.slots.take 10).zipIdx).foldl (fun s x =>
            match x.1 with
            | some b => s.receiveSlot p bad (edge.map fun e => s.phaseOfHt (e + x.2 * outPeriod p.val)) b
            | none => s) s
        else s
      (s1.fecVerdict p cw.symErr).takeTimePart p.val (if bad then 0 else cw.ftype.toNat) cw.tdata (BitVec.ofNat 80 cw.arrival))

end Sys2Proof.Machine
end

