-- ==== Sys2Proof/Machine/Crypto.lean ====
section
/-! DEFINITION. The functions that the spec takes from named standards (R53, R373, R383): SHA-384 and SHA-256, HMAC-SHA-384, and the
verification of ECDSA P-384 and LMS signatures.  PRESUMED: FIPS 180-4, FIPS 198-1, FIPS 186-5, RFC 8554 and NIST SP 800-208 give them; the
spec names them and does not repeat them (log 8). -/
namespace Sys2Proof.Machine

/-- A big-endian number, and a number as big-endian bytes. -/
def beNat (b : List Byte) : Nat := b.foldl (fun n x => n * 256 + x.toNat) 0
def beBytes (n v : Nat) : List Byte := (leBytes n v).reverse

/-! SHA-2. -/

/-- Constants of SHA-512 and SHA-384 by round; their high halves are those of SHA-256. -/
def shaConsts : List Nat :=
  [0x428A2F98D728AE22, 0x7137449123EF65CD, 0xB5C0FBCFEC4D3B2F, 0xE9B5DBA58189DBBC, 0x3956C25BF348B538,
   0x59F111F1B605D019, 0x923F82A4AF194F9B, 0xAB1C5ED5DA6D8118, 0xD807AA98A3030242, 0x12835B0145706FBE,
   0x243185BE4EE4B28C, 0x550C7DC3D5FFB4E2, 0x72BE5D74F27B896F, 0x80DEB1FE3B1696B1, 0x9BDC06A725C71235,
   0xC19BF174CF692694, 0xE49B69C19EF14AD2, 0xEFBE4786384F25E3, 0x0FC19DC68B8CD5B5, 0x240CA1CC77AC9C65] ++
  [0x2DE92C6F592B0275, 0x4A7484AA6EA6E483, 0x5CB0A9DCBD41FBD4, 0x76F988DA831153B5, 0x983E5152EE66DFAB,
   0xA831C66D2DB43210, 0xB00327C898FB213F, 0xBF597FC7BEEF0EE4, 0xC6E00BF33DA88FC2, 0xD5A79147930AA725,
   0x06CA6351E003826F, 0x142929670A0E6E70, 0x27B70A8546D22FFC, 0x2E1B21385C26C926, 0x4D2C6DFC5AC42AED,
   0x53380D139D95B3DF, 0x650A73548BAF63DE, 0x766A0ABB3C77B2A8, 0x81C2C92E47EDAEE6, 0x92722C851482353B] ++
  [0xA2BFE8A14CF10364, 0xA81A664BBC423001, 0xC24B8B70D0F89791, 0xC76C51A30654BE30, 0xD192E819D6EF5218,
   0xD69906245565A910, 0xF40E35855771202A, 0x106AA07032BBD1B8, 0x19A4C116B8D2D0C8, 0x1E376C085141AB53,
   0x2748774CDF8EEB99, 0x34B0BCB5E19B48A8, 0x391C0CB3C5C95A63, 0x4ED8AA4AE3418ACB, 0x5B9CCA4F7763E373,
   0x682E6FF3D6B2B8A3, 0x748F82EE5DEFB2FC, 0x78A5636F43172F60, 0x84C87814A1F0AB72, 0x8CC702081A6439EC] ++
  [0x90BEFFFA23631E28, 0xA4506CEBDE82BDE9, 0xBEF9A3F7B2C67915, 0xC67178F2E372532B, 0xCA273ECEEA26619C,
   0xD186B8C721C0C207, 0xEADA7DD6CDE0EB1E, 0xF57D4F7FEE6ED178, 0x06F067AA72176FBA, 0x0A637DC5A2C898A6,
   0x113F9804BEF90DAE, 0x1B710B35131C471B, 0x28DB77F523047D84, 0x32CAAB7B40C72493, 0x3C9EBE0A15C9BEBC,
   0x431D67C49C100D4C, 0x4CC5D4BECB3E42B6, 0x597F299CFC657E2A, 0x5FCB6FAB3AD6FAEC, 0x6C44198C4A475817]

/-- What tells the two word sizes of SHA-2 apart: the constants by round, the initial hash, and the rotations and shifts of its functions
Σ0, Σ1, σ0 and σ1. -/
structure ShaKind (w : Nat) where
  consts : List (BitVec w)
  init : List (BitVec w)
  big0 : Nat × Nat × Nat
  big1 : Nat × Nat × Nat
  small0 : Nat × Nat × Nat
  small1 : Nat × Nat × Nat

/-- SHA-384, on words of 64 bits. -/
def sha384Kind : ShaKind 64 :=
  { consts := shaConsts.map (BitVec.ofNat 64),
    init := ([0xCBBB9D5DC1059ED8, 0x629A292A367CD507, 0x9159015A3070DD17, 0x152FECD8F70E5939, 0x67332667FFC00B31, 0x8EB44A8768581511,
      0xDB0C2E0D64F98FA7, 0x47B5481DBEFA4FA4] : List Nat).map (BitVec.ofNat 64),
    big0 := (28, 34, 39), big1 := (14, 18, 41), small0 := (1, 8, 7), small1 := (19, 61, 6) }

/-- SHA-256, on words of 32 bits. -/
def sha256Kind : ShaKind 32 :=
  { consts := (shaConsts.take 64).map fun x => BitVec.ofNat 32 (x / 2 ^ 32),
    init := ([0x6A09E667, 0xBB67AE85, 0x3C6EF372, 0xA54FF53A, 0x510E527F, 0x9B05688C, 0x1F83D9AB, 0x5BE0CD19] : List Nat).map
      (BitVec.ofNat 32),
    big0 := (2, 13, 22), big1 := (6, 11, 25), small0 := (7, 18, 3), small1 := (17, 19, 10) }

/-- Three rotations, or two rotations and a shift, of a word, added without carry. -/
def shaBig {w : Nat} (r : Nat × Nat × Nat) (x : BitVec w) : BitVec w :=
  x.rotateRight r.1 ^^^ x.rotateRight r.2.1 ^^^ x.rotateRight r.2.2
def shaSmall {w : Nat} (r : Nat × Nat × Nat) (x : BitVec w) : BitVec w :=
  x.rotateRight r.1 ^^^ x.rotateRight r.2.1 ^^^ (x >>> r.2.2)

/-- A round: the eight working words and the sixteen words of the schedule that come next. -/
def shaRound {w : Nat} (kind : ShaKind w) (st : List (BitVec w) × List (BitVec w)) (k : BitVec w) : List (BitVec w) × List (BitVec w) :=
  match st.1, st.2 with
  | [a, b, c, d, e, f, g, h], x :: rest =>
    let t1 := h + shaBig kind.big1 e + ((e &&& f) ^^^ (~~~e &&& g)) + k + x
    let t2 := shaBig kind.big0 a + ((a &&& b) ^^^ (a &&& c) ^^^ (b &&& c))
    let new := shaSmall kind.small1 (rest.getD 13 0) + rest.getD 8 0 + shaSmall kind.small0 (rest.getD 0 0) + x
    ([t1 + t2, a, b, c, d + t1, e, f, g], rest ++ [new])
  | v, x => (v, x)

/-- One block into the hash. -/
def shaBlock {w : Nat} (kind : ShaKind w) (hash block : List (BitVec w)) : List (BitVec w) :=
  List.zipWith (· + ·) hash (kind.consts.foldl (shaRound kind) (hash, block)).1

/-- A message of bytes padded to whole blocks of `n` bytes, its length in bits in the last `n / 8`. -/
def shaPad (n : Nat) (msg : List Byte) : List Byte :=
  let len := n / 8
  msg ++ [0x80] ++ List.replicate ((n - (msg.length + 1 + len) % n) % n) 0 ++ beBytes len (8 * msg.length)

/-- A list cut into pieces of `n`; `fuel` is at least their number. -/
def cutInto {α : Type} (n : Nat) : Nat → List α → List (List α)
  | 0, _ => []
  | _, [] => []
  | fuel + 1, l => l.take n :: cutInto n fuel (l.drop n)

/-- The hash of a message: eight words. -/
def sha2 {w : Nat} (kind : ShaKind w) (msg : List Byte) : List (BitVec w) :=
  let p := shaPad (2 * w) msg
  let words := (cutInto (w / 8) p.length p).map fun b => BitVec.ofNat w (beNat b)
  (cutInto 16 words.length words).foldl (shaBlock kind) kind.init

/-- Words as one number, the first the highest. -/
def joinWords {w : Nat} (l : List (BitVec w)) : Nat := l.foldl (fun n x => n * 2 ^ w + x.toNat) 0

/-- SHA-384 of a byte string: the number whose first byte is the most significant one (R53). -/
def sha384 (msg : List Byte) : BitVec 384 := BitVec.ofNat 384 (joinWords ((sha2 sha384Kind msg).take 6))

/-- SHA-256 of a byte string, as bytes. -/
def sha256 (msg : List Byte) : List Byte := beBytes 32 (joinWords (sha2 sha256Kind msg))

/-- The 48 bytes of a digest, most significant first (log 8). -/
def digestBytes (d : BitVec 384) : List Byte := beBytes 48 d.toNat

/-- HMAC-SHA-384 of a message under a key of 48 bytes (R383). -/
def hmac384 (key : BitVec 384) (msg : List Byte) : BitVec 384 :=
  let pad := fun (x : Byte) => (digestBytes key ++ List.replicate 80 0).map (· ^^^ x)
  sha384 (pad 0x5C ++ digestBytes (sha384 (pad 0x36 ++ msg)))

/-! ECDSA over P-384. -/

/-- The field, the order of the group, the coefficient b, and the base point. -/
def p384 : Nat := 2 ^ 384 - 2 ^ 128 - 2 ^ 96 + 2 ^ 32 - 1
def n384 : Nat :=
  0xFFFFFFFFFFFFFFFFFFFFFFFFFFFFFFFFFFFFFFFFFFFFFFFFC7634D81F4372DDF581A0DB248B0A77AECEC196ACCC52973
def b384 : Nat :=
  0xB3312FA7E23EE7E4988E056BE3F82D19181D9C6EFE8141120314088F5013875AC656398D8A2ED19D2A85C8EDD3EC2AEF
def base384 : Nat × Nat :=
  (0xAA87CA22BE8B05378EB1C71EF320AD746E1D3B628BA79B9859F741E082542A385502F25DBF55296C3A545E3872760AB7,
   0x3617DE4A96262C6F5D9E98BF9292DC29F8F41DBD289A147CE9DA3113B5F0B8C00A60B1CE1D7E819D7A431D7C90EA0E5F)

/-- A power modulo `m`, of an exponent below 2^384. -/
def powMod (m x e : Nat) : Nat :=
  ((List.range 384).foldl (fun (acc : Nat × Nat) i => (if bitOf e i then acc.1 * acc.2 % m else acc.1, acc.2 * acc.2 % m)) (1, x % m)).1

/-- The inverse of a number modulo a prime. -/
def invMod (m x : Nat) : Nat := powMod m x (m - 2)

/-- The third point of a line of slope `s` through a point and one of abscissa `x2`, reflected. -/
def curveThird (s : Nat) (a : Nat × Nat) (x2 : Nat) : Nat × Nat :=
  let x := (s * s + 2 * p384 - a.1 - x2) % p384
  (x, (s * (a.1 + p384 - x) + p384 - a.2) % p384)

/-- The sum of two points of the curve; none is the point at infinity. -/
def curveAdd (a b : Option (Nat × Nat)) : Option (Nat × Nat) :=
  match a, b with
  | none, q => q
  | p, none => p
  | some p, some q =>
    if p.1 = q.1 then
      if (p.2 + q.2) % p384 = 0 then none
      else some (curveThird (3 * (p.1 * p.1 + p384 - 1) * invMod p384 (2 * p.2) % p384) p q.1)
    else some (curveThird ((q.2 + p384 - p.2) * invMod p384 (q.1 + p384 - p.1) % p384) p q.1)

/-- A multiple of a point, by a number below 2^384. -/
def curveMul (k : Nat) (p : Nat × Nat) : Option (Nat × Nat) :=
  (List.range 384).foldl (fun acc i =>
    let two := curveAdd acc acc
    if bitOf k (383 - i) then curveAdd two (some p) else two) none

/-- Whether a pair of numbers is a point of the curve. -/
def onCurve (q : Nat × Nat) : Bool :=
  q.1 < p384 && q.2 < p384 && q.2 * q.2 % p384 = (q.1 * q.1 * q.1 + (p384 - 3) * q.1 + b384) % p384

/-- Whether `sig`, r and s of 48 bytes each, is a valid ECDSA P-384 signature over a digest under a key 0x04, X, Y (R373). -/
def ecdsaOk (pub : List Byte) (digest : BitVec 384) (sig : List Byte) : Bool :=
  let q := (beNat ((pub.drop 1).take 48), beNat ((pub.drop 49).take 48))
  let r := beNat (sig.take 48)
  let s := beNat ((sig.drop 48).take 48)
  pub.length = 97 && sig.length = 96 && pub.head? = some 0x04 && onCurve q &&
  0 < r && r < n384 && 0 < s && s < n384 &&
  (let w := invMod n384 s
   match curveAdd (curveMul (digest.toNat * w % n384) base384) (curveMul (r * w % n384) q) with
   | some x => x.1 % n384 = r
   | none => false)

/-! LMS (RFC 8554), of type LMS_SHA256_M32_H20 with LMOTS_SHA256_N32_W4. -/

/-- Types of R373 as RFC 8554 and NIST SP 800-208 number them, and the sizes that go with them: the height of the tree, and the chains of
a one-time signature. -/
def lmsType : Nat := 8
def otsType : Nat := 3
def lmsHeight : Nat := 20
def otsChains : Nat := 67

/-- The digits of a byte string in base 16, the high one of each byte first. -/
def hexDigits (b : List Byte) : List Nat := b.flatMap fun x => [x.toNat / 16, x.toNat % 16]

/-- The digits of a digest and of its checksum. -/
def otsDigits (q : List Byte) : List Nat :=
  let d := hexDigits q
  d ++ (hexDigits (beBytes 2 ((d.map fun x => 15 - x).sum * 16))).take 3

/-- What comes before the hashed data: the identifier of the tree, and a leaf or node. -/
def lmsHead (id : List Byte) (q : Nat) : List Byte := id ++ beBytes 4 q

/-- The end of a chain of the one-time signature from its `a`-th value. -/
def otsChain (head : List Byte) (i a : Nat) (y : List Byte) : List Byte :=
  (List.range (15 - a)).foldl (fun t j => sha256 (head ++ beBytes 2 i ++ beBytes 1 (a + j) ++ t)) y

/-- The one-time key that a one-time signature of a message gives. -/
def otsKey (id : List Byte) (q : Nat) (sig msg : List Byte) : List Byte :=
  let head := lmsHead id q
  let digest := sha256 (head ++ beBytes 2 0x8181 ++ (sig.drop 4).take 32 ++ msg)
  let ends := (otsDigits digest).zipIdx.map fun x => otsChain head x.2 x.1 ((sig.drop (36 + 32 * x.2)).take 32)
  sha256 (head ++ beBytes 2 0x8080 ++ ends.flatten)

/-- The root of the tree from a leaf's one-time key and the nodes of its path. -/
def lmsRoot (id : List Byte) (q : Nat) (key : List Byte) (path : List Byte) : List Byte :=
  let node := 2 ^ lmsHeight + q
  (List.range lmsHeight).foldl (fun t i =>
    let n := node / 2 ^ i
    let y := (path.drop (32 * i)).take 32
    sha256 (lmsHead id (n / 2) ++ beBytes 2 0x8383 ++ if n % 2 = 1 then y ++ t else t ++ y))
    (sha256 (lmsHead id node ++ beBytes 2 0x8282 ++ key))

/-- Whether `sig` is a valid LMS signature over a message under a key, both of the types of R373. -/
def lmsOk (pub msg sig : List Byte) : Bool :=
  let id := (pub.drop 8).take 16
  let q := beNat (sig.take 4)
  let ots := (sig.drop 4).take 2180
  pub.length = 56 && sig.length = 2828 && beNat (pub.take 4) = lmsType && beNat ((pub.drop 4).take 4) = otsType &&
  beNat (ots.take 4) = otsType && beNat ((sig.drop 2184).take 4) = lmsType && q < 2 ^ lmsHeight &&
  lmsRoot id q (otsKey id q ots msg) (sig.drop 2188) = pub.drop 24

end Sys2Proof.Machine
end

