-- ==== Sys2Proof/Machine/Xfer.lean ====
section
/-! DEFINITION. The transfer engine: READ, WRITE, SEND, HANDOFF and BUF_READ (R438 to R444). -/
namespace Sys2Proof.Machine

/-! Descriptor (R439). -/

def xSp (d : BitVec 512) : Nat := dBits d 29 8
def xHbm (d : BitVec 512) : Nat := dBits d 71 32
def xGran (d : BitVec 512) : Nat := if dBits d 109 96 = 0 then 16384 else dBits d 109 96
def xRows (d : BitVec 512) : Nat := if dBits d 127 112 = 0 then 65536 else dBits d 127 112
def xSpStride (d : BitVec 512) : Nat := dBits d 149 128
def xHbmStride (d : BitVec 512) : Nat := dBits d 191 160
def xMsg (d : BitVec 512) : Nat := dBits d 203 192
def xList (d : BitVec 512) : Nat := dBits d 229 208
def xVcntBase (d : BitVec 512) : Nat := dBits d 255 240
def xDestHall (d : BitVec 512) : BitVec 16 := BitVec.ofNat 16 (dBits d 271 256)

/-- Operations of R438. -/
inductive XferOp where
  | read | write | send | handoff | bufRead
deriving DecidableEq, Repr

/-- OP codes (R438). -/
def XferOp.code : XferOp → Nat
  | .read => 0 | .write => 1 | .send => 2 | .handoff => 3 | .bufRead => 4

/-- Bits [hi:lo] set. -/
def xMask (hi lo : Nat) : Nat := (2 ^ (hi + 1 - lo) - 1) * 2 ^ lo

/-- Descriptor bits that an operation uses (R439). -/
def XferOp.used : XferOp → Nat
  | .read | .write => xMask 3 0 + xMask 29 8 + xMask 71 32 + xMask 109 96 + xMask 127 112 + xMask 149 128 + xMask 191 160
  | .send => xMask 3 0 + xMask 29 8 + xMask 127 112 + xMask 149 128 + xMask 203 192 + xMask 271 256
  | .handoff => xMask 3 0 + xMask 29 8
  | .bufRead => xMask 3 0 + xMask 29 8 + xMask 109 96 + xMask 127 112 + xMask 149 128 + xMask 229 208 + xMask 255 240

/-- What SP_ADDR must be a multiple of (R439). -/
def XferOp.align : XferOp → Nat
  | .send => 64 | .handoff => 16 | _ => 256

/-- Grounds for MALFORMED in the word (R438). -/
def xferWordBad (o : XferOp) (w : Issue) : Bool :=
  w.epoch || w.arg1 != 0 || (w.vcnt && o != .bufRead) || (w.arg0 != 0 && o != .send && !w.vcnt) ||
    (if o = .handoff then w.arg2.toNat ≥ 8 else w.arg2 != 0) || (if o = .bufRead then w.uspec.toNat ≥ 2 else w.uspec != 0)

/-- Grounds for MALFORMED in the descriptor (R438, R439). -/
def xferDescBad (o : XferOp) (d : BitVec 512) : Bool :=
  let strideUnit := if o = .send then 64 else 256
  dBits d 3 0 ≠ 7 || d.toNat &&& o.used ≠ d.toNat || xSp d % o.align ≠ 0 || xSpStride d % strideUnit ≠ 0 ||
    xHbm d % 256 ≠ 0 || xHbmStride d % 256 ≠ 0 || xList d % 8 ≠ 0 ||
    ((o = .read || o = .write) && xRows d * xGran d > 16384)

/-- Rows of the scratchpad that a READ, WRITE or BUF_READ names. -/
def xSpRows (d : BitVec 512) : List Range := rowRanges (xSp d) (xSpStride d) (xRows d) (256 * xGran d)

/-- Rows of HBM that a READ or WRITE names. -/
def xHbmRows (d : BitVec 512) : List Range := rowRanges (xHbm d) (xHbmStride d) (xRows d) (256 * xGran d)

/-- End of the scratchpad rows of `len` bytes. -/
def xSpEnd (d : BitVec 512) (len : Nat) : Nat := xSp d + (xRows d - 1) * xSpStride d + len

/-! Timing (R440). -/

/-- Three cycles of VCLK, and two, of a tile. -/
def State.vclk3 (s : State) (t : Fin 128) : Nat := 3 * Unit_.period .vec (s.zonePoint (zoneOf t.val))
def State.vclk2 (s : State) (t : Fin 128) : Nat := 2 * Unit_.period .vec (s.zonePoint (zoneOf t.val))

/-- Mesh path between the edge unit of an address's stack and a tile. -/
def State.granPath (s : State) (t : Fin 128) (a : Nat) : Nat := s.stackPath (((interGran a).map granStack).getD 0) t.val

/-- Addresses of the granules of an operation in their order: g = r × ROW_GRAN + j (R440). -/
def rowGranules (rows : List Range) : List Nat := rows.flatMap fun r => (List.range (r.2 / 256)).map fun j => r.1 + 256 * j

/-- The largest of the times of an operation's granules. -/
def latest (ts : List Nat) : Nat := ts.foldl max 0

/-- Admission of an XFER access: a window of the tile holds the stamped issue time, and the granule meets its frame at `at_`
of its number (R326, R327, R440). -/
def xferAdmission (i : TileIssue) (at_ : Nat → Nat → Nat) : Admission := fun n g s =>
  s.admitGran winXfer i.tile.val i.word.issue.toNat (issueStamp i.word + at_ n g) g fun s => s.tileFault i .xfer .unitCollision

/-- Occupancy in phases: one MCLK cycle for each unit of work; in an untimed step until the result (R440, R444; log 46). -/
def State.xferOcc (s : State) (n result : Nat) : Nat := if s.sch.regime = .untimed then result else 2 * n

/-- An XFER instruction: how its destinations beside those in the scratchpad are marked, and what it does. -/
def xferJob (o : XferOp) (i : TileIssue) (p : Plan) (mark : State → State) (run : Phase → Bool → State → State) : Job :=
  ⟨.xfer, 0, o.code, p, Work.plain (fun s => mark (s.markRanges i.tile.val p.writes)) run⟩

/-- Mark granules of the interleaved window POISON: a poisoned write of no bytes to each (R70, R329). -/
def State.markGranules (s : State) (as : List Nat) : State :=
  (as.filterMap interGran).foldl (fun s g => s.storePhys g [] true) s

/-- The granules of a row enter a tile's scratchpad, granule `j` at `time j` (R440). -/
def spadDues (t : Fin 128) (time : Nat → Phase) (a : Nat) (poison : Bool) (data : List Byte) : List Due :=
  (chunks 256 data).zipIdx.map fun c => ⟨time c.2, .spad t (a + 256 * c.2) c.1 poison⟩

/-- Whether the destinations of a READ, WRITE or BUF_READ can be decoded (R70; log 80). -/
def moveDecodes (d : BitVec 512) : Bool :=
  dBits d 3 0 = 7 && xRows d * xGran d ≤ 16384 && xSpEnd d (256 * xGran d) ≤ spadSize

/-- The state at a tile instruction's stamp (log 19). -/
def State.atStamp (s : State) (w : Issue) : State :=
  if s.sch.regime = .timed then s.advanceTo (s.sch.startPhase + issueStamp w) else s

/-! READ and WRITE. -/

/-- The edge unit next to a tile, whose controller counts the tile's accesses outside the window (R324). -/
def tileEdge (t : Fin 128) : Nat := (if t.val / 16 < 4 then 0 else 4) + t.val % 16 / 4

/-- Grounds for MALFORMED of a READ or WRITE. -/
def moveBad (o : XferOp) (w : Issue) (d : BitVec 512) : Bool :=
  xferWordBad o w || xferDescBad o d || xSpEnd d (256 * xGran d) > spadSize

/-- XFER_READ as the engine issues it. -/
def xferReadJob (i : TileIssue) (ecc : List EccErr) (s0 : State) : Job :=
  let d := s0.descriptor i.tile.val i.word.desc
  let bad := moveBad .read i.word d
  let known := moveDecodes d
  let hbm := if bad then [] else xHbmRows d
  let gs := rowGranules hbm
  let res := 384 + latest (gs.zipIdx.map fun g => 2 * g.2 + s0.granPath i.tile g.1) + s0.vclk2 i.tile
  let p : Plan := { bad := bad, decodes := known, reads := [], writes := if known then xSpRows d else [], regsIn := [], regsOut := [], waitTill := 0,
                    hbm := hbm, occ := s0.xferOcc gs.length res, result := res, rank := .xfer }
  xferJob .read i p id (fun at_ late s =>
    let r := (hbm.zipIdx).foldl (fun acc q =>
      let x := acc.2.readVia (xferAdmission i fun n _ => 384 + 2 * n) (isSecond i.stream) (tileEdge i.tile) .inter ecc
        (q.2 * xGran d) q.1.1 q.1.2
      (acc.1 ++ [x.1], x.2)) (([] : List MemRead), s)
    let poison := late || r.1.any MemRead.poison
    let time := fun (row j : Nat) => at_ + 384 + 2 * (row * xGran d + j) +
      s0.granPath i.tile (xHbm d + row * xHbmStride d + 256 * j) + s0.vclk2 i.tile
    let s1 := r.2.later (r.1.zipIdx.flatMap fun x => spadDues i.tile (time x.2) (xSp d + x.2 * xSpStride d) poison x.1.data)
    if poison then s1.poisonOut i else s1)

/-- XFER_READ (R438 to R440). -/
def execXferRead (i : TileIssue) (ecc : List EccErr) (s : State) : Host.Outcome State Fault Refusal := .next (issueJob i (xferReadJob i ecc s) s)

/-- The granules of a row of a WRITE: each that is admitted is read from the scratchpad at its time, and is seen in HBM from `till`
on (R326, R327, R440). -/
def writeRow (i : TileIssue) (d : BitVec 512) (adm : Admission) (at_ till : Phase) (late : Bool) (acc : List Due × State) (row : Nat) :
    List Due × State :=
  let as := (List.range (xGran d)).map fun j => (xHbm d + row * xHbmStride d + 256 * j, row * xGran d + j, j)
  let s0 := if as.any fun a => (interGran a.1).isNone then acc.2.addrRange (tileEdge i.tile) else acc.2
  as.foldl (fun acc a =>
    match interGran a.1 with
    | none => acc
    | some g =>
      let r := adm a.2.1 g acc.2
      if r.1 then (⟨at_ + 2 * a.2.1, .fetch i.tile (xSp d + row * xSpStride d + 256 * a.2.2) g late till⟩ :: acc.1, r.2) else (acc.1, r.2))
    (acc.1, s0)

/-- XFER_WRITE as the engine issues it. -/
def xferWriteJob (i : TileIssue) (s0 : State) : Job :=
  let d := s0.descriptor i.tile.val i.word.desc
  let bad := moveBad .write i.word d
  let hbm := if bad then [] else xHbmRows d
  let gs := rowGranules hbm
  let v3 := s0.vclk3 i.tile
  let res := v3 + latest (gs.zipIdx.map fun g => 2 * g.2 + s0.granPath i.tile g.1) + 320
  let p : Plan := { bad := bad, decodes := moveDecodes d, reads := if bad then [] else xSpRows d, writes := [], regsIn := [],
                    regsOut := [], waitTill := 0, hbm := hbm, occ := s0.xferOcc gs.length res, result := res, rank := .xfer }
  xferJob .write i p (State.markGranules · (rowGranules (xHbmRows d))) (fun at_ poison s =>
    let adm := xferAdmission i fun n g => v3 + 2 * n + s0.stackPath (granStack g) i.tile.val
    let r := (List.range (xRows d)).foldl (writeRow i d adm at_ (at_ + res) poison) ([], s)
    let s1 := r.2.later r.1
    if poison then s1.poisonOut i else s1)

/-- XFER_WRITE (R438 to R440). -/
def execXferWrite (i : TileIssue) (s : State) : Host.Outcome State Fault Refusal := .next (issueJob i (xferWriteJob i s) s)

/-! SEND. -/

/-- Cells of a message of a size (R440). -/
def msgCells (red : Bool) (bytes : Nat) : Nat := if red then ceilDiv bytes 60 else 1 + ceilDiv (bytes - 40) 60

/-- Grounds for MALFORMED of a SEND (R438, R439, R441). -/
def sendBad (timed : Bool) (w : Issue) (d : BitVec 512) (e : Nat) : Bool :=
  let k := ceKind e
  xferWordBad .send w || xferDescBad .send d || xSpEnd d (xMsg d) > spadSize || xMsg d = 0 ||
    !(k = chUnicast || k = chMulticast || k = chBackground || k = chReduction) ||
    (k = chReduction && (ceOp e = opDigest || xMsg d > 3840)) || (k ≠ chReduction && xMsg d > 3820) ||
    (!timed && !(k = chUnicast && ceMode e = 0))

/-- A cell of a scheduled message without its data, and where these stand: their offset in the message, their number, and their
first bit in the cell's body (R212, R441). -/
structure CellPlan where
  cell : FCell
  off : Nat
  len : Nat
  shift : Nat

/-- The cells of one scheduled message of a size (R212, R441); what a last cell lacks reads as zeros. -/
def scheduledCells (ch : BitVec 16) (red : Bool) (route bytes : Nat) : List CellPlan :=
  (List.range (msgCells red bytes)).map fun j =>
    let lo := if red then 60 * j else if j = 0 then 0 else 60 * j - 20
    let n := min (bytes - lo) (if red || j ≠ 0 then 60 else 40)
    if red then ⟨mkCell kReduce ch j false 0, lo, n, 0⟩
    else if j = 0 then ⟨mkCell kHead ch 0 false route, lo, n, 160⟩ else ⟨mkCell kBody ch j false 0, lo, n, 0⟩

/-- The cells of a scheduled message whose data are at hand, all of one mark. -/
def filledCells (ch : BitVec 16) (red : Bool) (route : Nat) (data : List Byte) (poison : Bool) : List FCell :=
  (scheduledCells ch red route data.length).map fun c => FCell.withData c.cell c.shift ((data.drop c.off).take c.len) poison

/-- A best-effort message of at most 460 bytes (R212, R213, R441; log 46). -/
def beCells (ch : BitVec 16) (hall unit addr : Nat) (data : List Byte) (marks : List Bool) : List FCell :=
  let n := msgCells false data.length
  (List.range n).map fun j =>
    let lo := if j = 0 then 0 else 60 * j - 20
    let len := if j = 0 then 40 else 60
    let v := leNat ((data.drop lo).take len)
    let poison := ((marks.drop lo).take len).any id
    if j = 0 then mkCell kBeHead ch 0 poison (hall + unit * 2 ^ 16 + (n - 1) * 2 ^ 24 + addr % 2 ^ 22 * 2 ^ 32 + v * 2 ^ 160)
    else mkCell kBody ch j poison v

/-- Data bytes of a best-effort message of eight cells (R441). -/
def bePart : Nat := 460

/-- Cut a message into best-effort messages, each carrying the next 460 bytes: offset, data, marks (R441). -/
def beParts (data : List Byte) (marks : List Bool) : List (Nat × List Byte × List Bool) :=
  (List.range (ceilDiv data.length bePart)).map fun k =>
    (bePart * k, (data.drop (bePart * k)).take bePart, (marks.drop (bePart * k)).take bePart)

/-- A message's bytes as the engine reads them, and the mark of each: its own, a failed access, or that of a late operand. -/
def State.messageBytes (s : State) (t : Fin 128) (r : Range) (late : Bool) : List Byte × List Bool :=
  let off := fun a => s.bankState t (bankOf a) != 0
  (s.spadRead t r, (List.range r.2).map fun i =>
    late || smGet false s.tiles.spadPoison (spadKey t.val (r.1 + i)) || off (r.1 + i))

/-- The messages of a SEND enter the tile's router, each cell read at its time and there three VCLK cycles later (R440, R441). -/
def sendTimed (i : TileIssue) (d : BitVec 512) (e : Nat) (at_ : Phase) (late : Bool) (s : State) : State :=
  let red : Bool := ceKind e = chReduction
  let cells := (List.range (xRows d)).flatMap fun m =>
    (scheduledCells i.word.arg0 red (ceRoute e) (xMsg d)).map fun c => (xSp d + m * xSpStride d + c.off, c)
  let fs := cells.zipIdx.map fun c =>
    (c.1, at_ + 2 * c.2, (⟨at_ + 2 * c.2 + s.vclk3 i.tile, .router i.tile, 0, 0, c.1.2.cell, if red then .reduce else .route, false⟩ : Flight))
  (fs.foldl (fun s f => s.fly f.2.2) s).later
    (fs.map fun f => ⟨f.2.1, .cell i.tile f.1.1 f.1.2.len late f.1.2.shift f.2.2⟩)

/-- The messages of an untimed SEND wait at the tile as best-effort messages (R74, R441). -/
def sendUntimed (i : TileIssue) (d : BitVec 512) (e : Nat) (at_ : Phase) (s : State) : State :=
  let msgs := (List.range (xRows d)).flatMap fun m =>
    let x := s.messageBytes i.tile (xSp d + m * xSpStride d, xMsg d) false
    (beParts x.1 x.2).map fun q =>
      (⟨i.tile.val, 0, beCells i.word.arg0 (xDestHall d).toNat (ceTile e) (ceAddr e + m * ceStride e + q.1) q.2.1 q.2.2,
        at_ + s.vclk3 i.tile, none⟩ : BeMsg)
  { s with fab := { s.fab with be := s.fab.be ++ msgs } }

/-- XFER_SEND as the engine issues it. -/
def xferSendJob (i : TileIssue) (s0 : State) : Job :=
  let d := s0.descriptor i.tile.val i.word.desc
  let e := s0.chanEntry i.word.arg0
  let bad := sendBad (s0.sch.regime = .timed) i.word d e
  let rows := if bad then [] else rowRanges (xSp d) (xSpStride d) (xRows d) (xMsg d)
  let n := xRows d * msgCells (ceKind e = chReduction) (xMsg d)
  let p : Plan := { bad := bad, decodes := false, reads := rows, writes := [], regsIn := [], regsOut := [], waitTill := 0, hbm := [],
                    occ := 2 * n, result := 2 * n + s0.vclk3 i.tile, rank := .xfer }
  xferJob .send i p id (fun at_ poison s =>
    let late := s.sch.regime = .timed && s.pendingAt (p.operands i.tile.val) at_
    let s1 := if s.sch.regime = .timed then sendTimed i d e at_ late s else sendUntimed i d e at_ s
    if poison then s1.poisonOut i else s1)

/-- XFER_SEND (R438 to R441, R444). -/
def execXferSend (i : TileIssue) (s : State) : Host.Outcome State Fault Refusal := .next (issueJob i (xferSendJob i s) s)

/-! HANDOFF. -/

/-- HANDOFF as the engine issues it. -/
def handoffJob (i : TileIssue) (s0 : State) : Job :=
  let d := s0.descriptor i.tile.val i.word.desc
  let k := i.word.arg2.toNat % 8
  let bad := xferWordBad .handoff i.word || xferDescBad .handoff d || xSp d + 16 > spadSize
  let res := s0.vclk3 i.tile + s0.stackPath k i.tile.val
  let p : Plan := { bad := bad, decodes := false, reads := if bad then [] else [(xSp d, 16)], writes := [], regsIn := [], regsOut := [],
                    waitTill := 0, hbm := [], occ := s0.xferOcc 1 res, result := res, rank := .xfer }
  xferJob .handoff i p id (fun at_ poison s =>
    let v := leNat (s.spadRead i.tile (xSp d, 16))
    let v1 := if poison && !bitOf v 24 then v + 2 ^ 24 else v
    let w : CtrlWrite := ⟨k, 0, 16, BitVec.ofNat 128 v1, isSecond i.stream, at_ + res⟩
    let s1 := { s with kln := { s.kln with ctrlQ := s.kln.ctrlQ ++ [w] } }
    if poison then s1.poisonOut i else s1)

/-- HANDOFF: the 16 bytes reach the hand-off port of kiln k, with POISON set when any of them is marked (R438 to R440, R442). -/
def execHandoff (i : TileIssue) (s : State) : Host.Outcome State Fault Refusal := .next (issueJob i (handoffJob i s) s)

/-! BUF_READ. -/

/-- Fields of an arrival-list entry (R252). -/
def leBuffer (v : Nat) : Nat := v % 2 ^ 16
def lePoison (v : Nat) : Bool := bitOf v 39

/-- Where the bytes of a list entry come from. -/
inductive BufSrc where
  | skip
  | absent
  | hbm (id addr : Nat)
  | spad (id tile addr : Nat)
deriving DecidableEq, Repr

/-- The source of list entry `n` (R443). -/
def State.bufSrc (s : State) (t : Fin 128) (w : Issue) (d : BitVec 512) (n v : Nat) : BufSrc :=
  if w.vcnt && xVcntBase d + n ≥ s.validCount t w then .skip
  else
    let id := leBuffer v
    match s.poolOf id, (s.buf id).live with
    | some (_, p), true => if p.scratch then .spad id p.tile (p.addr id) else .hbm id (p.addr id)
    | _, _ => .absent

/-- List entries and their sources (R443). -/
def State.bufSrcs (s : State) (t : Fin 128) (w : Issue) (d : BitVec 512) : List (Nat × BufSrc) :=
  let v := leNat (s.spadRead t (xList d, 8 * xRows d))
  (List.range (xRows d)).map fun n => (elemAt 64 v n, s.bufSrc t w d n (elemAt 64 v n))

/-- Grounds for MALFORMED of a BUF_READ. -/
def bufReadBad (w : Issue) (d : BitVec 512) : Bool :=
  xferWordBad .bufRead w || xferDescBad .bufRead d || xSpEnd d (256 * xGran d) > spadSize || xList d + 8 * xRows d > spadSize

/-- Times of the granules of a row, in phases from issue (R440). -/
def State.bufTimes (s : State) (t : Fin 128) (g0 gran : Nat) (b : BufSrc) : List Nat :=
  (List.range gran).map fun j =>
    2 * (g0 + j) + match b with
    | .hbm _ a => 384 + s.granPath t (a + 256 * j)
    | .spad _ u _ => s.vclk3 t + s.tilePath u t.val
    | _ => 0

/-- The bytes that a scratchpad-pool buffer gives: what lies beyond the scratchpad's end is open (log 46). -/
def State.bufSpad (s : State) (second : Bool) (u a n : Nat) : (List Byte × Bool) × State :=
  let src : Fin 128 := ⟨u % 128, Nat.mod_lt _ (by decide)⟩
  let r : Range := (a, min n (spadSize - a))
  let x := (s.access second src .xfer [r]).drawBytes (n - r.2)
  ((s.spadRead src r ++ x.1, s.readPoison src r), x.2)

/-- Copy the row of one list entry: its bytes, whether an input of it was POISON, and whether the row alone is marked (R443). -/
def bufRow (i : TileIssue) (ecc : List EccErr) (d : BitVec 512) (n v : Nat) (b : BufSrc) (s : State) :
    Option (List Byte × Bool × Bool) × State :=
  let len := 256 * xGran d
  match b with
  | .skip => (none, s)
  | .absent => (some (List.replicate len 0, false, true), s)
  | .hbm _ a =>
    let r := s.readVia (xferAdmission i fun k _ => 384 + 2 * k) (isSecond i.stream) (tileEdge i.tile) .inter ecc
      (n * xGran d) a len
    (some (r.1.data, r.1.poison, lePoison v), r.2)
  | .spad _ u a =>
    let r := s.bufSpad (isSecond i.stream) u a len
    (some (r.1.1, r.1.2, lePoison v), r.2)

/-- The releases of a BUF_READ: each copied buffer's once its last granule has been read (R443). -/
def bufRelease (i : TileIssue) (d : BitVec 512) (at_ : Phase) (srcs : List (Nat × BufSrc)) (s : State) : State :=
  (srcs.zipIdx).foldl (fun s q =>
    let done := at_ + 2 * ((q.2 + 1) * xGran d - 1)
    match q.1.2 with
    | .hbm id _ => s.releaseAt (done + 384) (xferUnit i.tile) id
    | .spad id _ _ => s.releaseAt done (xferUnit i.tile) id
    | _ => s) s

/-- BUF_READ as the engine issues it. -/
def bufReadJob (i : TileIssue) (ecc : List EccErr) (s0 : State) : Job :=
  let d := s0.descriptor i.tile.val i.word.desc
  let bad := bufReadBad i.word d
  let srcs := if bad then [] else s0.bufSrcs i.tile i.word d
  let len := 256 * xGran d
  let res := latest (srcs.zipIdx.flatMap fun q => s0.bufTimes i.tile (q.2 * xGran d) (xGran d) q.1.2) + s0.vclk2 i.tile
  let far := srcs.filterMap fun q => match q.2 with | .spad _ u a => some (u, (a, min len (spadSize - a))) | _ => none
  let hbm := srcs.filterMap fun q => match q.2 with | .hbm _ a => some (a, len) | _ => none
  let outs := (srcs.zipIdx.filter fun q => q.1.2 != .skip).map fun q => (xSp d + q.2 * xSpStride d, len)
  let known : Bool := dBits d 3 0 = 7 && xSpEnd d len ≤ spadSize
  let p : Plan := { bad := bad, decodes := known, reads := if bad then [] else [(xList d, 8 * xRows d)],
                    writes := if bad && known then xSpRows d else outs,
                    regsIn := far.flatMap fun q => rangeRegions q.1 [q.2], regsOut := [], waitTill := 0, hbm := hbm,
                    occ := s0.xferOcc (xRows d * xGran d) res, result := res, rank := .xfer, far := far }
  xferJob .bufRead i p id (fun at_ late s =>
      let r := (srcs.zipIdx).foldl (fun acc q =>
        let x := bufRow i ecc d q.2 q.1.1 q.1.2 acc.2
        (acc.1 ++ (x.1.toList.map fun y => (q, y)), x.2))
        (([] : List (((Nat × BufSrc) × Nat) × (List Byte × Bool × Bool))), s)
      let poison := late || r.1.any fun y => y.2.2.1
      let times := fun (q : (Nat × BufSrc) × Nat) => s0.bufTimes i.tile (q.2 * xGran d) (xGran d) q.1.2
      let s1 := r.2.later (r.1.flatMap fun y =>
        spadDues i.tile (fun j => at_ + (times y.1).getD j 0 + s0.vclk2 i.tile) (xSp d + y.1.2 * xSpStride d) (poison || y.2.2.2) y.2.1)
      let s2 := if poison || r.1.any (fun y => y.2.2.2) then s1.poisonOut i else s1
      if i.word.uspec.getLsbD 0 then bufRelease i d at_ srcs s2 else s2)

/-- BUF_READ (R438 to R440, R443, R444). -/
def execBufRead (i : TileIssue) (ecc : List EccErr) (s : State) : Host.Outcome State Fault Refusal :=
  let s1 := (s.atStamp i.word).coopCycle
  .next (if !s.running || (s.front (frontKey i.tile i.stream)).ended || s.sch.regime = .none then s
    else issueJob i (bufReadJob i ecc s1) s1)

end Sys2Proof.Machine
end

