-- ==== Sys2Proof/Machine/Depart.lean ====
section
/-! DEFINITION. Departures of the lauter engine and the racks: messages that leave in the slots reserved for their channel
(R244, R251, R310). -/
namespace Sys2Proof.Machine

/-- Where a message of several cells fits: the port whose run reserves its slots, the first slot's time, and the lane. -/
structure Fit where
  inst : Nat
  at_ : Phase
  lane : Nat
deriving DecidableEq, Repr

/-- The place of `n` cells in one run of a port, from a time on: the rest of a run with too little room stays idle (R251). -/
def State.runFit (s : State) (ch n inst i : Nat) (from_ : Phase) : Option Fit :=
  let r := s.run inst i
  let per := outPeriod inst
  let a := max r.start (ceilDiv (from_ - s.sch.startPhase) per)
  if r.channel = ch && a + n ≤ r.start + r.count && s.runHeld inst i (s.sch.startPhase + a * per) then
    some ⟨inst, s.sch.startPhase + a * per, r.lane⟩
  else none

/-- The earlier of two places. -/
def Fit.first (a b : Option Fit) : Option Fit :=
  match a, b with
  | some x, some y => if y.at_ < x.at_ then some y else some x
  | some x, none => some x
  | none, y => y

/-- Ports that a channel of this module may leave by: its first route entry's, or the mesh edge ports of rows `rows` for the
module's own (R214, R250). -/
def State.departInsts (s : State) (ch : BitVec 16) (rows : List Nat) : List Nat :=
  let code := bitsOf (ceRoute (s.chanEntry ch)) 3 0
  if code = 12 then rows.map (fun r => 16 + r) ++ rows.map (fun r => 24 + r) else routePorts code

/-- The first fitting reserved slots of a channel at or after a time (R244, R251). -/
def State.fit (s : State) (ch : BitVec 16) (rows : List Nat) (n : Nat) (from_ : Phase) : Option Fit :=
  let t := max from_ (smGet 0 s.fab.slotFree ch.toNat)
  (s.departInsts ch rows).foldl (fun acc inst =>
    (List.range (s.runCount inst)).foldl (fun acc i => Fit.first acc (s.runFit ch.toNat n inst i t)) acc) none

/-- Whether a port instance is on the east edge. -/
def instEast (inst : Nat) : Bool := if inst < 12 then portEast inst else 24 ≤ inst

/-- Where a unit beside the mesh enters it toward an edge: a tile's router, and the router's input (R437). -/
structure Entry where
  tile : Nat
  input : Nat
deriving DecidableEq, Repr

/-- The central port toward an edge (R437). -/
def centralEntry (east : Bool) : Entry := if east then ⟨56, 5⟩ else ⟨55, 5⟩

/-- The row of the memory edge unit of controller k. -/
def edgeRow (k : Nat) : Nat := if k < 4 then 0 else 7

/-- The router by which the memory edge unit of controller k enters the mesh toward an edge (log 50). -/
def stackEntry (k : Nat) (east : Bool) : Entry :=
  ⟨16 * edgeRow k + 4 * (k % 4) + (if east then 3 else 0), if k < 4 then 3 else 4⟩

/-- Phases from an entry's router input to the edge switch (R67). -/
def State.entryPath (s : State) (e : Entry) (east : Bool) : Nat := s.edgePath east (e.tile / 16) (e.tile % 16)

/-- A lane of a router input on which `n` cells find no other cell or path from a time on (log 50). -/
def State.openLane (s : State) (sw : Sw) (input n per : Nat) (t : Phase) : Nat :=
  ((List.range 64).find? fun k =>
    !(s.fab.flight.any fun f => f.sw = sw && f.input = input && f.lane = k && t ≤ f.at_ + 2 && f.at_ ≤ t + n * per) &&
    !(s.fab.latches.any fun l => l.sw = sw && l.input = input && l.lane = k && s.keeps t l)).getD 0

/-- The cells of a message enter the mesh so that each leaves the edge switch in its slot (R221, R437). -/
def State.place (s : State) (f : Fit) (entry : Bool → Entry) (cells : List FCell) : State :=
  let east := instEast f.inst
  let e := entry east
  let per := outPeriod f.inst
  let t := f.at_ - swTraverse .west - s.entryPath e east
  let lane := s.openLane (routerOf e.tile) e.input cells.length per t
  cells.zipIdx.foldl (fun s c => s.fly ⟨t + c.2 * per, routerOf e.tile, e.input, lane, c.1, .edge east, false⟩) s

/-- Phases that the cells of an entry need to the output of an edge switch, by the longer way. -/
def State.entryLead (s : State) (entry : Bool → Entry) : Nat :=
  swTraverse .west + max (s.entryPath (entry false) false) (s.entryPath (entry true) true)

/-- A message departs on a channel at or after a time: when it is placed, the time after its last slot. -/
def State.depart (s : State) (ch : BitVec 16) (entry : Bool → Entry) (rows : List Nat) (ready : Phase) (cells : List FCell) :
    Option (Phase × State) :=
  (s.fit ch rows cells.length (max ready (s.clk.phase + s.entryLead entry))).map fun f =>
    let end_ := f.at_ + cells.length * outPeriod f.inst
    let s1 := s.place f entry cells
    (end_, { s1 with fab := { s1.fab with slotFree := smSet 0 s1.fab.slotFree ch.toNat end_ } })

/-- The cells of a scheduled message with 40 head bytes and a body (R211, R240, R250, R310). -/
def State.headMessage (s : State) (ch : BitVec 16) (head : BitVec 320) (body : List Byte) (poison : Bool) : List FCell :=
  let data := leBytes 40 head.toNat ++ body
  filledCells ch false (ceRoute (s.chanEntry ch)) data poison

/-- The 40 data bytes of a received head, and of a body, as they stand. -/
def Msg.data (m : Msg) : Nat := bitsOf m.head.toNat 479 160

end Sys2Proof.Machine
end

