-- ==== Sys2Proof/Machine/Kiln.lean ====
section
/-! DEFINITION. The U streams, and the kiln: its tables, hand-offs, UPDATE and the commit's failures (R262 to R281). -/
namespace Sys2Proof.Machine

/-! Pages and keys. -/

/-- Page of a kiln. -/
def klnPage (k : Nat) : Page := .kln ⟨k % 8, Nat.mod_lt _ (by decide)⟩

/-- Key of a kiln's tensor. -/
def klnKey (k t : Nat) : Nat := 4096 * k + t

/-- The current layout epoch of a tensor (R303). -/
def State.epochOf (s : State) (t : Nat) : BitVec 16 := smGet 0 s.rack.epoch t

/-! Faults of U instructions and the incomplete commit. -/

/-- Why a commit is incomplete, as KLN_COMMIT_FIRST numbers it (R278, R281). -/
inductive CommitCause where
  | stale | fault | memory
deriving DecidableEq, Repr

/-- Code of a cause (R281). -/
def CommitCause.code : CommitCause → Nat
  | .stale => 0 | .fault => 1 | .memory => 2

/-- A commit is incomplete (R278, R402). -/
def State.commitIncomplete (s : State) (k : Nat) (c : CommitCause) (tensor : Nat) : State :=
  let p := klnPage k
  let s1 := ((s.setFlag p KLN.STATUS_COMMIT_INCOMPLETE true).raise p KLN.EV_COMMIT_INCOMPLETE).degraded
  if s1.flag p KLN.COMMIT_FIRST_VALID then s1 else
    s1.setFld p KLN.COMMIT_FIRST (tensor % 4096 + c.code * 2 ^ 16 + 2 ^ 31 + s.stepTick % 2 ^ 32 * 2 ^ 32)

/-- A schedule fault of a U instruction: it leaves the commit incomplete (R70, R72, R278). -/
def State.uFault (s : State) (k : Nat) (u : Unit_) (w : Issue) (f : SFault) : State :=
  (s.schedFault false f ⟨3, 0, wordUnit u w, w.issue.toNat⟩).commitIncomplete k .fault w.arg1.toNat

/-- A suppressed U instruction: the ranges of stack-local memory that it would have written are marked POISON, as poisoned writes of
no bytes (R70, R329; log 80). -/
def State.uSuppress (s : State) (k : Nat) (u : Unit_) (w : Issue) (f : SFault) (dest : List Range) : State :=
  (((dest.flatMap fun r => granules 256 r.1 r.2).eraseDups.filterMap fun g => localGran k (256 * g)).foldl
    (fun s g => s.storePhys g [] true) s).uFault k u w f

/-! U fronts. -/

/-- Section instance of the U stream of kiln and rack k (R51). -/
def uFront (k : Nat) : Nat := 512 + k

/-- End of the occupancy of a kiln or a rack. -/
def State.uBusy (s : State) (k : Nat) (u : Unit_) : Phase :=
  if u = .kln then smGet 0 s.kln.busy k else smGet 0 s.rack.busy k

/-- Occupy a kiln or a rack until a time. -/
def State.uOccupy (s : State) (k : Nat) (u : Unit_) (till : Phase) : State :=
  if u = .kln then { s with kln := { s.kln with busy := smSet 0 s.kln.busy k till } }
  else { s with rack := { s.rack with busy := smSet 0 s.rack.busy k till } }

/-- A U front moves past a word. -/
def State.passU (s : State) (k : Nat) (w : Issue) : State :=
  s.setFront (uFront k) ((s.front (uFront k)).pass w s.stepTick s.clk.phase)

/-- What a U instruction is, as its unit gives it: unit, OP, its own grounds for MALFORMED, the ranges that it would write, and what it
does when it issues. -/
structure UJob where
  unit : Unit_
  op : Nat
  bad : Bool
  dest : List Range
  run : Phase → State → State

/-- When a U instruction issues in a timed step: at its stamp, not before the verdict (R56, R62). -/
def State.uStamp (s : State) (w : Issue) : Phase :=
  s.sch.startPhase + max (issueStamp w) (4 * (s.fld .sch SCH.LAST_DIGEST + 3000))

/-- Issue in a timed step, once the verdict is valid and the stamp has arrived (R56, R59, R62, R70, R71). -/
def issueUTimed (k : Nat) (j : UJob) (w : Issue) (s0 : State) : State :=
  if s0.sch.valid != some true then s0 else
    let t := s0.uStamp w
    let s := s0.advanceTo t
    let f := s.front (uFront k)
    let unread := wordBad j.unit 0 j.op w || f.wordPoison
    let known := if unread then [] else j.dest
    let s' :=
      if !s.quarterReady f t then (s.uSuppress k j.unit w .streamUnderrun known).count .sch SCH.UNDERRUN_CNT
      else if unread || issueStamp w % 4 ≠ 0 || f.outOfOrder w || j.bad then s.uSuppress k j.unit w .malformed known
      else if t < s.uBusy k j.unit then s.uSuppress k j.unit w .unitCollision known
      else j.run t s
    s'.passU k w

/-- When a U instruction issues in an untimed step: at the first KCLK edge after its front's last one at which the unit is free (R58,
R73). -/
def State.uUntimed (s : State) (k : Nat) (u : Unit_) : Phase :=
  nextEdge 4 (max (max s.clk.phase (s.front (uFront k)).nextAt) (s.uBusy k u))

/-- Issue in an untimed step, once the U streams have started (R73, R74). -/
def issueUUntimed (k : Nat) (j : UJob) (w : Issue) (s0 : State) : State :=
  if !s0.sch.uStarted then s0 else
    let t := s0.uUntimed k j.unit
    let s := s0.advanceTo t
    (if wordBad j.unit 0 j.op w || (s.front (uFront k)).wordPoison then s.uFault k j.unit w .malformed
      else if j.bad then s.uSuppress k j.unit w .malformed j.dest else j.run t s).passU k w

/-- The U front k issues its next instruction (R55 to R59, R62, R74). -/
def issueU (k : Nat) (j : UJob) (w : Issue) (s : State) : State :=
  if !s.running || (s.front (uFront k)).ended then s
  else match s.sch.regime with
    | .none => s
    | .timed => issueUTimed k j w s
    | .untimed => issueUUntimed k j w s

/-! Stack-local memory of a kiln and a rack. -/

/-- The granules of ranges, each once, in order. -/
def rangeGranules (rs : List Range) : List Nat := (rs.flatMap fun r => granules 256 r.1 r.2).eraseDups

/-- Admission of a kiln or rack access in a timed step: a U window of its controller holds the issue tick (R326, R327; log 47). -/
def uAdmission (k : Nat) (u : Unit_) (w : Issue) : Admission := fun _ g s =>
  if s.sch.regime != .timed || s.inWindow k winU 0 w.issue.toNat then (true, s)
  else (false, s.refuse g winU w.issue.toNat false fun s => s.uFault k u w .unitCollision)

/-- Whether the accesses of a U instruction are admitted. -/
def State.uAdmitted (s : State) (k : Nat) (w : Issue) : Bool :=
  s.sch.regime != .timed || s.inWindow k winU 0 w.issue.toNat

/-- What reading or writing granules of a U instruction met: POISON, an uncorrectable error, and the number of the next granule. -/
structure UMet where
  poison : Bool
  ue : Bool
  next : Nat
deriving DecidableEq, Repr

/-- Read every granule of ranges once, with what was met before (R329). -/
def State.uRead (s : State) (k : Nat) (u : Unit_) (w : Issue) (ecc : List EccErr) (m : UMet) (rs : List Range) : UMet × State :=
  (rangeGranules rs).foldl (fun acc g =>
    let r := acc.2.readPiece (uAdmission k u w) false (.stack k) ecc acc.1.next (256 * g, 256)
    (⟨acc.1.poison || r.1.poison, acc.1.ue || r.1.ue, acc.1.next + 1⟩, r.2)) (m, s)

/-- The bytes that a read gives: zero where it was refused (R327). -/
def State.uBytes (s : State) (k : Nat) (w : Issue) (a n : Nat) : List Byte :=
  if s.uAdmitted k w then s.peek (.stack k) a n else List.replicate n 0

/-- What pieces hold of a granule, each from its offset there. -/
def piecesIn (g : Nat) (ps : List (Nat × List Byte)) : List (Nat × List Byte) :=
  ps.filterMap fun p =>
    let lo := max p.1 (256 * g)
    let hi := min (p.1 + p.2.length) (256 * (g + 1))
    if lo < hi then some (lo % 256, (p.2.drop (lo - p.1)).take (hi - lo)) else none

/-- A write of one granule by a kiln or a rack: its errors are met, and what it stores stands from `till` on (R276, R329); a refused
one is discarded (R327). -/
def State.uWriteGran (s : State) (k : Nat) (admission : Admission) (ecc : List EccErr) (m : UMet) (g : Nat)
    (ps : List (Nat × List Byte)) (till : Phase) : (UMet × List Due) × State :=
  let m1 : UMet := { m with next := m.next + 1 }
  match localGran k (256 * g) with
  | none => ((m1, []), s)
  | some q =>
    let adm := admission m.next q s
    if adm.1 then
      let e := eccOf ecc m.next
      let s1 := adm.2.corrected q e.1
      (({ m1 with ue := m.ue || e.2 }, [⟨till, .hbm q (piecesIn g ps) (m.poison || e.2)⟩]), if e.2 then s1.uncorrectable false q else s1)
    else ((m1, []), adm.2)

/-- Write pieces, each granule once, marked POISON when what was read was (R276, R327, R329). -/
def State.uWrite (s : State) (k : Nat) (admission : Admission) (ecc : List EccErr) (m : UMet) (ps : List (Nat × List Byte))
    (till : Phase) : UMet × State :=
  let r := (rangeGranules (ps.map fun p => (p.1, p.2.length))).foldl (fun acc g =>
    let x := acc.2.uWriteGran k admission ecc acc.1.1 g ps till
    ((x.1.1, acc.1.2 ++ x.1.2), x.2)) ((m, ([] : List Due)), s)
  (r.1.1, r.2.later r.1.2)

/-! The shard table (R262, R263). -/

/-- A shard entry of a kiln. -/
def State.shard (s : State) (k t : Nat) : Nat := (smGet 0 s.kln.shard (klnKey k t)).toNat

def shValid (e : Nat) : Bool := bitOf e 0
def shVote (e : Nat) : Bool := bitOf e 1
def shSparse (e : Nat) : Bool := bitOf e 2
def shCatch (e : Nat) : Bool := bitOf e 3
def shFmt (e : Nat) : Nat := bitsOf e 7 4
def shScal (e : Nat) : Nat := bitsOf e 9 8
def shFit (e : Nat) : Bool := bitOf e 10
def shCeil (e : Nat) : Nat := bitsOf e 19 16
def shN (e : Nat) : Nat := bitsOf e 63 32
def shIdx (e : Nat) : Nat := bitsOf e 95 64
def shRowLen (e : Nat) : Nat := bitsOf e 127 96
def shMaster (e : Nat) : Nat := bitsOf e 163 128
def shRem (e : Nat) : Nat := bitsOf e 199 164
def shMom (e : Nat) : Nat := bitsOf e 235 200
def shGrad (e : Nat) : Nat := bitsOf e 271 236
def shWc (e : Nat) : Nat := bitsOf e 307 272
def shWscale (e : Nat) : Nat := bitsOf e 343 308
def shPres (e : Nat) : Nat := bitsOf e 379 344
def shStamp (e : Nat) : Nat := bitsOf e 415 380
def shWts (e : Nat) : Fp := valueOf fFP32 (bitsOf e 447 416)

/-- Rows of a shard; 0 without ROWSPARSE (R276). -/
def shRows (e : Nat) : Nat := if shSparse e then shN e / shRowLen e else 0

/-- Working-copy block of a shard: 1 when it has no block scales (R262). -/
def shBlock (e : Nat) : Nat := max 1 (blockLen (shScal e))

/-- Whether WFMT and WSCAL pair (R262). -/
def shPairs (e : Nat) : Bool := (shFmt e = 1 && shScal e = 0) || (shFmt e = 4 && shScal e = 1) || (shFmt e = 7 && shScal e = 2)

/-- Gradient formats in the order of admission (R266). -/
def gradOrder : List Nat := [fT2, fE4M3, fE5M2, fBF16, fFP32]

/-- Whether GCEIL admits a gradient format (R266). -/
def gradAdmits (ceil g : Nat) : Bool :=
  if ceil = fT2 then g = fT2 else g ≠ fT2 && gradOrder.contains g && gradOrder.idxOf g ≤ gradOrder.idxOf ceil

/-- Bytes of the gradient region at the widest admitted format. -/
def shGradBytes (e : Nat) : Nat := packedBytes (shCeil e) (shN e)

/-- The regions of an entry (R262). -/
def shRegions (e : Nat) : List Range :=
  let n := shN e
  [(shMaster e, 4 * n), (shRem e, 2 * n), (shGrad e, shGradBytes e), (shWc e, packedBytes (shFmt e) n)] ++
  (if shVote e then [] else [(shMom e, 2 * n)]) ++
  (if shScal e = 0 then [] else [(shWscale e, n / shBlock e)]) ++
  (if shSparse e then [(shPres e, 8 * ceilDiv (shRows e) 64)] else []) ++
  (if shCatch e then [(shStamp e, 2 * shRows e)] else [])

/-- Whether two of a list of ranges share a byte. -/
def selfOverlap : List Range → Bool
  | [] => false
  | r :: t => t.any (overlaps r) || selfOverlap t

/-- Regions of every other valid entry of a kiln. -/
def State.otherRegions (s : State) (k t : Nat) : List Range :=
  (s.kln.shard.filter fun e => e.1 / 4096 = k && e.1 ≠ klnKey k t && shValid e.2.toNat).flatMap fun e => shRegions e.2.toNat

/-- The checks of R263 in its order, by number from 1; 0 when none fails.  They hold for every write, whatever its VALID (log 48). -/
def State.shardCheck (s : State) (k t e : Nat) : Nat :=
  let blk := shBlock e
  let feat := s.fld .glb GLB.FEAT_ACTIVE
  if !shPairs e || !gradOrder.contains (shCeil e) || bitsOf e 15 11 ≠ 0 || bitsOf e 31 20 ≠ 0 || bitsOf e 511 448 ≠ 0 ||
      shN e = 0 || (!shSparse e && shRowLen e ≠ 0) || (shVote e && shMom e ≠ 0) || (shScal e = 0 && shWscale e ≠ 0) then 1
  else if (shRegions e).any (fun r => r.1 % 256 ≠ 0 || r.1 + r.2 > 48 * 2 ^ 30) || selfOverlap (shRegions e) ||
      (shRegions e).any (fun r => (s.otherRegions k t).any (overlaps r)) then 2
  else if shN e % blk ≠ 0 || shIdx e % blk ≠ 0 || shRowLen e % blk ≠ 0 then 3
  else if (shSparse e && (shRowLen e = 0 || shN e % shRowLen e ≠ 0)) || (shCatch e && !shSparse e) then 4
  else if shVote e != (shCeil e = fT2) then 5
  else if (shVote e && !bitOf feat 1) || (shCatch e && !bitOf feat 2) then 6
  else 0

/-- Write the selected table entry (R263, R281): SHARD under its checks and the lock, HYPER always, the others never. -/
def klnCommit (k : Nat) (s : State) : State :=
  let p := klnPage k
  let t := s.fld p KLN.TAB_SEL_INDEX
  let v := ((List.range 8).map fun i => s.fld p (KLN.TAB_DATA i) * 2 ^ (64 * i)).sum
  match s.fld p KLN.TAB_SEL_TABLE with
  | 0 =>
    if s.locked then s.lockWrite p (KLN.TAB_DATA 7).off
    else
      let c := s.shardCheck k t v
      if c ≠ 0 then
        (s.tally p KLN.TABLE_REJECT_CNT KLN.EV_TABLE_REJECT).setFld p KLN.REJECT_INFO (t + c * 2 ^ 12 + 2 ^ 31)
      else { s with kln := { s.kln with shard := smSet 0 s.kln.shard (klnKey k t) (BitVec.ofNat 512 v) } }
  | 1 => { s with kln := { s.kln with hyper := smSet 0 s.kln.hyper (klnKey k t) (BitVec.ofNat 128 v) } }
  | _ => s

/-- KLN_TAB_WRITE: a write of KLN_TAB_DATA7 (R263, R281). -/
def execKlnTabWrite (k : Fin 8) (w : RegW) (s : State) : Host.Outcome State Fault Refusal :=
  .next (commitWrite s (klnPage k.val) (KLN.TAB_DATA 7).off w (klnCommit k.val))

/-- The entry that KLN_TAB_SEL selects (R281). -/
def State.klnTabEntry (s : State) (k : Nat) : Nat :=
  let p := klnPage k
  let key := klnKey k (s.fld p KLN.TAB_SEL_INDEX)
  match s.fld p KLN.TAB_SEL_TABLE with
  | 0 => (smGet 0 s.kln.shard key).toNat
  | 1 => (smGet 0 s.kln.hyper key).toNat
  | 2 => (smGet 0 s.kln.hyperActive key).toNat
  | _ => match smGet none s.kln.handed key with
    | none => 0
    | some h => 1 + h.gfmt.toNat * 2 ^ 4 + h.gscale.toNat * 2 ^ 8 + h.poison.toNat * 2 ^ 16 + h.epoch.toNat * 2 ^ 32

/-! Hyperparameters (R264). -/

/-- The four values of a HYPER entry: η, β1, β2 and λ. -/
structure HyperVal where
  eta : Fp
  b1 : Fp
  b2 : Fp
  lam : Fp
deriving DecidableEq, Repr

/-- Unpack a HYPER entry (R264). -/
def hyperVal (e : BitVec 128) : HyperVal :=
  let v := fun (i : Nat) => valueOf fFP32 (bitsOf e.toNat (32 * i + 31) (32 * i))
  ⟨v 0, v 1, v 2, v 3⟩

/-- Finite and at least +0 (R264); the zeros are equal (R77). -/
def hyperNonneg (x : Fp) : Bool := x.isFin && fpZero.le x

/-- In [0, 1] (R264). -/
def hyperUnit (x : Fp) : Bool := x.isFin && fpZero.le x && x.le fpOne

/-- The check of R264: 1 when η or λ fails, 2 when β1 or β2 fails, 0 when all pass (log 48). -/
def hyperCheck (e : BitVec 128) : Nat :=
  let h := hyperVal e
  if !(hyperNonneg h.eta && hyperNonneg h.lam) then 1 else if !(hyperUnit h.b1 && hyperUnit h.b2) then 2 else 0

/-- The part of a table that belongs to kiln k. -/
def ofKiln {α : Type} (k : Nat) (m : SMap α) : SMap α := m.filter fun e => e.1 / 4096 = k

/-- A table of kiln k replaced, the others' kept. -/
def replaceKiln {α : Type} (k : Nat) (old new : SMap α) : SMap α :=
  (old.filter fun e => e.1 / 4096 < k) ++ ofKiln k new ++ (old.filter fun e => k < e.1 / 4096)

/-- A requested swap takes place at a step start (R264). -/
def State.hyperSwapAt (s : State) (k : Nat) : State :=
  let p := klnPage k
  if !s.flag p KLN.STATUS_SWAP_PEND then s else
    let s1 := s.setFlag p KLN.STATUS_SWAP_PEND false
    let valid := (ofKiln k s.kln.shard).filter fun e => shValid e.2.toNat
    match valid.find? fun e => hyperCheck (smGet 0 s.kln.hyper e.1) ≠ 0 with
    | some e =>
      (s1.tally p KLN.HYPER_REJECT_CNT KLN.EV_HYPER_REJECT).setFld p KLN.REJECT_INFO
        (e.1 % 4096 + hyperCheck (smGet 0 s.kln.hyper e.1) * 2 ^ 12 + 2 ^ 16 + 2 ^ 31)
    | none => { s1 with kln := { s1.kln with hyperActive := replaceKiln k s1.kln.hyperActive s1.kln.hyper } }

/-- What KLN_CTRL does beside CNT_CLR: a 1 in HYPER_SWAP requests a swap (R264, R281). -/
def klnCtrl (k : Nat) (w : RegW) (s : State) : State :=
  if wHits w KLN.CTRL_HYPER_SWAP then s.setFlag (klnPage k) KLN.STATUS_SWAP_PEND true else s

/-- HYPER_SWAP: a write to KLN_CTRL (R264). -/
def execHyperSwap (k : Fin 8) (w : RegW) (s : State) : Host.Outcome State Fault Refusal :=
  .next (ctrlWrite s (klnPage k.val) w (klnCtrl k.val w))

/-! Hand-offs (R265 to R267, R295, R330). -/

/-- Reasons of KLN_HANDOFF_FIRST: count, event bit and code (R266, R281). -/
inductive HandRefusal where
  | late | bad | double | stale
deriving DecidableEq, Repr

def HandRefusal.cnt : HandRefusal → Fld
  | .late => KLN.LATE_CNT | .bad => KLN.HANDOFF_BAD_CNT | .double => KLN.DOUBLE_CNT | .stale => KLN.STALE_CNT

def HandRefusal.ev : HandRefusal → Nat
  | .late => KLN.EV_LATE_HANDOFF | .bad => KLN.EV_HANDOFF_BAD | .double => KLN.EV_DOUBLE_GRADIENT
  | .stale => KLN.EV_STALE_EPOCH

def HandRefusal.code : HandRefusal → Nat
  | .late => 0 | .bad => 1 | .double => 2 | .stale => 3

/-- Format and scale that a hand-off latches: the active selection for an AUTO tensor, else the record's (R295). -/
def State.handFormat (s : State) (t v : Nat) : BitVec 4 × BitVec 8 :=
  let e := s.hydEntry t
  if hEnable e && hAuto e then s.selection t else (BitVec.ofNat 4 (bitsOf v 15 12), BitVec.ofNat 8 (bitsOf v 23 16))

/-- The first row of *Hand-off decisions* that refuses a record (R266). -/
def State.handDecide (s : State) (k v : Nat) (second : Bool) : Option HandRefusal :=
  let t := v % 4096
  let e := s.shard k t
  if s.sch.regime = .none || (s.sch.regime = .timed && s.stepTick > s.fld .sch SCH.LAST_DIGEST) then some .late
  else if second || !shValid e || !gradAdmits (shCeil e) (s.handFormat t v).1.toNat || bitsOf v 31 25 ≠ 0 ||
      bitsOf v 127 48 ≠ 0 then some .bad
  else if (smGet none s.kln.handed (klnKey k t)).isSome then some .double
  else if BitVec.ofNat 16 (bitsOf v 47 32) ≠ s.epochOf t then some .stale
  else none

/-- A refused hand-off: counted, the first recorded; a stale epoch makes a timed step invalid (R266, R279). -/
def State.handRefuse (s : State) (k v : Nat) (r : HandRefusal) : State :=
  let p := klnPage k
  let s1 := s.tally p r.cnt r.ev
  let s2 := if s1.flag p KLN.HANDOFF_FIRST_VALID then s1 else
    s1.setFld p KLN.HANDOFF_FIRST (v % 4096 + r.code * 2 ^ 12 + 2 ^ 15 + s.stepTick % 2 ^ 32 * 2 ^ 32)
  if r = .stale && s.sch.regime = .timed then s2.invalid false .staleEpoch else s2

/-- An accepted hand-off (R266, R267). -/
def State.handAccept (s : State) (k v : Nat) : State :=
  let t := v % 4096
  let f := s.handFormat t v
  let h : Handed := ⟨f.1, f.2, bitOf v 24, BitVec.ofNat 16 (bitsOf v 47 32)⟩
  let s1 := (({ s with kln := { s.kln with handed := smSet none s.kln.handed (klnKey k t) (some h) } }).count
    (klnPage k) KLN.HANDOFF_CNT).countN (klnPage k) KLN.STATUS_HANDED 1
  if bitOf v 24 then s1.invalid false .poison else s1

/-- A write in the control space of an edge unit (R330). -/
def State.controlWrite (s : State) (x : CtrlWrite) : State :=
  if x.off ≠ 0 || x.size ≠ 16 then s.tally (memPage x.k) MEM.CTRL_BAD_CNT MEM.EV_CTRL_BAD
  else match s.handDecide x.k x.data.toNat x.second with
    | some r => s.handRefuse x.k x.data.toNat r
    | none => s.handAccept x.k x.data.toNat

/-- HANDOFF_RECORD: the first write on its way reaches the control space of edge unit k (R266, R330). -/
def execHandoffRecord (k : Fin 8) (s : State) : Host.Outcome State Fault Refusal :=
  .next (match s.kln.ctrlQ.find? fun x => x.k = k.val with
    | none => s
    | some x => (({ s with kln := { s.kln with ctrlQ := s.kln.ctrlQ.erase x } }).advanceTo x.at_).controlWrite x)

/-- Step start clears the latched hand-offs (R266). -/
def State.clearHanded (s : State) (k : Nat) : State :=
  (({ s with kln := { s.kln with handed := smDrop (fun e => e / 4096 = k) s.kln.handed } }).setFld (klnPage k)
    KLN.STATUS_HANDED 0).setFld (klnPage k) KLN.HANDOFF_FIRST 0

/-! The update of one element (R269, R270, R274). -/

/-- RNE_fp32 under R269: an exact zero rounds to +0. -/
def kRne32 (x : Fp) : Nat := if x.isZero then 0 else (rne32 x).toNat

/-- RNE_bf16 under R269. -/
def kRneBf16 (x : Fp) : Nat := if x.isZero then 0 else rneBf16 x

/-- Codes of an element's master, remainder and momentum. -/
structure KElem where
  w : Nat
  r : Nat
  m : Nat
deriving DecidableEq, Repr

/-- Whether the state of an element is finite; SIGNVOTE has no momentum. -/
def KElem.finite (x : KElem) (vote : Bool) : Bool :=
  (valueOf fFP32 x.w).isFin && (valueOf fBF16 x.r).isFin && (vote || (valueOf fBF16 x.m).isFin)

/-- The value that the master and its remainder carry. -/
def KElem.value (x : KElem) : Fp := (valueOf fFP32 x.w).add (valueOf fBF16 x.r)

/-- What the update of an element gives, and its events. -/
structure KRes where
  el : KElem
  gradBad : Bool
  stateBad : Bool
  ovf : Bool
deriving DecidableEq, Repr

/-- Sign of a value as an integer value. -/
def signVal (x : Fp) : Fp :=
  if x.isNan || x.isZero then fpZero else if x.sign then fpInt (-1) 0 else fpInt 1 0

/-- The master and remainder after a step in direction `u` (R269). -/
def masterStep (h : HyperVal) (x : KElem) (u : Fp) : Option (Nat × Nat) :=
  let w := valueOf fFP32 x.w
  let v := x.value.sub (h.eta.mul (u.add (h.lam.mul w)))
  let w1 := kRne32 v
  if (valueOf fFP32 w1).isInf then none else some (w1, kRneBf16 (v.sub (valueOf fFP32 w1)))

/-- Update of one element: SIGNMOM (R269), or SIGNVOTE (R270). -/
def kElem (vote : Bool) (h : HyperVal) (x : KElem) (g : Fp) : KRes :=
  if !x.finite vote then ⟨x, false, true, false⟩
  else
    let g1 := if g.isFin then g else fpZero
    let m := valueOf fBF16 x.m
    let blend := fun (b : Fp) => (b.mul m).add ((fpOne.sub b).mul g1)
    let u := if vote then g1 else signVal (valueOf fFP32 (kRne32 (blend h.b1)))
    let m1 := if vote then x.m else kRneBf16 (blend h.b2)
    match masterStep h x u with
    | some wr => ⟨⟨wr.1, wr.2, m1⟩, !g.isFin, false, false⟩
    | none => ⟨⟨x.w, x.r, m1⟩, !g.isFin, false, true⟩

/-- pw(b, k) of R274, from bit `i` on, with `n` bits to go. -/
def pwFrom (k : Nat) : Nat → Nat → Fp → Fp → Fp
  | 0, _, p, _ => p
  | n + 1, i, p, q => pwFrom k n (i + 1) (if bitOf k i then f32 (rne32 (p.mul q)) else p) (f32 (rne32 (q.mul q)))

/-- pw(b, k) (R274). -/
def pw (b : Fp) (k : Nat) : Fp := pwFrom k 16 0 fpOne b

/-- The decay of skipped steps on one element (R274). -/
def kDecay (vote : Bool) (dw pb2 : Fp) (x : KElem) : KElem :=
  if !x.finite vote then x
  else
    let v := dw.mul x.value
    let w := rne32 v
    ⟨w.toNat, rneBf16 (v.sub (f32 w)), if vote then x.m else rneBf16 (pb2.mul (valueOf fBF16 x.m))⟩

/-- The gradient's value (R265): a T2 vote, or a code times 2^(GSCALE − 127). -/
def gradValue (h : Handed) (code : Nat) : Fp :=
  if h.gfmt.toNat = fT2 then valueOf fT2 code
  else if h.gscale = 0xFF then .nan
  else (valueOf h.gfmt.toNat code).mul (.fin false 1 ((h.gscale.toNat : Int) - 127))

/-! The working copy (R271). -/

/-- sr of a value over ts × s (R88, R94). -/
def srQuot (ts : Fp) (scale : Nat) (x : Fp) (r : Nat) : Conv :=
  match x, ts.mul (valueOf fUE6M2 scale) with
  | .fin s m e, .fin _ n g => if m = 0 then zeroResult fE2M1 s else srQ fE2M1 s m n (e - g) r
  | _, _ => nanResult fE2M1

/-- The working copy of a block of values with their random numbers: its scale code, if it has one, and its elements (R271). -/
def wcBlock (e : Nat) (xs : List (Fp × Nat)) : BlockEnc :=
  let vs := xs.map Prod.fst
  match shScal e with
  | 0 => ⟨0, xs.map fun x => sr (shFmt e) x.1 x.2⟩
  | 1 =>
    if mxNan (shFmt e) vs then nanBlock vs.length
    else
      let sexp := mxExp (shFmt e) (shFit e) vs
      ⟨(sexp + 127).toNat, xs.map fun x => sr (shFmt e) (mxElem (shFmt e) sexp x.1) x.2⟩
  | _ =>
    if fbNan (shWts e) vs then nanBlock vs.length
    else
      let s := fbScale (shWts e) vs
      ⟨s, xs.map fun x => srQuot (shWts e) s x.1 x.2⟩

/-! UPDATE. -/

/-- A row that takes part: its first element and length, and its k of R274. -/
structure KRow where
  first : Nat
  len : Nat
  skip : Nat
deriving DecidableEq, Repr

/-- What UPDATE does to the rows of a shard: pieces to write, counts, and for the tap the gradients and their reserved T2 codes. -/
structure KOut where
  pieces : List (Nat × List Byte)
  gradBad : Nat
  stateBad : Nat
  ovf : Nat
  wcOvf : Nat
  elems : Nat
  nz : Nat
  t2 : Nat
deriving DecidableEq, Repr

/-- Everything an UPDATE needs beside memory. -/
structure KCtx where
  e : Nat
  tensor : Nat
  h : HyperVal
  hand : Handed
  seed : BitVec 64
  step : W32
deriving DecidableEq, Repr

/-- The random number of an element (R271). -/
def KCtx.rand (c : KCtx) (i : Nat) : Nat :=
  (genRandom c.seed (BitVec.ofNat 12 c.tensor) (BitVec.ofNat 32 (shIdx c.e + i)) c.step).toNat

/-- Byte range that elements `a … a + n − 1` of a packed array fill (R83). -/
def packedRange (fmt base a n : Nat) : Range :=
  let w := fmtWidth fmt
  let lo := a * w / 8
  (base + lo, ((a + n) * w + 7) / 8 - lo)

/-- Codes of elements `a … a + n − 1` of a packed array, given its reader. -/
def codesAt (rd : Nat → Nat → List Byte) (fmt base a n : Nat) : List Nat :=
  let r := packedRange fmt base a n
  let v := leNat (rd r.1 r.2) / 2 ^ (a * fmtWidth fmt % 8)
  (List.range n).map fun i => elemAt (fmtWidth fmt) v i

/-- The elements of a row after the update, with their events, the gradient and its code (R269, R270, R274). -/
def KCtx.rowResults (c : KCtx) (rd : Nat → Nat → List Byte) (row : KRow) : List (KRes × Fp × Nat) :=
  let vote := shVote c.e
  let a := row.first
  let n := row.len
  let ws := codesAt rd fFP32 (shMaster c.e) a n
  let rs := codesAt rd fBF16 (shRem c.e) a n
  let ms := if vote then List.replicate n 0 else codesAt rd fBF16 (shMom c.e) a n
  let gs := codesAt rd c.hand.gfmt.toNat (shGrad c.e) a n
  let dw := pw (f32 (rne32 (fpOne.sub (c.h.eta.mul c.h.lam)))) row.skip
  let pb2 := pw c.h.b2 row.skip
  ((ws.zip rs).zip (ms.zip gs)).map fun q =>
    let x : KElem := ⟨q.1.1, q.1.2, q.2.1⟩
    let g := gradValue c.hand q.2.2
    (kElem vote c.h (if row.skip ≥ 1 then kDecay vote dw pb2 x else x) g, g, q.2.2)

/-- One row: what is written of it, and its counts (R269 to R272).  Rows are whole blocks of the working copy (R263). -/
def KCtx.row (c : KCtx) (rd : Nat → Nat → List Byte) (row : KRow) : KOut :=
  let e := c.e
  let a := row.first
  let res := c.rowResults rd row
  let els := res.map fun x => x.1.el
  let xs := els.zipIdx.map fun x => (x.1.value, c.rand (a + x.2))
  let bs := if shScal e = 0 then [wcBlock e xs] else (chunks (shBlock e) xs).map (wcBlock e)
  let convs := (bs.map BlockEnc.elems).flatten
  { pieces := [((packedRange fFP32 (shMaster e) a row.len).1, pack fFP32 (els.map KElem.w)),
        ((packedRange fBF16 (shRem e) a row.len).1, pack fBF16 (els.map KElem.r))] ++
      (if shVote e then [] else [((packedRange fBF16 (shMom e) a row.len).1, pack fBF16 (els.map KElem.m))]) ++
      [((packedRange (shFmt e) (shWc e) a row.len).1, pack (shFmt e) (convs.map Conv.code))] ++
      (if shScal e = 0 then [] else [(shWscale e + a / shBlock e, bs.map fun b => BitVec.ofNat 8 b.scale)]),
    gradBad := res.countP fun x => x.1.gradBad, stateBad := res.countP fun x => x.1.stateBad,
    ovf := res.countP fun x => x.1.ovf, wcOvf := convs.countP fun x => x.ev = some .overflow,
    elems := row.len, nz := res.countP fun x => !x.2.1.isZero,
    t2 := t2Reserved c.hand.gfmt.toNat (res.map fun x => x.2.2) }

/-- Two rows' outcomes together. -/
def KOut.add (x y : KOut) : KOut :=
  ⟨x.pieces ++ y.pieces, x.gradBad + y.gradBad, x.stateBad + y.stateBad, x.ovf + y.ovf, x.wcOvf + y.wcOvf, x.elems + y.elems,
    x.nz + y.nz, x.t2 + y.t2⟩

/-- Steps since a row was last updated, of 1 to 65,536 (R274). -/
def rowAge (n stamp : Nat) : Nat := if n % 65536 = stamp % 65536 then 65536 else (n + 65536 - stamp % 65536) % 65536

/-- The rows of a shard that take part, from its presence bits and stamps (R273, R274). -/
def kRows (e n : Nat) (pres : Nat → Bool) (stamp : Nat → Nat) : List KRow :=
  if shSparse e then
    ((List.range (shRows e)).filter pres).map fun j =>
      ⟨j * shRowLen e, shRowLen e, if shCatch e then rowAge n (stamp j) - 1 else 0⟩
  else [⟨0, shN e, 0⟩]

/-- The stamps that an UPDATE writes (R274). -/
def kStamps (e n : Nat) (pres : Nat → Bool) (stamp : Nat → Nat) : List (Nat × List Byte) :=
  if !shCatch e then [] else
    (List.range (shRows e)).filterMap fun j =>
      if pres j then some (shStamp e + 2 * j, leBytes 2 (n % 65536))
      else if rowAge n (stamp j) = 65536 then some (shStamp e + 2 * j, leBytes 2 ((n + 1) % 65536))
      else none

/-- Ranges that the rows of an UPDATE read, state tensor by state tensor. -/
def kReads (e gfmt : Nat) (rows : List KRow) : List (List Range) :=
  let of := fun (fmt base : Nat) => rows.map fun r => packedRange fmt base r.first r.len
  [of fFP32 (shMaster e), of fBF16 (shRem e)] ++ (if shVote e then [] else [of fBF16 (shMom e)]) ++ [of gfmt (shGrad e)]

/-- Read several lists of ranges, one after another. -/
def State.uReads (s : State) (k : Nat) (u : Unit_) (w : Issue) (ecc : List EccErr) (rss : List (List Range)) : UMet × State :=
  rss.foldl (fun acc rs => acc.2.uRead k u w ecc acc.1 rs) (⟨false, false, 0⟩, s)

/-- Occupancy of an UPDATE in phases (R276). -/
def kOcc (e : Nat) : Nat := 4 * (8 + ceilDiv (2 * shN e) 315 + ceilDiv (shRows e) 64)

/-- Count an UPDATE's events (R269, R271, R273). -/
def State.kCount (s : State) (k skipped : Nat) (o : KOut) : State :=
  let p := klnPage k
  ((((((s.countN p KLN.ELEM_CNT o.elems).countN p KLN.ROWS_SKIPPED_CNT skipped).tallyN p KLN.GRAD_NONFINITE_CNT o.gradBad
    KLN.EV_GRAD_NONFINITE).tallyN p KLN.STATE_NONFINITE_CNT o.stateBad KLN.EV_STATE_NONFINITE).tallyN p KLN.MASTER_OVF_CNT
    o.ovf KLN.EV_MASTER_OVERFLOW).tallyN p KLN.WC_OVF_CNT o.wcOvf KLN.EV_WC_OVERFLOW)

/-- The update of a shard with an accepted hand-off (R269 to R274). -/
def kUpdate (k : Nat) (w : Issue) (ecc : List EccErr) (t : Nat) (hand : Handed) (at_ : Phase) (s : State) : State :=
  let e := s.shard k t
  let n := s.fld .sch SCH.STEP_INDEX
  let rd := fun (a m : Nat) => s.uBytes k w a m
  let pres := fun (j : Nat) => bitOf (leNat (rd (shPres e) (8 * ceilDiv (shRows e) 64))) j
  let stamp := fun (j : Nat) => leNat (rd (shStamp e + 2 * j) 2)
  let rows := kRows e n pres stamp
  let c : KCtx := { e := e, tensor := t, h := hyperVal (smGet 0 s.kln.hyperActive (klnKey k t)), hand := hand,
                    seed := BitVec.ofNat 64 (s.fld (klnPage k) KLN.SEED), step := BitVec.ofNat 32 n }
  let o := (rows.map (c.row rd)).foldl KOut.add ⟨[], 0, 0, 0, 0, 0, 0, 0⟩
  let pre := (if shSparse e then [[(shPres e, 8 * ceilDiv (shRows e) 64)]] else []) ++
    (if shCatch e then [[(shStamp e, 2 * shRows e)]] else [])
  let r := s.uReads k .kln w ecc (pre ++ kReads e hand.gfmt.toNat rows)
  let x := r.2.uWrite k (uAdmission k .kln w) ecc r.1 (o.pieces ++ kStamps e n pres stamp) (at_ + kOcc e + 400)
  let s1 := (x.2.kCount k (if shSparse e then shRows e - rows.length else 0) o).tap at_ t (.kiln o.elems o.nz o.t2)
  if x.1.ue then s1.commitIncomplete k .memory t else s1

/-- What an UPDATE does when it issues (R276, R277). -/
def kIssue (k : Nat) (w : Issue) (ecc : List EccErr) (at_ : Phase) (s0 : State) : State :=
  let t := w.arg1.toNat % 4096
  let e := if shValid (s0.shard k t) then s0.shard k t else 0
  let s1 := (s0.uOccupy k .kln (at_ + kOcc e)).count (klnPage k) KLN.UPDATE_CNT
  let s := { s1 with kln := { s1.kln with updated := s1.kln.updated ++ [(klnKey k t, at_ + kOcc e + 400)] } }
  match smGet none s.kln.handed (klnKey k t), shValid (s0.shard k t) with
  | some h, true =>
    if h.epoch ≠ s.epochOf t then
      (s.tally (klnPage k) KLN.UPDATE_STALE_CNT KLN.EV_UPDATE_STALE).commitIncomplete k .stale t
    else kUpdate k w ecc t h at_ s
  | _, _ => s.tally (klnPage k) KLN.NO_GRAD_CNT KLN.EV_NO_GRADIENT

/-- Grounds for MALFORMED of an UPDATE (R268). -/
def updateBad (w : Issue) : Bool :=
  !w.epoch || w.desc != 0 || w.arg0 != 0 || w.arg2 != 0 || w.arg1.toNat ≥ 4096 || w.vcnt || w.uspec != 0

/-- Regions that an UPDATE writes: none of them when its tensor has no hand-off of its epoch (R271, R274, R277). -/
def State.updateDest (s : State) (k t : Nat) : List Range :=
  let e := s.shard k t
  match smGet none s.kln.handed (klnKey k t), shValid e with
  | some h, true =>
    if h.epoch ≠ s.epochOf t then [] else
      (shRegions e).filter fun r => r.1 ≠ shGrad e && !(shSparse e && r.1 = shPres e)
  | _, _ => []

/-- UPDATE as the kiln issues it. -/
def updateJob (k : Nat) (w : Issue) (ecc : List EccErr) (s : State) : UJob :=
  ⟨.kln, 0, updateBad w, if w.arg1.toNat < 4096 then s.updateDest k w.arg1.toNat else [], kIssue k w ecc⟩

/-- UPDATE (R268 to R279). -/
def execUpdate (k : Fin 8) (w : Issue) (ecc : List EccErr) (s : State) : Host.Outcome State Fault Refusal :=
  .next (issueU k.val (updateJob k.val w ecc s) w s)

end Sys2Proof.Machine
end

