-- ==== Sys2Proof/Machine/Rack.lean ====
section
/-! DEFINITION. The racks: the rack table, the epoch fence, OPEN, SEND, arrivals and CLOSE (R303 to R314, R320). -/
namespace Sys2Proof.Machine

/-! Rack entries (R306). -/

/-- A rack entry. -/
def State.rackEntry (s : State) (k e : Nat) : Nat := (smGet 0 s.rack.tab (rackKey k e)).toNat

def rkValid (v : Nat) : Bool := bitOf v 0
def rkCopy (v : Nat) : Bool := bitOf v 1
def rkSink (v : Nat) : Bool := bitOf v 2
def rkComp (v c : Nat) : Bool := bitOf v (8 + c)
def rkTensor (v : Nat) : Nat := bitsOf v 27 16
def rkCe (v : Nat) : Nat := bitsOf v 63 32
def rkExpect (v : Nat) : Nat := bitsOf v 95 64
def rkNewIdx (v : Nat) : Nat := bitsOf v 127 96
def rkMap (v : Nat) : Nat := bitsOf v 163 128
def rkSetIdx (v : Nat) : Bool := bitOf v 164

/-- Local chunks of an entry: N / CE, none when it holds no shard (R306, R307). -/
def rackChunks (v sh : Nat) : Nat := if rkCe v = 0 then 0 else shN sh / rkCe v

/-- Whether racking is an active feature (R349). -/
def State.racking (s : State) : Bool := bitOf (s.fld .glb GLB.FEAT_ACTIVE) 6

/-- Whether a write of a rack entry is ignored, `sh` being the shard entry of its tensor, and racking active or not (R306, R349). -/
def rackReject (active : Bool) (v sh : Nat) : Bool :=
  let ce := rkCe v
  (rkValid v && !active) || (ce ≠ 0 && !shValid sh) || (ce ≠ 0 && shN sh % ce ≠ 0) || ce % 512 ≠ 0 ||
    (ce ≠ 0 && rkComp v 5 && ce % shRowLen sh ≠ 0) || (rkComp v 2 && shVote sh) || (rkComp v 5 && !shCatch sh) ||
    rkExpect v > rackChunks v sh || (rkCopy v && rkSink v) || bitsOf v 7 3 ≠ 0 || bitsOf v 15 14 ≠ 0 ||
    bitsOf v 31 28 ≠ 0 || bitsOf v 255 165 ≠ 0 || rkMap v % 256 ≠ 0

/-- Write the entry that RACK_TAB_SEL selects (R303, R306, R320). -/
def rackCommit (s : State) : State :=
  let i := s.fld .rack RACK.TAB_SEL_INDEX
  let k := s.fld .rack RACK.TAB_SEL_CTRL
  let v := ((List.range 4).map fun j => s.fld .rack (RACK.TAB_DATA j) * 2 ^ (64 * j)).sum
  let reject := s.tally .rack RACK.TABLE_REJECT_CNT RACK.EV_TABLE_REJECT
  match s.fld .rack RACK.TAB_SEL_TABLE with
  | 0 =>
    if s.locked then s.lockWrite .rack (RACK.TAB_DATA 3).off
    else if v ≥ 2 ^ 16 then reject
    else { s with rack := { s.rack with epoch := smSet 0 s.rack.epoch i (BitVec.ofNat 16 v) } }
  | 1 =>
    if s.locked then s.lockWrite .rack (RACK.TAB_DATA 3).off
    else if i ≥ 64 then s
    else if rackReject s.racking v (s.shard k (rkTensor v)) then reject
    else { s with rack := { s.rack with tab := smSet 0 s.rack.tab (rackKey k i) (BitVec.ofNat 256 v) } }
  | _ => s

/-- RACK_TAB_WRITE: a write of RACK_TAB_DATA3 (R306, R320). -/
def execRackTabWrite (w : RegW) (s : State) : Host.Outcome State Fault Refusal :=
  .next (commitWrite s .rack (RACK.TAB_DATA 3).off w rackCommit)

/-- The entry that RACK_TAB_SEL selects (R305, R320). -/
def State.rackTabEntry (s : State) : Nat :=
  let i := s.fld .rack RACK.TAB_SEL_INDEX
  match s.fld .rack RACK.TAB_SEL_TABLE with
  | 0 => (s.epochOf i).toNat
  | 1 => if i < 64 then s.rackEntry (s.fld .rack RACK.TAB_SEL_CTRL) i else 0
  | 2 => smGet 0 s.rack.drain i
  | _ => 0

/-! Chunks (R307). -/

/-- The regions of a component and their bytes per chunk (R307; log 49): the working copy has its codes and its block scales. -/
def compRegions (v sh c : Nat) : List Range :=
  let ce := rkCe v
  match c with
  | 0 => [(shMaster sh, 4 * ce)]
  | 1 => [(shRem sh, 2 * ce)]
  | 2 => [(shMom sh, 2 * ce)]
  | 3 => [(shGrad sh, ce * fmtWidth (shCeil sh) / 8)]
  | 4 => (shWc sh, ce * fmtWidth (shFmt sh) / 8) :: (if shScal sh = 0 then [] else [(shWscale sh, ce / blockLen (shScal sh))])
  | _ => [(shStamp sh, 2 * (ce / shRowLen sh))]

/-- b_c of a component (R307). -/
def chunkBytes (v sh c : Nat) : Nat := ((compRegions v sh c).map Prod.snd).sum

/-- The components of an entry. -/
def rackComps (v : Nat) : List Nat := (List.range 6).filter (rkComp v)

/-- B_ch (R308). -/
def rackBytes (v sh : Nat) : Nat := ((rackComps v).map (chunkBytes v sh)).sum

/-- The pieces of memory that bytes `off … off + n − 1` of chunk `j` lie in, region after region. -/
def chunkPieces (j off n : Nat) : List Range → List Range
  | [] => []
  | r :: t =>
    let here := min n (r.2 - off)
    (if here = 0 then [] else [(r.1 + j * r.2 + off, here)]) ++ chunkPieces j (off - r.2) (n - here) t

/-- A chunk-map entry (R307). -/
structure MapEntry where
  channel : BitVec 16
  dtensor : Nat
  dctrl : Nat
  stay : Bool
  dchunk : Nat
deriving DecidableEq, Repr

/-- Unpack a chunk-map entry. -/
def mapEntry (v : Nat) : MapEntry := ⟨BitVec.ofNat 16 v, bitsOf v 27 16, bitsOf v 30 28, bitOf v 31, bitsOf v 63 32⟩

/-- The marks of a chunk. -/
def State.chunk (s : State) (k e j : Nat) : Chunk := smGet Chunk.initial s.rack.chunks (chunkKey k e j)

/-- Replace a chunk's marks. -/
def State.setChunk (s : State) (k e j : Nat) (c : Chunk) : State :=
  { s with rack := { s.rack with chunks := smSet Chunk.initial s.rack.chunks (chunkKey k e j) c } }

/-- Whether a chunk is marked SENT at a time (R310). -/
def Chunk.sentBy (c : Chunk) (t : Phase) : Bool :=
  match c.sent with
  | some u => u ≤ t
  | none => false

/-- An entry's open state. -/
def State.rackOpen (s : State) (k e : Nat) : RackOpen := smGet RackOpen.initial s.rack.open_ (rackKey k e)

/-- Replace an entry's open state. -/
def State.setRackOpen (s : State) (k e : Nat) (o : RackOpen) : State :=
  { s with rack := { s.rack with open_ := smSet RackOpen.initial s.rack.open_ (rackKey k e) o } }

/-! Failures (R309, R311, R312). -/

/-- Causes of RACK_FIRST (R320). -/
inductive RackCause where
  | fence | guard | stray | epoch | dup | incomplete
deriving DecidableEq, Repr

def RackCause.code : RackCause → Nat
  | .fence => 0 | .guard => 1 | .stray => 2 | .epoch => 3 | .dup => 4 | .incomplete => 5

def RackCause.cnt : RackCause → Fld
  | .fence => RACK.FENCE_CNT | .guard => RACK.GUARD_CNT | .stray => RACK.STRAY_CNT | .epoch => RACK.EPOCH_CNT
  | .dup => RACK.DUP_CNT | .incomplete => RACK.INCOMPLETE_CNT

/-- Count a failure and record the first of the step (R320). -/
def State.rackFail (s : State) (c : RackCause) (tensor k chunk : Nat) : State :=
  let s1 := s.count .rack c.cnt
  if s1.flag .rack RACK.FIRST_VALID then s1 else
    s1.setFld .rack RACK.FIRST (tensor + k % 8 * 2 ^ 12 + c.code * 2 ^ 16 + 2 ^ 31 + chunk % 2 ^ 32 * 2 ^ 32)

/-- A counted case of R311 or R312: COPY_BAD for a COPY entry, else the fault OVERWRITE_GUARD, whose commit is incomplete. -/
def State.rackCase (s : State) (c : RackCause) (copy : Option Nat) (tensor k chunk : Nat) (fault : State → State) : State :=
  let s1 := s.rackFail c tensor k chunk
  match copy with
  | some e =>
    let s2 := s1.raise .rack RACK.EV_COPY_BAD
    if e < 8 then s2.setFld .rack RACK.COPY_BAD (s2.fld .rack RACK.COPY_BAD ||| 2 ^ (8 * (k % 8) + e)) else s2
  | none => fault (s1.raise .rack RACK.EV_OVERWRITE_GUARD)

/-- The fault of an arriving part (R72, R278, R311). -/
def State.guardFault (s : State) (k tensor : Nat) : State :=
  (s.schedFault false .overwriteGuard s.nowhere).commitIncomplete k .fault tensor

/-! OPEN (R308, R309, R313). -/

/-- Whether a stream word is an UPDATE of a tensor stamped after a time (R55, R268, R309). -/
def updateAfter (v t stamp : Nat) : Bool :=
  bitsOf v 37 34 = Unit_.kln.code && bitsOf v 49 38 = 0 && bitsOf v 93 78 = t &&
    stamp < bitsOf v 33 2 * 4 + bitsOf v 1 0

/-- The words of a STREAM section, as HBM holds them (R55). -/
def State.streamWord (s : State) (inst i : Nat) : Nat :=
  match s.section 2 inst with
  | some x => s.peekNat .inter (x.1 + 16 * i) 16
  | none => 0

/-- Number of words of a STREAM section. -/
def State.streamLen (s : State) (inst : Nat) : Nat :=
  match s.section 2 inst with
  | some x => x.2 / 16
  | none => 0

/-- Whether any U stream holds an UPDATE of a tensor stamped later (R309). -/
def State.updateLater (s : State) (t stamp : Nat) : Bool :=
  (List.range 8).any fun k => (List.range (s.streamLen (uFront k))).any fun i => updateAfter (s.streamWord (uFront k) i) t stamp

/-- The fence of R309 for an OPEN of a tensor at a time; an untimed step checks its second condition alone (R314). -/
def State.fenceHolds (s : State) (t : Nat) (w : Issue) (at_ : Phase) : Bool :=
  (s.sch.regime = .untimed || smGet 0 s.rack.drain t * 4 ≤ issueStamp w) &&
  !(s.kln.updated.any fun u => u.1 % 4096 = t && at_ < u.2) && !s.updateLater t (issueStamp w)

/-- The epoch of a tensor goes up at its first OPEN that is neither COPY nor SINK (R313). -/
def State.bumpEpoch (s : State) (v : Nat) : State :=
  let t := rkTensor v
  if rkCopy v || rkSink v || s.rack.bumped.contains t then s else
    { s with rack := { s.rack with epoch := smSet 0 s.rack.epoch t (s.epochOf t + 1), bumped := s.rack.bumped ++ [t] } }

/-- Clear every chunk mark of an entry (log 49). -/
def State.clearChunks (s : State) (k e : Nat) : State :=
  { s with rack := { s.rack with chunks := smDrop (fun key => key / 2 ^ 32 = rackKey k e) s.rack.chunks } }

/-- What OPEN does when it issues; an entry whose fence failed stays fenced for the step (R309, R313). -/
def rackOpenIssue (k : Nat) (w : Issue) (at_ : Phase) (s0 : State) : State :=
  let e := w.arg0.toNat
  let v := s0.rackEntry k e
  let t := rkTensor v
  let s := s0.uOccupy k .rack (at_ + 16)
  if s.fenceHolds t w at_ then ((s.clearChunks k e).setRackOpen k e ⟨true, (s.rackOpen k e).fenced, 0⟩).bumpEpoch v
  else
    (((s.setRackOpen k e ⟨false, true, 0⟩).rackFail .fence t k 0).raise .rack RACK.EV_EPOCH_FENCE).uFault k .rack w .epochFence

/-- Whether SEND and CLOSE of an entry act: it is open, and no OPEN of it has failed in the step (R309). -/
def RackOpen.acts (o : RackOpen) : Bool := o.isOpen && !o.fenced

/-- What is wrong with any rack word (R308, R349). -/
def State.rackWordBad (s : State) (w : Issue) : Bool :=
  !s.racking || w.desc != 0 || w.vcnt || w.uspec != 0 || w.arg0.toNat ≥ 64

/-- RACK OPEN (R308, R309, R313). -/
def execOpenRack (k : Fin 8) (w : Issue) (s : State) : Host.Outcome State Fault Refusal :=
  let v := s.rackEntry k.val w.arg0.toNat
  .next (issueU k.val ⟨.rack, 0, s.rackWordBad w || !w.epoch || w.arg2 != 0 || !rkValid v || w.arg1.toNat ≠ rkTensor v, [],
    rackOpenIssue k.val w⟩ w s)

/-! SEND (R310). -/

/-- Body bytes of a part: 3,780, or 420 in an untimed step (R240, R310, R314). -/
def State.partBytes (s : State) : Nat := if s.sch.regime = .untimed then 420 else 3780

/-- The head data of a rack message (R310). -/
def rackHead (m : MapEntry) (comp part : Nat) (epoch : BitVec 16) : BitVec 320 :=
  BitVec.ofNat 320 (m.dtensor + m.dctrl * 2 ^ 12 + comp * 2 ^ 16 + m.dchunk * 2 ^ 32 + part * 2 ^ 64 + epoch.toNat * 2 ^ 80)

/-- The parts of one component of chunk `j`, read where it lies, after what the instruction's reads met before (R307, R310): a part is
marked POISON when its own granules are. -/
def State.compParts (s : State) (k : Nat) (w : Issue) (ecc : List EccErr) (met : UMet) (e j c : Nat) (m : MapEntry) (ready : Phase) :
    (List RackPart × UMet) × State :=
  let v := s.rackEntry k e
  let sh := s.shard k (rkTensor v)
  let n := chunkBytes v sh c
  let size := s.partBytes
  (List.range (ceilDiv n size)).foldl (fun acc p =>
    let ps := chunkPieces j (p * size) (min size (n - p * size)) (compRegions v sh c)
    let r := acc.2.uRead k .rack w ecc { acc.1.2 with poison := false } ps
    let part : RackPart := ⟨rackKey k e, j, m.channel, ready, rackHead m c p (s.epochOf (rkTensor v)),
      ps.flatMap fun q => s.uBytes k w q.1 q.2, r.1.poison⟩
    ((acc.1.1 ++ [part], r.1), r.2)) (([], met), s)

/-- Mark a chunk SENT from a time on, and count it (R310, R320). -/
def State.markSent (s : State) (k e j : Nat) (t : Phase) : State := s.chunkSent (chunkKey k e j) t

/-- SEND processes chunk `j` at a time (R310): a STAY chunk is marked SENT, any other is read and queued. -/
def State.sendChunk (s0 : State) (k : Nat) (w : Issue) (ecc : List EccErr) (met : UMet) (e j : Nat) (t : Phase) : UMet × State :=
  let v := s0.rackEntry k e
  let rm := s0.uRead k .rack w ecc met [(rkMap v + 8 * j, 8)]
  let m := mapEntry (leNat (s0.uBytes k w (rkMap v + 8 * j) 8))
  if m.stay then (rm.1, rm.2.markSent k e j t)
  else
    let r := (rackComps v).foldl (fun acc c =>
      let x := acc.2.compParts k w ecc acc.1.2 e j c m (t + 480)
      ((acc.1.1 ++ x.1.1, x.1.2), x.2)) ((([] : List RackPart), rm.1), rm.2)
    (r.1.2, if r.1.1.isEmpty then r.2.markSent k e j t
      else { r.2 with rack := { r.2.rack with queue := r.2.rack.queue ++ r.1.1 } })

/-- What SEND does when it issues: the next ARG2 chunks, as far as the shard goes (R308, R310; log 49).  An uncorrectable error leaves
the commit incomplete (R278, R329). -/
def rackSendIssue (k : Nat) (w : Issue) (ecc : List EccErr) (at_ : Phase) (s0 : State) : State :=
  let e := w.arg0.toNat
  let v := s0.rackEntry k e
  let sh := s0.shard k (rkTensor v)
  let o := s0.rackOpen k e
  if !o.acts then s0 else
    let per := ceilDiv (rackBytes v sh) 256
    let n := min w.arg2.toNat (rackChunks v sh - o.sendPtr)
    let s1 := (s0.uOccupy k .rack (at_ + 4 * (4 + w.arg2.toNat * per))).setRackOpen k e { o with sendPtr := o.sendPtr + n }
    let r := (List.range n).foldl (fun acc i =>
      acc.2.sendChunk k w ecc acc.1 e (o.sendPtr + i) (at_ + 4 * (4 + i * per))) ((⟨false, false, 0⟩ : UMet), s1)
    if r.1.ue then r.2.commitIncomplete k .memory (rkTensor v) else r.2

/-- RACK SEND (R308, R310). -/
def execRackSend (k : Fin 8) (w : Issue) (ecc : List EccErr) (s : State) : Host.Outcome State Fault Refusal :=
  .next (issueU k.val ⟨.rack, 1, s.rackWordBad w || w.epoch || w.arg1 != 0 || w.arg2 = 0, [], rackSendIssue k.val w ecc⟩ w s)

/-- Send parts as scheduled messages, in order, as far as runs have room: the time after the last one's slots, and those that stay
(R251, R310). -/
def State.departParts (k : Nat) : List RackPart → Phase → State → (Phase × List RackPart) × State
  | [], t, s => ((t, []), s)
  | p :: ps, t, s =>
    match s.depart p.channel (stackEntry k) (List.range 8) p.readyAt (s.headMessage p.channel p.head p.data p.poison) with
    | none => ((t, p :: ps), s)
    | some r => State.departParts k ps r.1 r.2

/-- A part as a best-effort message of 8 cells, whose destination fields the spec does not state (R314; log 43).  The last part of a
chunk marks it SENT as it leaves its source (log 49). -/
def State.rackBe (s : State) (k : Nat) (p : RackPart) (last : Bool) : State :=
  let d := s.draw
  let data := leBytes 40 p.head.toNat ++ p.data
  let hall := d.1.toNat % 2 ^ 16
  let unit := bitsOf d.1.toNat 23 16
  let addr := bitsOf d.1.toNat 53 32
  let m : BeMsg := ⟨(stackEntry k false).tile, (stackEntry k false).input,
    beCells p.channel hall unit addr data (List.replicate data.length p.poison), p.readyAt,
    if last then some (p.entry * 2 ^ 32 + p.chunk) else none⟩
  { d.2 with fab := { d.2.fab with be := d.2.fab.be ++ [m] } }

/-- RACK_CHUNK_DEPART: the first chunk that controller k has waiting for a channel departs, and is marked SENT when its last
cell does; parts without room in the channel's runs wait (R251, R310, R314). -/
def execRackChunkDepart (k : Fin 8) (channel : BitVec 16) (s : State) : Host.Outcome State Fault Refusal :=
  let mine := fun (p : RackPart) => p.entry / 64 = k.val && p.channel = channel
  .next (match s.rack.queue.find? mine with
    | none => s
    | some p0 =>
      let same := fun (p : RackPart) => mine p && p.entry = p0.entry && p.chunk = p0.chunk
      let parts := s.rack.queue.filter same
      match s.sch.regime with
      | .none => s
      | .untimed =>
        parts.zipIdx.foldl (fun s x => s.rackBe k.val x.1 (x.2 + 1 = parts.length))
          { s with rack := { s.rack with queue := s.rack.queue.filter fun p => !same p } }
      | .timed =>
        let r := State.departParts k.val parts s.clk.phase s
        let s1 := { r.2 with rack := { r.2.rack with queue := s.rack.queue.filter fun p => !same p || r.1.2.contains p } }
        if r.1.2.isEmpty then s1.markSent k.val (p0.entry % 64) p0.chunk r.1.1 else s1)

/-! Arrivals (R311). -/

/-- The open entry of a tensor at a controller. -/
def State.openEntry (s : State) (k t : Nat) : Option Nat :=
  (List.range 64).find? fun e => (s.rackOpen k e).isOpen && rkTensor (s.rackEntry k e) = t

/-- Parts that a chunk has in all. -/
def State.chunkParts (s : State) (v sh : Nat) : Nat := ((rackComps v).map fun c => ceilDiv (chunkBytes v sh c) s.partBytes).sum

/-- Whether a part is one of those that a chunk has: its component is racked, and its chunk, PART and length lie within it (R307,
R311). -/
def State.partFits (s : State) (v sh chunk comp part len : Nat) : Bool :=
  (rackComps v).contains comp && chunk < rackChunks v sh && part * s.partBytes < chunkBytes v sh comp &&
    min s.partBytes (chunkBytes v sh comp - part * s.partBytes) ≤ len

/-- Admission of the writes of a part that arrives: a U window of its controller holds the tick of its arrival (R326, R327). -/
def partAdmission (k : Nat) (at_ : Phase) : Admission := fun _ g s =>
  let tick := (at_ - s.sch.startPhase) / 4
  if s.sch.regime != .timed || s.inWindow k winU 0 tick then (true, s)
  else (false, s.refuse g winU tick false fun s => s.serviceFault false)

/-- A part is written, visible 80 ns later, and its chunk is complete when every part that it has was written; an uncorrectable error
leaves the commit incomplete (R68, R311, R312, R329). -/
def State.takePart (s : State) (k e chunk comp part : Nat) (data : List Byte) (poison : Bool) (at_ : Phase) : State :=
  let v := s.rackEntry k e
  let sh := s.shard k (rkTensor v)
  let size := s.partBytes
  let n := chunkBytes v sh comp
  let ps := if (rackComps v).contains comp && chunk < rackChunks v sh then
    chunkPieces chunk (part * size) (min data.length (min size (n - part * size))) (compRegions v sh comp) else []
  let cut := ps.foldl (fun (acc : List (Nat × List Byte) × List Byte) q => (acc.1 ++ [(q.1, acc.2.take q.2)], acc.2.drop q.2)) ([], data)
  let r := s.drawErrs.2.uWrite k (partAdmission k at_) s.drawErrs.1 ⟨poison, false, 0⟩ cut.1 (at_ + visibleAfter)
  let s1 := if r.1.ue then r.2.commitIncomplete k .memory (rkTensor v) else r.2
  if !s.partFits v sh chunk comp part data.length then s1 else
    let c := s.chunk k e chunk
    let seen := if c.parts.contains (comp * 2 ^ 16 + part) then c.parts else c.parts ++ [comp * 2 ^ 16 + part]
    let done := seen.length ≥ s.chunkParts v sh
    let s2 := s1.setChunk k e chunk { c with parts := seen, complete := done }
    if done then s2.count .rack RACK.CHUNK_RECV_CNT else s2

/-- The first check that a part fails (R311). -/
def State.partCheck (s : State) (k e chunk : Nat) (epoch : BitVec 16) (at_ : Phase) : Option RackCause :=
  let v := s.rackEntry k e
  let c := s.chunk k e chunk
  let stay := (mapEntry (s.peekNat (.stack k) (rkMap v + 8 * chunk) 8)).stay
  if !rkCopy v && !rkSink v && epoch ≠ s.epochOf (rkTensor v) then some .epoch
  else if !rkSink v && !c.sentBy at_ then some .guard
  else if c.complete || (stay && chunk < rackChunks v (s.shard k (rkTensor v))) then some .dup
  else none

/-- A rack message reaches its controller (R310, R311). -/
def State.rackArrive (s : State) (m : Msg) : State :=
  let h := m.data
  let t := h % 4096
  let k := bitsOf h 14 12
  let chunk := bitsOf h 63 32
  let epoch := BitVec.ofNat 16 (bitsOf h 95 80)
  match s.openEntry k t with
  | none => s.rackCase .stray none t k chunk fun s => s.guardFault k t
  | some e =>
    match s.partCheck k e chunk epoch m.at_ with
    | some c => s.rackCase c (if rkCopy (s.rackEntry k e) then some e else none) t k chunk fun s => s.guardFault k t
    | none => s.takePart k e chunk (bitsOf h 23 16) (bitsOf h 79 64) m.body m.poison m.at_

/-- RACK_PART_ARRIVAL: the first message for a rack that has arrived whole (R311). -/
def execRackPartArrival (s0 : State) : Host.Outcome State Fault Refusal :=
  let s := s0.settle s0.clk.phase
  .next (match s.fab.arrived.find? fun m => m.sink = .rack with
    | none => s0
    | some m => ({ s with fab := { s.fab with arrived := s.fab.arrived.erase m } }).rackArrive m)

/-! CLOSE (R312). -/

/-- Whether an entry ends without a mismatch (R312). -/
def State.rackComplete (s : State) (k e : Nat) (at_ : Phase) : Bool :=
  let v := s.rackEntry k e
  let n := rackChunks v (s.shard k (rkTensor v))
  let got := s.rack.chunks.countP fun c => c.1 / 2 ^ 32 = rackKey k e && c.2.complete
  got = rkExpect v && (rkSink v || (List.range n).all fun j =>
    (s.chunk k e j).sentBy at_ || (mapEntry (s.peekNat (.stack k) (rkMap v + 8 * j) 8)).stay)

/-- NEW_IDX_BASE goes into the shard entry (R312). -/
def State.writeIdx (s : State) (k v : Nat) : State :=
  let key := klnKey k (rkTensor v)
  let old := (smGet 0 s.kln.shard key).toNat
  let new := BitVec.ofNat 512 (old - shIdx old * 2 ^ 64 + rkNewIdx v * 2 ^ 64)
  { s with kln := { s.kln with shard := smSet 0 s.kln.shard key new } }

/-- What CLOSE does when it issues (R312). -/
def rackCloseIssue (k : Nat) (w : Issue) (at_ : Phase) (s0 : State) : State :=
  let e := w.arg0.toNat
  let v := s0.rackEntry k e
  let o := s0.rackOpen k e
  if !o.acts then s0 else
    let s := (s0.uOccupy k .rack (at_ + 16)).setRackOpen k e ⟨false, false, o.sendPtr⟩
    if s.rackComplete k e at_ then (if rkSetIdx v then s.writeIdx k v else s)
    else s.rackCase .incomplete (if rkCopy v then some e else none) (rkTensor v) k 0 fun s => s.uFault k .rack w .overwriteGuard

/-- RACK CLOSE (R308, R312). -/
def execCloseRack (k : Fin 8) (w : Issue) (s : State) : Host.Outcome State Fault Refusal :=
  .next (issueU k.val ⟨.rack, 2, s.rackWordBad w || w.epoch || w.arg1 != 0 || w.arg2 != 0, [], rackCloseIssue k.val w⟩ w s)

/-- Step start: fences and epoch marks of the last step end, and the page's records of the step clear (R309, R313, R320). -/
def State.rackStepStart (s : State) : State :=
  let open1 := (s.rack.open_.map fun e => (e.1, { e.2 with fenced := false })).filter fun e => e.2 ≠ RackOpen.initial
  ({ s with rack := { s.rack with open_ := open1, bumped := [] },
            kln := { s.kln with updated := [] } }).setFlds .rack
    [(RACK.FIRST, 0), (RACK.SEQ_FIRST, 0), (RACK.COPY_BAD, 0)]

end Sys2Proof.Machine
end

