-- ==== Sys2Proof/Machine/Image.lean ====
section
/-! DEFINITION. Itwaevo images: their layout, the checks of a load, and what a load that passes puts on chip (R50 to R54, R193,
R194, R215, R219, R300, R305, R315, R316, R325, R328, R356, R357, R373). -/
namespace Sys2Proof.Machine

/-! Reading. -/

/-- A little-endian number in a byte string. -/
def imNat (b : List Byte) (off n : Nat) : Nat := leNat ((b.drop off).take n)

/-- A byte string as numbers of `n` bytes. -/
def chunkNats (n : Nat) (b : List Byte) : List Nat := (List.range (b.length / n)).map fun i => imNat b (n * i) n

/-- A byte string as pieces of `n` bytes. -/
def chunkBytesOf (n : Nat) (b : List Byte) : List (List Byte) := (List.range (b.length / n)).map fun i => (b.drop (n * i)).take n

/-- Section types (R51). -/
def secTicks : Nat := 1
def secStream : Nat := 2
def secDesc : Nat := 3
def secRuns : Nat := 4
def secChannels : Nat := 5
def secWindows : Nat := 6
def secPlan : Nat := 7
def secPower : Nat := 8
def secBubbles : Nat := 9
def secSeq : Nat := 10
def secSig : Nat := 11

/-- The directory of an image, as far as its bytes go (R50). -/
def dirOf (im : List Byte) : List Section_ :=
  (List.range (min (imNat im 0x2C 2) ((im.length - 0x40) / 16))).map fun i =>
    let v := imNat im (0x40 + 16 * i) 16
    ⟨v % 2 ^ 16, bitsOf v 31 16, bitsOf v 63 32, bitsOf v 127 64⟩

/-- The entry of a section. -/
def dirFind (dir : List Section_) (typ inst : Nat) : Option Section_ := dir.find? fun d => d.typ = typ && d.inst = inst

/-- The instances of a type, in directory order. -/
def dirInsts (dir : List Section_) (typ : Nat) : List Nat := (dir.filter fun d => d.typ = typ).map fun d => d.inst

/-- The bytes of a section; none of a section that the image does not hold. -/
def secBytes (im : List Byte) (dir : List Section_) (typ inst : Nat) : List Byte :=
  match dirFind dir typ inst with
  | some d => (im.drop d.off).take d.len
  | none => []

/-- A memory window (R325). -/
def memWinOf (v : Nat) : MemWin := ⟨v % 2 ^ 32, bitsOf v 63 32, bitsOf v 67 64, bitsOf v 95 80⟩

/-- A bubble section (R315). -/
def bubbleOf (tile : Nat) (b : List Byte) : Bubble :=
  { tile := tile, banks := BitVec.ofNat 16 (imNat b 0 2), descBase := imNat b 4 2, descCount := imNat b 6 2,
    hbmBase := imNat b 8 8, hbmLen := imNat b 16 8, chBase := imNat b 0x18 2, chCount := imNat b 0x1A 2,
    wins := (chunkNats 8 (b.drop 64)).map fun v => (v % 2 ^ 32, v / 2 ^ 32) }

/-- A batch entry of the sequence table; MAX_SEQ 0 means 65,536 (R300). -/
def batchOf (b : List Byte) : Batch :=
  let n := imNat b 6 2
  ⟨imNat b 0 4, imNat b 4 2, if n = 0 then 65536 else n, imNat b 8 8, imNat b 16 8⟩

/-- An entry of the power declaration (R356). -/
def powerEntryOf (b : List Byte) : PowerEntry :=
  ⟨imNat b 0 4, BitVec.ofNat 32 (imNat b 4 4), (List.range 9).map fun c => imNat b (8 + 4 * c) 2,
    (List.range 9).map fun c => imNat b (10 + 4 * c) 2⟩

/-- What the module keeps of an image (R50 to R54). -/
def imageOf (base : Nat) (im : List Byte) : Image :=
  let dir := dirOf im
  let flags := imNat im 0x10 8
  let seq := secBytes im dir secSeq 0
  let pow := secBytes im dir secPower 0
  { base := base, len := im.length, second := bitOf flags 0, signed := bitOf flags 1, untimedOnly := bitOf flags 2,
    reqFeat := BitVec.ofNat 64 (imNat im 0x18 8), stepPeriod := imNat im 0x20 4, lastDigest := imNat im 0x24 4,
    opmap := BitVec.ofNat 16 (imNat im 0x28 2), hallId := BitVec.ofNat 16 (imNat im 0x2A 2),
    portDelay := (List.range 12).map fun p => imNat im (0x30 + p) 1, dir := dir,
    ticks := chunkNats 4 (secBytes im dir secTicks 0),
    windows := (List.range 8).filterMap fun k =>
      let ws := (chunkNats 16 (secBytes im dir secWindows k)).map memWinOf
      if ws.isEmpty then none else some (k, ws),
    bubbles := (dirInsts dir secBubbles).map fun t => bubbleOf t (secBytes im dir secBubbles t),
    lead := imNat seq 4 4, batches := (chunkBytesOf 32 (seq.drop 16)).map batchOf,
    pre := imNat pow 4 4, hold := BitVec.ofNat 32 (imNat pow 8 4),
    power := (chunkBytesOf 48 (pow.drop 64)).map powerEntryOf }

/-- The image with the contents of its SIGNATURE section read as zeros (R53). -/
def unsigned (im : List Byte) : List Byte :=
  match dirFind (dirOf im) secSig 0 with
  | some d =>
    let n := min d.len (im.length - d.off)
    im.take d.off ++ List.replicate n 0 ++ im.drop (d.off + n)
  | none => im

/-- The digest of R53, over the LENGTH bytes of the image with its SIGNATURE section as zeros. -/
def imageDigest (im : List Byte) : BitVec 384 := sha384 (unsigned im)

/-! Check FORMAT: header, directory, lengths (R50 to R52; log 54). -/

/-- MAGIC (R50). -/
def imgMagic : Nat := 0x5657_5449

/-- The header's own fields. -/
def headerOk (im : List Byte) (second : Bool) : Bool :=
  let n := imNat im 0x2C 2
  im.length ≥ 64 && imNat im 0 4 = imgMagic && imNat im 8 8 = im.length && 1 ≤ n && n ≤ 4096 && 0x40 + 16 * n ≤ im.length &&
  imNat im 0x10 8 < 8 && imNat im 0x2E 2 = 0 && imNat im 0x3C 4 = 0 && (bitOf (imNat im 0x10 8) 0 = second)

/-- Instances of a section type (R51). -/
def instOk (typ inst : Nat) : Bool :=
  match typ with
  | 2 => (inst < 512 && inst % 4 ≠ 3) || (512 ≤ inst && inst ≤ 520)
  | 3 | 9 => inst ≤ 127
  | 4 => inst ≤ 11 || (16 ≤ inst && inst ≤ 31)
  | 6 => inst ≤ 7
  | _ => 1 ≤ typ && typ ≤ 11 && inst = 0

/-- Whether no element of a list comes twice. -/
def allDistinct {α : Type} [DecidableEq α] : List α → Bool
  | [] => true
  | x :: t => !t.contains x && allDistinct t

/-- Types, instances, places and counts of the sections (R50, R51). -/
def dirOk (im : List Byte) (m : Image) : Bool :=
  let count := fun typ => (m.dir.filter fun d => d.typ = typ).length
  (m.dir.all fun d => instOk d.typ d.inst && d.off % 4096 = 0 && d.off + d.len ≤ im.length) &&
  allDistinct (m.dir.map fun d => (d.typ, d.inst)) &&
  !selfOverlap ((0, 0x40 + 16 * m.dir.length) :: m.dir.map fun d => (d.off, d.len)) &&
  count secPower = 1 && count secChannels = 1 && (count secTicks = 1 || m.untimedOnly) && (count secSig = 0 || m.signed)

/-- Limits of a section's length: whole entries, and no more of them than its table holds (R51, R52). -/
def lenOk (typ : Nat) (b : List Byte) : Bool :=
  let n := b.length
  match typ with
  | 1 => n % 4 = 0 && 4 ≤ n && n ≤ 256
  | 2 => n % 16 = 0
  | 3 => n % 64 = 0 && n ≤ 4096 * 64
  | 4 => n % 16 = 0 && n ≤ 65536 * 16
  | 5 => n % 32 = 0 && n ≤ 65536 * 32
  | 6 => n % 16 = 0 && n ≤ 1048576 * 16
  | 7 => n = 1024
  | 8 => 64 ≤ n && n = 64 + 48 * imNat b 0 4 && 1 ≤ imNat b 0 4 && imNat b 0 4 ≤ 2 ^ 24 && imNat b 4 4 ≤ 65535
  | 9 => 64 ≤ n && n = 64 + 8 * imNat b 2 2 && imNat b 2 2 ≤ 4096
  | 10 => 16 ≤ n && n = 16 + 32 * imNat b 0 2 && 1 ≤ imNat b 0 2 && imNat b 0 2 ≤ 256
  | _ => true

/-- Whether a list of numbers rises strictly. -/
def rising : List Nat → Bool
  | a :: b :: t => a < b && rising (b :: t)
  | _ => true

/-- The digest ticks rise and end with LAST_DIGEST (R51). -/
def ticksOk (m : Image) : Bool := m.ticks.isEmpty || (rising m.ticks && m.ticks.getLast? = some m.lastDigest)

/-! Check FORMAT: the cooperage plan (R193, R194). -/

/-- A pool entry. -/
def planPool (b : List Byte) : Pool :=
  let f := imNat b 0 1
  { scratch := bitOf f 1, named := bitOf f 2, stepScoped := bitOf f 3, tile := imNat b 1 1 % 128, idBase := imNat b 2 2,
    base := imNat b 8 8, len := imNat b 16 8, counts := (List.range 6).map fun c => imNat b (0x18 + 2 * c) 2 }

/-- The enabled pools of a plan with their numbers. -/
def planPools (b : List Byte) : List (Nat × Pool) :=
  (chunkBytesOf 64 b).zipIdx.filterMap fun e => if bitOf (imNat e.1 0 1) 0 then some (e.2, planPool e.1) else none

/-- Bytes that the buffers of a pool need. -/
def Pool.need (p : Pool) : Nat := ((List.range 6).map fun c => p.count c * classSize c).sum

/-- An entry of the plan by itself. -/
def poolEntryOk (reqFeat : Nat) (b : List Byte) : Bool :=
  let p := planPool b
  if bitOf (imNat b 0 1) 0 then
    imNat b 0 1 < 16 && imNat b 1 1 < 128 && (p.scratch || imNat b 1 1 = 0) && imNat b 4 4 = 0 && imNat b 0x24 28 = 0 &&
    p.base % 1024 = 0 && p.len % 1024 = 0 && p.need ≤ p.len && (!p.scratch || p.base + p.len ≤ spadSize) &&
    p.idBase + p.total ≤ 65536 && (!p.named || bitOf reqFeat 7)
  else b.all fun x => x = 0

/-- Whether two pools share memory or a buffer ID. -/
def poolsClash (p q : Pool) : Bool :=
  (p.scratch = q.scratch && (!p.scratch || p.tile = q.tile) && overlaps (p.base, p.len) (q.base, q.len)) ||
    overlaps (p.idBase, p.total) (q.idBase, q.total)

/-- Whether no two elements of a list are in a relation. -/
def noPair {α : Type} (r : α → α → Bool) : List α → Bool
  | [] => true
  | x :: t => !t.any (r x) && noPair r t

/-- The plan (R194). -/
def planOk (reqFeat : Nat) (b : List Byte) : Bool :=
  let ps := (planPools b).map Prod.snd
  (chunkBytesOf 64 b).all (poolEntryOk reqFeat) && noPair poolsClash ps && (ps.map Pool.total).sum ≤ 65536

/-! Check FORMAT: channels (R215, R227). -/

/-- Formats of a reduction operation (R227). -/
def redFormats : Nat → List Nat
  | 0 => [fFP32] | 1 => [fBF16] | 2 => [fINT32] | 3 | 4 => [fFP32, fBF16, fINT32] | 5 => [fT2] | 6 => [0]
  | _ => []

/-- Edge of an input or output of a combine: east or west (R215). -/
def combineEdge (p : Nat) : Bool := if p < 12 then portEast p else 24 ≤ p

/-- The reduction fields of an entry (R215, R227). -/
def redFieldsOk (e : Nat) : Bool :=
  let ins := (List.range 32).filter fun p => bitOf (ceInMask e) p
  let out := ceOut e
  let all := ins ++ (if out = 12 then [] else [out])
  (redFormats (ceOp e)).contains (ceFmt e) && bitsOf (ceInMask e) 15 12 = 0 && (out ≤ 12 || 16 ≤ out) &&
  !(out ≠ 12 && ins.contains out) && (all.all combineEdge || all.all fun p => !combineEdge p) &&
  bitsOf e 175 166 = 0 && bitsOf e 255 192 = 0

/-- A channel entry; one of KIND 7 is empty and nothing else of it is read (R215; log 54). -/
def chanOk (pools : List Nat) (e : Nat) : Bool :=
  ceKind e = chEmpty ||
    (ceKind e ≠ 6 && bitsOf e 7 4 = 0 && bitsOf e 31 21 = 0 && bitsOf e 95 80 = 0 && ceAddr e % 64 = 0 &&
      (ceMode e ≠ 3 || pools.contains (cePool e)) && (ceKind e ≠ chReduction || redFieldsOk e))

/-! Check FORMAT: slot runs (R219). -/

/-- One run of a section of a port: `chans` are the channel entries, and a channel that belongs to second runnings is in the
other image (R318; log 55).  Its reserved bits are ignored (R3, R219). -/
def runOk (inst : Nat) (m : Image) (chans : List Nat) (v : Nat) : Bool :=
  let r := runOf v
  let e := chans.getD r.channel chEmpty
  let second := match m.bubbles.head? with
    | some b => b.chBase ≤ r.channel && r.channel < b.chBase + b.chCount
    | none => false
  1 ≤ r.count && (16 ≤ inst || r.lane = 0) &&
  (r.start + r.count) * outPeriod inst ≤ 4 * m.stepPeriod && (second || (ceKind e ≠ chEmpty && r.kind = ceKind e))

/-- Runs of one lane ascend and do not overlap. -/
def runsRise : List Run → Bool
  | a :: b :: t => a.start + a.count ≤ b.start && runsRise (b :: t)
  | _ => true

/-- The runs of a port. -/
def runsOk (inst : Nat) (m : Image) (chans : List Nat) (b : List Byte) : Bool :=
  let vs := chunkNats 16 b
  vs.all (runOk inst m chans) && (List.range 4).all fun lane => runsRise ((vs.map runOf).filter fun r => r.lane = lane)

/-! Check FORMAT: command windows and refresh (R325, R328). -/

/-- One window: its owner, its length and its end. -/
def winOk (period : Nat) (v : Nat) : Bool :=
  let w := memWinOf v
  bitsOf v 79 68 = 0 && bitsOf v 127 96 = 0 && 1 ≤ w.len && w.start + w.len ≤ period &&
  (w.kind < winRef || w.len = 10000) &&
  match w.kind with
  | 0 => w.owner < 128
  | 1 => instOk secStream w.owner
  | 2 => instOk secRuns w.owner
  | 5 => w.owner < 16
  | k => k ≤ 8 && w.owner = 0

/-- Whether two windows of a controller that overlap may not (R325). -/
def winsClash (a b : MemWin) : Bool :=
  let alone := fun (w : MemWin) => w.kind = winU || w.kind = winRef || w.kind = winRfm
  alone a || alone b || (a.kind = b.kind && a.owner = b.owner)

/-- The windows of a controller ascend in START and overlap only where they may. -/
def winsRise : List MemWin → Bool
  | [] => true
  | a :: t =>
    (match t with
    | b :: _ => a.start ≤ b.start
    | [] => true) &&
    !((t.takeWhile fun b => b.start < a.start + a.len).any (winsClash a)) && winsRise t

/-- Whether `n` windows of 10,000 ns with these starts lie wholly in every interval of 32,000,000 ns of the step repeated at its
period (R328). -/
def refreshOk (n period : Nat) (starts : List Nat) : Bool :=
  let m := starts.length
  let rep := (List.range (n / max m 1 + 2)).flatMap fun j => starts.map fun s => s + j * period
  m ≠ 0 && (starts.zip (rep.drop n)).all fun x => x.2 + 10000 ≤ x.1 + 32000000

/-- The windows of a controller; an image for untimed steps only gives the refresh windows too (R54, R325, R328). -/
def windowsOk (m : Image) (im : List Byte) (k : Nat) : Bool :=
  let vs := chunkNats 16 (secBytes im m.dir secWindows k)
  let ws := vs.map memWinOf
  let starts := fun kind => (ws.filter fun w => w.kind = kind).map MemWin.start
  vs.all (winOk m.stepPeriod) && winsRise ws &&
  refreshOk 256 m.stepPeriod (starts winRef) && refreshOk 64 m.stepPeriod (starts winRfm)

/-! Check FORMAT: sequences and bubbles (R300, R302, R315, R316). -/

/-- The bound on the pass of one batch in ns (R302). -/
def Batch.bound (b : Batch) : Nat := 1000 + ceilDiv (6 * b.resv + 16 * b.maxSeq) 384

/-- The sequence table. -/
def seqOk (m : Image) (b : List Byte) : Bool :=
  b.isEmpty ||
    (imNat b 2 2 = 0 && imNat b 8 8 = 0 && (m.batches.map Batch.bound).sum ≤ m.lead &&
      ((chunkBytesOf 32 (b.drop 16)).all fun x => imNat x 24 8 = 0) &&
      (m.batches.all fun x => 1 ≤ x.resv && x.resv ≤ 4194304 && x.firstId + x.maxSeq ≤ 65536 && x.list % 4096 = 0 &&
        x.out % 4096 = 0) &&
      noPair (fun (x y : Batch) => overlaps (x.firstId, x.maxSeq) (y.firstId, y.maxSeq)) m.batches)

/-- The windows of a tile ascend and do not overlap. -/
def bubbleRise : List (Nat × Nat) → Bool
  | [] => true
  | a :: t =>
    a.1 < a.2 &&
    (match t with
    | b :: _ => a.2 ≤ b.1
    | [] => true) && bubbleRise t

/-- The bubbles of a primary image. -/
def bubblesOk (m : Image) (im : List Byte) (chans : List Nat) : Bool :=
  match m.bubbles with
  | [] => true
  | b0 :: t =>
    m.reqFeat.getLsbD 5 && b0.hbmBase % 2 ^ 20 = 0 && b0.hbmLen % 2 ^ 20 = 0 && b0.chBase + b0.chCount ≤ 65536 &&
    (t.all fun b => b.hbmBase = b0.hbmBase && b.hbmLen = b0.hbmLen && b.chBase = b0.chBase && b.chCount = b0.chCount) &&
    ((b0 :: t).all fun b => bubbleRise b.wins && b.descBase + b.descCount ≤ 4096 &&
      imNat (secBytes im m.dir secBubbles b.tile) 0x1C 36 = 0) &&
    ((List.range b0.chCount).all fun i => ceKind (chans.getD (b0.chBase + i) chEmpty) = chEmpty)

/-- What a second image must fit (R316). -/
def secondOk (primary : Option Image) (m : Image) (im : List Byte) (chans : List Nat) : Bool :=
  match primary with
  | none => false
  | some p =>
    match p.bubbles with
    | [] => false
    | b0 :: t =>
      (m.dir.all fun d => (d.typ = secStream && d.inst < 512 && d.inst % 4 = 2) ||
        [secDesc, secChannels, secTicks, secPower, secSig].contains d.typ) &&
      ((dirInsts m.dir secDesc).all fun tile =>
        (secBytes im m.dir secDesc tile).length / 64 ≤ (((b0 :: t).find? fun b => b.tile = tile).map Bubble.descCount).getD 0) &&
      (chans.zipIdx.all fun e => ceKind e.1 = chEmpty ||
        (b0.chBase ≤ e.2 && e.2 < b0.chBase + b0.chCount && ceSecond e.1)) &&
      m.stepPeriod = p.stepPeriod

/-- The channel entries of an image. -/
def chansOf (im : List Byte) (m : Image) : List Nat := chunkNats 32 (secBytes im m.dir secChannels 0)

/-- Check 1, FORMAT (R52). -/
def State.formatOk (s : State) (im : List Byte) (m : Image) (second : Bool) : Bool :=
  let chans := chansOf im m
  let plan := secBytes im m.dir secPlan 0
  let pools := if second then s.coop.pools.filterMap fun e => e.2.map fun _ => e.1 else (planPools plan).map Prod.fst
  headerOk im second && dirOk im m && (m.dir.all fun d => lenOk d.typ (secBytes im m.dir d.typ d.inst)) && ticksOk m &&
  planOk m.reqFeat.toNat plan && chans.all (chanOk pools) &&
  ((dirInsts m.dir secRuns).all fun i => runsOk i m chans (secBytes im m.dir secRuns i)) &&
  (if second then secondOk s.sch.img m im chans
   else (List.range 8).all (windowsOk m im) && seqOk m (secBytes im m.dir secSeq 0) && bubblesOk m im chans)

/-! Checks OPMAP, DELAY, SIGN, TIMING and TOPOLOGY (R52). -/

/-- Point of a zone in an OPMAP. -/
def opPoint (opmap : Nat) (z : Nat) : Nat := bitsOf opmap (2 * z + 1) (2 * z)

/-- Pairs of zones that share a side (R10). -/
def zonePairs : List (Nat × Nat) :=
  ((List.range 8).filterMap fun z => if z % 4 < 3 then some (z, z + 1) else none) ++ (List.range 4).map fun z => (z, z + 4)

/-- The tile that a section is for. -/
def secTile (d : Section_) : Option Nat :=
  if d.typ = secStream && d.inst < 512 then some (d.inst / 4)
  else if d.typ = secDesc || d.typ = secBubbles then some d.inst else none

/-- Check 4, OPMAP. -/
def opmapOk (m : Image) : Bool :=
  let op := opPoint m.opmap.toNat
  (m.dir.all fun d => match secTile d with
    | some t => op (tileZone t) ≠ 3
    | none => true) &&
  zonePairs.all fun q => op q.1 ≤ op q.2 + 1 && op q.2 ≤ op q.1 + 1

/-- Check 5, DELAY. -/
def State.delayOk (s : State) (m : Image) : Bool :=
  (List.range 12).all fun p =>
    let d := m.portDelay.getD p 0xFF
    d = 0xFF || (s.flag .htm (HTM.PORT_DELAY_VALID p) && d = ceilDiv (s.fld .htm (HTM.PORT_DELAY_DELAY_PS p)) 1000)

/-- Whether a signature block verifies a message for a signer with these two key hashes (R373). -/
def sigVerifies (ecdsaKey lmsKey : BitVec 384) (block msg : List Byte) : Bool :=
  let at_ := fun off n => (block.drop off).take n
  block.length ≥ 3080 && sha384 (at_ 0 97) = ecdsaKey && sha384 (at_ 0xC4 56) = lmsKey &&
  ecdsaOk (at_ 0 97) (sha384 msg) (at_ 0x64 96) && lmsOk (at_ 0xC4 56) msg (at_ 0xFC 2828)

/-- Whether pair `i` of LC reads programmed: both of its bits are 1 (R372). -/
def Otp.pair (o : Otp) (i : Nat) : Bool := o.lcPairs.getLsbD (2 * i) && o.lcPairs.getLsbD (2 * i + 1)

/-- The life-cycle state: the number of programmed pairs (R372, R377). -/
def Otp.lc (o : Otp) : Nat := (List.range 5).countP o.pair

/-- Life-cycle states that a rule names (R377). -/
def lcProvisioned : Nat := 2
def lcReturned : Nat := 4
def lcScrapped : Nat := 5

/-- Whether owner keys are enrolled and count: RETURNED ignores them (R377). -/
def State.ownerOn (s : State) : Bool := s.sec.otp.ownerValid && s.sec.otp.lc ≠ lcReturned

/-- Whether the owner policy requires signed schedules (R377, R387). -/
def State.signedForced (s : State) : Bool := s.sec.otp.forceSigned && s.sec.otp.lc ≠ lcReturned

/-- Check 7, SIGN (R52, R373). -/
def State.signOk (s : State) (im : List Byte) (m : Image) : Bool :=
  !bitOf (s.fld .glb GLB.FEAT_ACTIVE) 13 ||
    (s.ownerOn && sigVerifies s.sec.otp.ownerEcdsa s.sec.otp.ownerLms (secBytes im m.dir secSig 0)
      (digestBytes (imageDigest im)))

/-- Occupancy in phases of a U word, as the tables give it at the load (R276, R308; log 56). -/
def State.uWordOcc (s : State) (k v : Nat) : Nat :=
  let e := s.rackEntry k (bitsOf v 77 62 % 64)
  match bitsOf v 37 34, bitsOf v 49 42 with
  | 9, 0 => kOcc (s.shard k (bitsOf v 93 78 % 4096))
  | 10, 1 => 4 * (4 + bitsOf v 109 94 * ceilDiv (rackBytes e (s.shard k (rkTensor e))) 256)
  | 10, _ => 16
  | _, _ => 0

/-- The words of a stream up to the one with END (R55, R71). -/
def upToEnd : List Nat → List Nat
  | [] => []
  | v :: t => if bitOf v 121 then [v] else v :: upToEnd t

/-- Check 8, TIMING. -/
def State.timingOk (s : State) (im : List Byte) (m : Image) : Bool :=
  m.stepPeriod ≠ 0 && m.lastDigest ≠ 0 && m.lastDigest + 3000 ≤ m.stepPeriod &&
  (List.range 8).all fun k =>
    (upToEnd (chunkNats 16 (secBytes im m.dir secStream (uFront k)))).all fun v =>
      let t := bitsOf v 33 2 * 4 + bitsOf v 1 0
      4 * (m.lastDigest + 3000) ≤ t && t + s.uWordOcc k v ≤ 4 * m.stepPeriod

/-- Check 9, TOPOLOGY (R231). -/
def State.topologyOk (s : State) (m : Image) : Bool :=
  s.flag .swx SWX.HALL_ID_VALID && s.fld .swx SWX.HALL_ID_HALL_ID = m.hallId.toNat

/-! Check POWER (R357). -/

/-- Sum of two declared windows. -/
def PowerEntry.plus (a b : PowerEntry) (n : Nat) : PowerEntry :=
  ⟨n, a.ballast ||| b.ballast, (a.energy.zip b.energy).map fun x => x.1 + x.2, (a.peak.zip b.peak).map fun x => x.1 + x.2⟩

/-- Window by window, the sum of two declarations of equal length (R316); `fuel` bounds the pieces. -/
def powerSum : Nat → List PowerEntry → List PowerEntry → List PowerEntry
  | 0, _, _ => []
  | _, [], b => b
  | _, a, [] => a
  | fuel + 1, x :: a, y :: b =>
    let n := min x.repeats y.repeats
    let rest := fun (e : PowerEntry) (t : List PowerEntry) => if e.repeats = n then t else { e with repeats := e.repeats - n } :: t
    x.plus y n :: powerSum fuel (rest x a) (rest y b)

/-- A declaration with `n` more windows of nothing before it. -/
def powerPad (n : Nat) (p : List PowerEntry) : List PowerEntry :=
  if n = 0 then p else ⟨n, 0, List.replicate 9 0, List.replicate 9 0⟩ :: p

/-- The declaration that the checks of R357 read: with a primary image, the sum of the two, their tick 0 together. -/
def powerJoin (m : Image) : Option Image → Nat × List PowerEntry
  | none => (m.pre, m.power)
  | some p =>
    let pre := max m.pre p.pre
    (pre, powerSum (m.power.length + p.power.length + 2) (powerPad (pre - m.pre) m.power) (powerPad (pre - p.pre) p.power))

/-- Limit of a zone's PEAK at a point, in 0.1 A (R358). -/
def peakLimit : Nat → Nat
  | 0 => 2800 | 1 => 1400 | _ => 700

/-- A failure of R357: window, code, column. -/
structure PowerBad where
  window : Nat
  code : Nat
  column : Nat
deriving DecidableEq, Repr

/-- Whether a change of total ENERGY exceeds 4.4 × PWR_SLEW_MAX (R357). -/
def slewBad (slew a b : Nat) : Bool := (max a b - min a b) * 10 > 44 * slew

/-- Total ENERGY of a window. -/
def PowerEntry.total (e : PowerEntry) : Nat := e.energy.sum

/-- Codes 2 to 5 on one entry that follows a window of total `prev` (R357). -/
def entryBad (shape : Bool) (slew opmap w prev : Nat) (e : PowerEntry) : Option PowerBad :=
  let zones := List.range 8
  if e.total > 210000 then some ⟨w, 2, 0⟩
  else match zones.find? fun z => opPoint opmap z ≠ 3 && e.peak.getD z 0 > peakLimit (opPoint opmap z) with
  | some z => some ⟨w, 3, z⟩
  | none =>
    match zones.find? fun z => opPoint opmap z = 3 && (e.energy.getD z 0 ≠ 0 || e.peak.getD z 0 ≠ 0 ||
        bitsOf e.ballast.toNat (4 * z + 3) (4 * z) ≠ 0) with
    | some z => some ⟨w, 4, z⟩
    | none => if shape && slewBad slew prev e.total then some ⟨w, 5, 0⟩ else none

/-- The first failing window (R357; log 57). -/
def powerScan (shape : Bool) (slew opmap : Nat) : Nat → Nat → List PowerEntry → Option PowerBad
  | _, _, [] => none
  | w, prev, e :: t =>
    match entryBad shape slew opmap w prev e with
    | some b => some b
    | none => powerScan shape slew opmap (w + e.repeats) e.total t

/-- The entry of a window. -/
def powerAt : Nat → List PowerEntry → Option PowerEntry
  | _, [] => none
  | w, e :: t => if w < e.repeats then some e else powerAt (w - e.repeats) t

/-- Reserved bytes and values of a POWER_DECL section (R356, R357; log 57). -/
def powerReserved (b : List Byte) : Bool :=
  imNat b 12 52 ≠ 0 || (chunkBytesOf 48 (b.drop 64)).any fun e => imNat e 0x2C 4 ≠ 0 || imNat e 0x2A 2 ≠ 0 || imNat e 0 4 = 0

/-- Windows of a declaration. -/
def powerWindows (p : List PowerEntry) : Nat := (p.map PowerEntry.repeats).sum

/-- Check 6, POWER (R357); `primary` is the image that a second one joins. -/
def State.powerBad (s : State) (im : List Byte) (m : Image) (primary : Option Image) : Option PowerBad :=
  let shape := bitOf (s.fld .glb GLB.FEAT_ACTIVE) 8
  let slew := s.fld .pwr PWR.SLEW_MAX
  let j := powerJoin m primary
  let opmap := (primary.getD m).opmap.toNat
  let n := powerWindows j.2
  if powerReserved (secBytes im m.dir secPower 0) || powerWindows m.power ≠ m.pre + ceilDiv m.stepPeriod 1000 then
    some ⟨0, 1, 0⟩
  else match powerScan shape slew opmap 0 38000 j.2 with
  | some b => some b
  | none =>
    match j.2.getLast?, powerAt j.1 j.2 with
    | some a, some b => if shape && slewBad slew a.total b.total then some ⟨n - 1, 5, 0⟩ else none
    | _, _ => none

/-- Record a failure of check POWER (R357). -/
def State.powerReject (s : State) (b : PowerBad) : State :=
  (s.tally .pwr PWR.REJECT_CNT PWR.EV_POWER_REJECT).setFld .pwr PWR.DECL_FIRST
    (b.window % 2 ^ 32 + b.code * 2 ^ 32 + b.column * 2 ^ 36 + 2 ^ 63)

/-- The checks of R52 in their order: the code of the first that fails, 0 for none; `bad` says that a granule read was POISON or that
LENGTH is not the length asked for (R52, R54). -/
def State.loadCode (s : State) (im : List Byte) (m : Image) (second bad : Bool) : Nat :=
  let primary := if second then s.sch.img else none
  if bad || !s.formatOk im m second then 1
  else if imNat im 4 4 / 2 ^ 16 ≠ 1 then 2
  else if m.reqFeat.toNat &&& (2 ^ 64 - 1 - s.fld .glb GLB.FEAT_ACTIVE) ≠ 0 then 3
  else if !opmapOk m then 4
  else if !m.untimedOnly && !s.delayOk m then 5
  else if (s.powerBad im m primary).isSome then 6
  else if !s.signOk im m then 7
  else if !m.untimedOnly && !s.timingOk im m then 8
  else if !s.topologyOk m then 9
  else 0

/-! Loading (R52, R53, R305, R316). -/

/-- STATE of the scheduler (R75). -/
def schEmpty : Nat := 0
def schLoading : Nat := 1
def schLoaded : Nat := 2
def schArmed : Nat := 3
def schRunning : Nat := 4
def schVerdict : Nat := 5
def schCommit : Nat := 6
def schHeld : Nat := 7

/-- SCH_STATUS.STATE. -/
def State.schState (s : State) : Nat := s.fld .sch SCH.STATUS_STATE

/-- Enter a state of the scheduler; the lock of R65 ends in LOADED, HELD and EMPTY. -/
def State.enterSch (s : State) (st : Nat) : State :=
  let s1 := s.setFld .sch SCH.STATUS_STATE st
  if [schEmpty, schLoaded, schHeld].contains st then s1.setFld .sch SCH.STATUS_LOCKED 0 else s1

/-- Whether a write to LOAD, LOAD2 or UNLOAD is ignored (R53). -/
def State.schBusy (s : State) : Bool := [schLoading, schArmed, schRunning, schVerdict, schCommit].contains s.schState

/-- No image is loaded any more: nothing of one stays on chip (R52, R75; log 53). -/
def State.dropImages (s0 : State) : State :=
  let s := s0.coopNow
  let s1 := { s with
    sch := { s.sch with img := none, img2 := none },
    tiles := { s.tiles with desc := [] },
    coop := { s.coop with pools := [], bufs := [], freed := [] },
    fab := { s.fab with channels := [] },
    rack := { s.rack with drain := [] } }
  ((s1.setFlds .sch [(SCH.STEP_PERIOD, 0), (SCH.LAST_DIGEST, 0), (SCH.OPMAP, 0), (SCH.STATUS_IMG2_LOADED, 0)]).setFld .coop
    COOP.STATUS_POOL_EN 0).poolsLow

/-- The descriptors of an image, each tile's from `base` of the tile on (R52, R316). -/
def descStore (im : List Byte) (m : Image) (base : Nat → Nat) (d0 : SMap (BitVec 512)) : SMap (BitVec 512) :=
  (dirInsts m.dir secDesc).foldl (fun d t =>
    (chunkNats 64 (secBytes im m.dir secDesc t)).zipIdx.foldl (fun d (e : Nat × Nat) =>
      smSet 0 d (t * 4096 + base t + e.2) (BitVec.ofNat 512 e.1)) d) d0

/-- The entries of an image's channel table that are not empty, over those of another. -/
def chanStore (im : List Byte) (m : Image) (c0 : SMap (BitVec 256)) : SMap (BitVec 256) :=
  (chansOf im m).zipIdx.foldl (fun c (e : Nat × Nat) =>
    if ceKind e.1 = chEmpty then c else smSet emptyEntry c e.2 (BitVec.ofNat 256 e.1)) c0

/-- DRAIN of every tensor (R305). -/
def drainStore (im : List Byte) (m : Image) : SMap Nat :=
  let chans := chansOf im m
  (dirInsts m.dir secRuns).foldl (fun d inst =>
    (chunkNats 16 (secBytes im m.dir secRuns inst)).foldl (fun d v =>
      let r := runOf v
      let e := chans.getD r.channel chEmpty
      if ceKind e = chReduction && ceOp e ≤ 5 then
        let t := ceTensor e
        smSet 0 d t (max (smGet 0 d t) (ceilDiv ((r.start + r.count) * outPeriod inst) 4 + 16))
      else d) d) []

/-- A primary image that has passed its checks goes on chip; every buffer is free (R52, R194, R205, R278, R305). -/
def State.takeImage (s : State) (im : List Byte) (m : Image) : State :=
  let pools := planPools (secBytes im m.dir secPlan 0)
  let s1 := { s with
    sch := { s.sch with img := some m },
    tiles := { s.tiles with desc := descStore im m (fun _ => 0) [] },
    coop := { s.coop with pools := pools.map fun (e : Nat × Pool) => (e.1, some e.2), bufs := [], freed := [] },
    fab := { s.fab with channels := chanStore im m [] },
    rack := { s.rack with drain := drainStore im m } }
  let s2 := (s1.setFlds .sch [(SCH.STEP_PERIOD, m.stepPeriod), (SCH.LAST_DIGEST, m.lastDigest), (SCH.OPMAP, m.opmap.toNat)]).setFld
    .coop COOP.STATUS_POOL_EN (pools.map fun (e : Nat × Pool) => 2 ^ e.1).sum
  let s3 := s2.poolsLow
  (List.range 8).foldl (fun s k => s.setFld (klnPage k) KLN.STATUS_COMMIT_INCOMPLETE 0) s3

/-- A second image that has passed: its descriptors and channels are taken (R54, R316). -/
def State.takeSecond (s : State) (im : List Byte) (m : Image) : State :=
  let base := fun t => ((s.bubble t).map Bubble.descBase).getD 0
  ({ s with
    sch := { s.sch with img2 := some m },
    tiles := { s.tiles with desc := descStore im m base s.tiles.desc },
    fab := { s.fab with channels := chanStore im m s.fab.channels } }).setFld .sch SCH.STATUS_IMG2_LOADED 1

/-- The channel entries and descriptors of a second image leave (R316; log 53). -/
def State.dropSecond (s : State) : State :=
  match s.sch.img with
  | none => s
  | some m =>
    let inCh := fun c => match m.bubbles.head? with
      | some b => b.chBase ≤ c && c < b.chBase + b.chCount
      | none => false
    let inDesc := fun key => m.bubbles.any fun b =>
      b.tile * 4096 + b.descBase ≤ key && key < b.tile * 4096 + b.descBase + b.descCount
    ({ s with
      sch := { s.sch with img2 := none },
      tiles := { s.tiles with desc := smDrop inDesc s.tiles.desc },
      fab := { s.fab with channels := smDrop inCh s.fab.channels } }).setFld .sch SCH.STATUS_IMG2_LOADED 0

/-- Publish a digest, least significant word first (R53, R75). -/
def State.publishDigest (s : State) (reg : Nat → Fld) (d : BitVec 384) : State :=
  (List.range 6).foldl (fun s i => s.setFld .sch (reg i) (bitsOf d.toNat (64 * i + 63) (64 * i))) s

/-- A write of 1 to LOAD or LOAD2 (R52, R53, R316). -/
def State.startLoad (s : State) (second : Bool) : State :=
  if s.schBusy then s.count .sch SCH.CMD_IGNORED_CNT
  else
    let base := s.fld .sch (if second then SCH.IMG2_BASE else SCH.IMG_BASE) * 4096
    let len := s.fld .sch (if second then SCH.IMG2_LEN else SCH.IMG_LEN)
    let s1 := { s with sch := { s.sch with loading := some ⟨second, base, len, s.schState⟩ } }
    (if second then s1.dropSecond else s1.dropImages).enterSch schLoading

/-- A write of 1 to UNLOAD (R53, R75). -/
def State.unloadImages (s : State) : State :=
  if s.schBusy then s.count .sch SCH.CMD_IGNORED_CNT else s.dropImages.enterSch schEmpty

/-- A load ends with a code (R52, R316). -/
def State.endLoad (s : State) (l : Loading) (im : List Byte) (m : Image) (code : Nat) : State :=
  let s1 := if code = 6 then
      match s.powerBad im m (if l.second then s.sch.img else none) with
      | some b => s.powerReject b
      | none => s
    else s
  let s2 := s1.setFld .sch (if l.second then SCH.STATUS_LOAD2_ERR else SCH.STATUS_LOAD_ERR) code
  let s3 := if code ≠ 0 then s2 else if l.second then s2.takeSecond im m else s2.takeImage im m
  (s3.enterSch (if l.second then l.prev else if code = 0 then schLoaded else schEmpty)).raise .sch
    (if code = 0 then SCH.EV_LOAD_DONE else SCH.EV_LOAD_ERROR)

/-- IMAGE_LOAD_COMPLETE: the load in progress reads the LENGTH bytes that the header gives, measures them, runs the checks, of which the
first compares LENGTH with SCH_IMG_LEN or SCH_IMG2_LEN, and ends (R52, R53; log 53). -/
def execImageLoadComplete (s : State) : Host.Outcome State Fault Refusal :=
  .next (match s.sch.loading with
    | none => s
    | some l =>
      let n := s.peekNat .inter (l.base + 8) 8
      let r := ({ s with sch := { s.sch with loading := none } }).readMem false 0 .inter [] l.base n
      let im := r.1.data
      let m := imageOf l.base im
      let s1 := r.2.publishDigest (if l.second then SCH.IMG2_DIGEST else SCH.IMG_DIGEST) (imageDigest im)
      s1.endLoad l im m (s1.loadCode im m l.second (r.1.poison || n != l.len)))

end Sys2Proof.Machine
end

