-- ==== Sys2Proof/Machine/Zones.lean ====
section
/-! DEFINITION. Zone operating points and ballast (R356, R359 to R362, R366, R371). -/
namespace Sys2Proof.Machine

/-! Operating points (R362). -/

/-- Page of a zone. -/
def znPage (z : Nat) : Page := .zn ⟨z % 8, Nat.mod_lt _ (by decide)⟩

/-- Current point of a zone. -/
def State.zoneOp (s : State) (z : Nat) : Nat := s.fld (znPage z) ZN.STATUS_OP

/-- Point that a zone moves to; its own when no change is in progress. -/
def State.zoneGoal (s : State) (z : Nat) : Nat :=
  if s.flag (znPage z) ZN.STATUS_TRANS then smGet 0 s.pwr.zoneTarget z else s.zoneOp z

/-- Begin a change of points: each zone that is not at its goal shows TRANS (R362). -/
def State.moveZones (s : State) (goal : Nat → Nat) : State :=
  (List.range 8).foldl (fun s z =>
    let s1 := { s with pwr := { s.pwr with zoneTarget := smSet 0 s.pwr.zoneTarget z (goal z) } }
    s1.setFld (znPage z) ZN.STATUS_TRANS (s1.zoneOp z != goal z).toNat) s

/-- A zone in transition moves one point; its banks follow, and at its goal the change is complete (R188, R190, R362, R371). -/
def State.stepZone (s : State) (z : Fin 8) : State :=
  let p : Page := .zn z
  if s.flag p ZN.STATUS_TRANS then
    let goal := smGet 0 s.pwr.zoneTarget z.val
    let old := s.zoneOp z.val
    let new := if old < goal then old + 1 else if goal < old then old - 1 else old
    let s1 := (s.setFld p ZN.STATUS_OP new).banksFollow z old new
    if new = goal then (s1.setFld p ZN.STATUS_TRANS 0).tally p ZN.TRANS_CNT ZN.EV_TRANS_DONE else s1
  else s

/-- Every zone in transition moves one point, all together (R362). -/
def State.stepZones (s : State) : State := (List.finRange 8).foldl State.stepZone s

/-- Whether any zone is in transition. -/
def State.zonesMoving (s : State) : Bool := (List.range 8).any fun z => s.flag (znPage z) ZN.STATUS_TRANS

/-- Every change of point is complete: three steps reach any goal (R362; log 59). -/
def State.settleZones (s : State) : State := s.stepZones.stepZones.stepZones

/-- ZONE_POINT_STEP: one step of the change in progress; the point never changes during a step (R362). -/
def execZonePointStep (s : State) : Host.Outcome State Fault Refusal :=
  .next (if s.sch.regime = .none && s.zonesMoving then s.stepZones else s)

/-- What CTRL of a zone page does beside its stored bits: a request that breaks adjacency with a neighbour's request is taken
back, any other moves the zones when no image is loaded (R362, R371; log 59). -/
def znCtrl (z : Fin 8) (old : State) (w : RegW) (s : State) : State :=
  let p : Page := .zn z
  if !wCovers w ZN.CTRL_OP_REQ || old.locked then s
  else
    let req := fun (z : Nat) => s.fld (znPage z) ZN.CTRL_OP_REQ
    let bad := zonePairs.any fun q => (q.1 = z.val || q.2 = z.val) && !(req q.1 ≤ req q.2 + 1 && req q.2 ≤ req q.1 + 1)
    if bad then (s.setFld p ZN.CTRL_OP_REQ (old.fld p ZN.CTRL_OP_REQ)).count p ZN.REQ_BAD_CNT
    else if s.sch.img.isNone then s.moveZones req
    else s

/-- A write to the CTRL register of a zone page. -/
def znCtrlWrite (z : Fin 8) (w : RegW) (s : State) : State := ctrlWrite s (.zn z) w (znCtrl z s w)

/-- OP_REQ (R362, R371). -/
def execOpReq (z : Fin 8) (w : RegW) (s : State) : Host.Outcome State Fault Refusal := .next (znCtrlWrite z w s)

/-- An ARM that takes effect from LOADED or HELD begins the change to OPMAP (R362). -/
def State.zonesToOpmap (s : State) : State := s.moveZones (opPoint (s.fld .sch SCH.OPMAP))

/-! The declaration in force (R316, R356). -/

/-- The windows before step start and the declaration, the second image's added to the primary's (R316). -/
def State.declared (s : State) : Option (Nat × List PowerEntry) :=
  match s.sch.img with
  | none => none
  | some m =>
    match s.sch.img2 with
    | none => some (m.pre, m.power)
    | some n => some (powerJoin n (some m))

/-- Whether the module is ARMED for a step that follows the one that has ended, whose declared windows go on to its STEP_PERIOD
(R357, R360). -/
def State.betweenSteps (s : State) : Bool :=
  match s.sch.armed with
  | some a => s.schState = schArmed && a.2
  | none => false

/-- The window of the declaration in progress at a time: of the timed step, on to the end of its STEP_PERIOD, or of the pre-ramp of an
ARM (R356, R357, R360, R361). -/
def State.declWindow (s : State) (t : Phase) : Option (Nat × PowerEntry) :=
  match s.declared with
  | none => none
  | some (pre, d) =>
    let w : Option Nat :=
      if s.sch.regime = .timed || s.betweenSteps then some (pre + (t - s.sch.startPhase) / 4000)
      else match s.pwr.preFrom with
        | some (start, n) => if start ≤ t + 4000 * n ∧ t < start then some (pre - n + (t + 4000 * n - start) / 4000) else none
        | none => none
    w.bind fun w => (powerAt w d).map fun e => (w, e)

/-! Ballast (R360, R361). -/

/-- Whether LOAD_SHAPING is active. -/
def State.shaping (s : State) : Bool := bitOf (s.fld .glb GLB.FEAT_ACTIVE) 8

/-- Every zone's ballast takes its level of a word of 4 bits a zone (R356). -/
def State.setBallast (s : State) (v : Nat) : State :=
  (List.range 8).foldl (fun s z => s.setFld (znPage z) ZN.STATUS_BALLAST (bitsOf v (4 * z + 3) (4 * z))) s

/-- Whether any zone draws ballast. -/
def State.ballastOn (s : State) : Bool := (List.range 8).any fun z => s.fld (znPage z) ZN.STATUS_BALLAST ≠ 0

/-- Time between two steps of the descent in phases (R361). -/
def State.descentGap (s : State) : Nat := 4000 * ceilDiv 135 (s.fld .pwr PWR.SLEW_MAX)

/-- The descent begins, or there is nothing to descend from (R361). -/
def State.startDescent (s : State) : State :=
  let on := s.ballastOn
  { s.setFld .pwr PWR.STATUS_DESCENT on.toNat with
    pwr := { s.pwr with descentAt := if on then some (s.clk.phase + s.descentGap) else none, descentZone := 0 } }

/-- Entry to HELD, or to LOADED after a step or STOP: each ballast takes its HOLD level and descends (R360, R361). -/
def State.holdBallast (s : State) : State :=
  let s0 := { s.setFld .pwr PWR.STATUS_SHAPING 0 with pwr := { s.pwr with preFrom := none } }
  match s0.sch.img with
  | some m => if s0.shaping then (s0.setBallast m.hold.toNat).startDescent else s0
  | none => s0

/-- The zone whose level the descent lowers next, from a zone on (R361). -/
def State.descentNext (s : State) (z : Nat) : Option Nat :=
  ((List.range 8).map fun i => (z + i) % 8).find? fun k => s.fld (znPage k) ZN.STATUS_BALLAST ≠ 0

/-- BALLAST_DESCENT_STEP: one sixteenth of one zone, Z0 to Z7 in turn (R361; log 60). -/
def execBallastDescentStep (s : State) : Host.Outcome State Fault Refusal :=
  .next (match s.pwr.descentAt with
    | none => s
    | some t =>
      let s1 := s.advanceTo t
      match s1.descentNext s1.pwr.descentZone with
      | none => ({ s1 with pwr := { s1.pwr with descentAt := none } }).setFld .pwr PWR.STATUS_DESCENT 0
      | some z =>
        let s2 := s1.setFld (znPage z) ZN.STATUS_BALLAST (s1.fld (znPage z) ZN.STATUS_BALLAST - 1)
        let on := s2.ballastOn
        ({ s2 with pwr := { s2.pwr with descentAt := if on then some (t + s2.descentGap) else none,
                                        descentZone := (z + 1) % 8 } }).setFld .pwr PWR.STATUS_DESCENT on.toNat)

/-- An ARM is accepted from LOADED or HELD: a descent ends at the levels reached, and the pre-ramp windows end at step
start (R361; log 60). -/
def State.armPower (s : State) (start : Phase) : State :=
  let pre := match s.declared with
    | some d => d.1
    | none => 0
  ({ s with pwr := { s.pwr with descentAt := none, preFrom := if s.shaping then some (start, pre) else none } }).setFld .pwr
    PWR.STATUS_DESCENT 0

/-! Measured windows (R359, R360, R366). -/

/-- Record the first window of a span since step start (R359, R369). -/
def State.excessFirst (s : State) (w : Nat) (slew : Bool) : State :=
  if s.flag .pwr PWR.EXCESS_FIRST_VALID then s
  else s.setFld .pwr PWR.EXCESS_FIRST (w % 2 ^ 32 + slew.toNat * 2 ^ 32 + 2 ^ 63)

/-- A window's energy against its declaration: a span of more than 100 windows is told once (R359). -/
def State.checkExcess (s : State) (w energy : Nat) (e : PowerEntry) : State :=
  if energy * 10 > e.total * 11 then
    let n := s.pwr.overSpan + 1
    let from_ := if n = 1 then w else s.pwr.overFrom
    let tell := n > 100 && !s.pwr.overTold
    let s1 := { s with pwr := { s.pwr with overSpan := n, overFrom := from_, overTold := s.pwr.overTold || tell } }
    if tell then ((s1.excessFirst from_ false).tally .pwr PWR.EXCESS_CNT PWR.EV_POWER_EXCESS).degraded else s1
  else { s with pwr := { s.pwr with overSpan := 0, overTold := false } }

/-- A change between windows against the slew limit (R359, R360). -/
def State.checkSlew (s : State) (w energy last : Nat) : State :=
  if s.shaping && (max energy last - min energy last) * 100 > 484 * s.fld .pwr PWR.SLEW_MAX then
    let n := s.pwr.slewSpan + 1
    let from_ := if n = 1 then w else s.pwr.slewFrom
    let tell := n > 100 && !s.pwr.slewTold
    let s1 := { s with pwr := { s.pwr with slewSpan := n, slewFrom := from_, slewTold := s.pwr.slewTold || tell } }
    if tell then ((s1.excessFirst from_ true).tally .pwr PWR.SLEW_EXCESS_CNT PWR.EV_SLEW_EXCESS).degraded else s1
  else { s with pwr := { s.pwr with slewSpan := 0, slewTold := false } }

/-- Outside the declared windows no span goes on (R359). -/
def State.endSpans (s : State) : State :=
  { s with pwr := { s.pwr with overSpan := 0, overTold := false, slewSpan := 0, slewTold := false } }

/-- The ballast follows the window in progress while LOAD_SHAPING is active (R360). -/
def State.followBallast (s : State) : State :=
  match s.declWindow s.clk.phase with
  | some (_, e) =>
    if s.shaping then (s.setBallast e.ballast.toNat).setFld .pwr PWR.STATUS_SHAPING 1 else s
  | none => s.setFld .pwr PWR.STATUS_SHAPING 0

/-- Count a throttled microsecond: an odd one of HT, while HOT is set in an untimed step (R366; log 58). -/
def State.countThrottle (s : State) : State :=
  if s.sch.regime = .untimed && s.flag .thm THM.STATUS_HOT && (s.ht - 1) / 1000 % 2 = 1 then s.count .thm THM.THROTTLE_CNT else s

/-- ENERGY_WINDOW: a window of 1 µs ends with its measured input energy in units of 10 nJ, and the next one begins (R359, R360). -/
def execEnergyWindow (energy : Nat) (s : State) : Host.Outcome State Fault Refusal :=
  .next (if !s.running then s else
    let last := s.pwr.lastEnergy.getD energy
    let s1 := ({ s with pwr := { s.pwr with lastEnergy := some energy } }).setFld .pwr PWR.PIN (min (energy * 10) (2 ^ 32 - 1))
    let s2 := match s1.declWindow (s1.clk.phase - 1) with
      | some (w, e) => (s1.checkExcess w energy e).checkSlew w energy last
      | none => s1.endSpans
    s2.countThrottle.followBallast)

end Sys2Proof.Machine
end

