-- ==== Sys2Proof/Machine/Sequence.lean ====
section
/-! DEFINITION. The pass over packed sequences before a step (R300 to R302). -/
namespace Sys2Proof.Machine

/-- An entry of a batch's list (R301). -/
structure SeqEntry where
  length : Nat
  cls : Nat
  posBase : Nat
  param : Nat
  reserved : Bool
deriving DecidableEq, Repr

/-- The entry that 16 bytes spell (R301); a LENGTH beyond the table, or a PARAM where it must be 0, is a reserved value. -/
def seqEntry (v : Nat) : SeqEntry :=
  let len := bitsOf v 22 0
  let cls := bitsOf v 27 24
  let param := bitsOf v 86 64
  ⟨len, cls, bitsOf v 55 32, param,
    bitOf v 23 || bitsOf v 31 28 ≠ 0 || bitsOf v 63 56 ≠ 0 || bitsOf v 127 87 ≠ 0 || cls > 3 || len > 4194304 ||
      (cls < 2 && param ≠ 0)⟩

/-- Whether an entry is bad (R301). -/
def SeqEntry.bad (e : SeqEntry) (long : Bool) : Bool :=
  e.reserved || (e.length > 1048576 && !long) || e.posBase + e.length > 2 ^ 24 || (e.cls = 2 && e.param > e.length) ||
    (e.cls = 3 && e.param = 0)

/-- What the pass has of a batch: the records with their tokens, where the next one starts, and what it met (R301). -/
structure SeqAcc where
  recs : List (Nat × Nat × SeqEntry)
  start : Nat
  over_ : Option Nat
  bad : List Nat
deriving DecidableEq, Repr

/-- One entry of the list, the `i`-th (R301). -/
def SeqAcc.take (resv : Nat) (long : Bool) (a : SeqAcc) (i : Nat) (e : SeqEntry) : SeqAcc :=
  let bad := e.bad long
  let len0 := if bad then 0 else e.length
  let over_ := a.start + len0 > resv
  let len := if over_ then resv - a.start else len0
  ⟨a.recs ++ [(a.start, len, e)], a.start + len, a.over_.orElse fun _ => if over_ then some i else none,
    if bad then a.bad ++ [i] else a.bad⟩

/-- The pass over the entries of a batch. -/
def seqRun (b : Batch) (long : Bool) (count : Nat) (es : List SeqEntry) : SeqAcc :=
  let a := es.zipIdx.foldl (fun (a : SeqAcc) (x : SeqEntry × Nat) => a.take b.resv long x.2 x.1) ⟨[], 0, none, []⟩
  { a with over_ := a.over_.orElse fun _ => if count > b.maxSeq then some b.maxSeq else none }

/-- Bytes of a record: the listed ones, then records of zeros (R301). -/
def seqRecord (r : Nat × Nat × SeqEntry) : List Byte :=
  leBytes 16 (r.1 + r.2.1 * 2 ^ 32 + r.2.2.cls * 2 ^ 64 + r.2.2.posBase * 2 ^ 68 + r.2.2.param * 2 ^ 92)

/-- Positions of the tokens: one INT32 each, 0 for padding (R301). -/
def seqPositions (resv : Nat) (a : SeqAcc) : List Byte :=
  (a.recs.flatMap fun r => (List.range r.2.1).flatMap fun t => leBytes 4 (r.2.2.posBase + t)) ++
    List.replicate (4 * (resv - a.start)) 0

/-- Segment IDs of the tokens: one INT16 each, 0xFFFF for padding (R301). -/
def seqSegments (resv : Nat) (a : SeqAcc) : List Byte :=
  (a.recs.zipIdx.flatMap fun r => (List.range r.1.2.1).flatMap fun _ => leBytes 2 r.2) ++
    List.replicate (2 * (resv - a.start)) 0xFF

/-- The presence bitmap in the form that R104 reads, eight bytes for 64 tokens (R301; log 61). -/
def seqPresence (resv : Nat) (a : SeqAcc) : List Byte := leBytes (8 * ceilDiv resv 64) (2 ^ a.start - 1)

/-- The state of a batch (R301). -/
def seqState (a : SeqAcc) : List Byte :=
  leBytes 64 (a.start + (a.recs.countP fun r => r.2.1 > 0) % 2 ^ 16 * 2 ^ 32 + a.over_.isSome.toNat * 2 ^ 48 +
    (!a.bad.isEmpty).toNat * 2 ^ 49)

/-- The outputs of a batch from OUT on (R301). -/
def seqOutputs (b : Batch) (a : SeqAcc) : List Byte :=
  let recs := (a.recs.flatMap seqRecord) ++ List.replicate (16 * (b.maxSeq - a.recs.length)) 0
  let head := seqState a ++ recs ++ seqPositions b.resv a ++ seqSegments b.resv a
  head ++ List.replicate (ceilDiv head.length 64 * 64 - head.length) 0 ++ seqPresence b.resv a

/-- Causes of RACK_SEQ_FIRST (R320). -/
def seqOver : Nat := 0
def seqBad : Nat := 1
def seqLate : Nat := 2

/-- Record the first sequence event since step start (R320). -/
def State.seqFirst (s : State) (batch cause entry : Nat) : State :=
  if s.flag .rack RACK.SEQ_FIRST_VALID then s
  else s.setFld .rack RACK.SEQ_FIRST (batch % 256 + cause * 2 ^ 8 + 2 ^ 15 + entry % 2 ^ 16 * 2 ^ 16)

/-- A cause of the step that starts next (R24, R302). -/
def State.nextInvalid (s : State) (second : Bool) (c : Cause) : State :=
  let m : BitVec 6 := BitVec.ofNat 6 (2 ^ c.bit)
  let s1 := if second then { s with sch := { s.sch with causes2Next := s.sch.causes2Next ||| m } }
    else { s with sch := { s.sch with causesNext := s.sch.causesNext ||| m } }
  s1.tally .bst BST.STEP_INVALID_CNT BST.EV_STEP_INVALID

/-- What the pass reads of a batch's list, with the errors met, and makes of it: the entries, whether what it read is POISON, and COUNT
(R301, R329). -/
def State.readBatch (s : State) (b : Batch) : (SeqAcc × Bool) × State :=
  let h := s.drawErrs.2.readMem false 0 .inter s.drawErrs.1 b.list 16
  let count := leNat (h.1.data.take 4)
  let r := h.2.readMem false 0 .inter [] (b.list + 16) (16 * min count b.maxSeq)
  let a := seqRun b (bitOf (s.fld .glb GLB.FEAT_ACTIVE) 9) count ((chunkNats 16 r.1.data).map seqEntry)
  ((a, h.1.poison || r.1.poison), r.2)

/-- The pass of one batch (R301, R302). -/
def State.passBatch (s : State) (n : Nat) (b : Batch) : State :=
  let r := s.readBatch b
  let a := r.1.1
  let s1 := r.2.writeMem 0 .inter b.out (seqOutputs b a) [r.1.2] r.2.clk.phase
  let s2 := a.bad.foldl (fun s i => (s.tally .rack RACK.SEQ_BAD_CNT RACK.EV_SEQ_BAD).seqFirst n seqBad i) s1
  match a.over_ with
  | some i => ((s2.tally .rack RACK.SEQ_OVER_CNT RACK.EV_SEQ_OVER).seqFirst n seqOver i).nextInvalid false .ceiling
  | none => s2

/-- The pass of a batch that is not complete: its outputs stand as far as the pass reached, a number of bytes from OUT on that the spec
does not state, and that is free (R302; log 61). -/
def State.passReached (s : State) (b : Batch) : State :=
  let d := s.draw
  let r := d.2.readBatch b
  let out := seqOutputs b r.1.1
  r.2.writeMem 0 .inter b.out (out.take (d.1.toNat % (out.length + 1))) [r.1.2] r.2.clk.phase

/-- The tick at which the next step starts, as far as it is known (R60, R64). -/
def State.nextStart (s : State) : Option Nat :=
  if s.schState = schArmed then s.sch.armed.map Prod.fst
  else if s.sch.regime = .timed && !s.sch.stop then
    match s.sch.next with
    | some t => some t
    | none => if s.flag .sch SCH.CTRL_AUTO then some (s.sch.startTick + s.fld .sch SCH.STEP_PERIOD) else none
  else none

/-- The batches of the loaded image. -/
def State.batches (s : State) : List Batch :=
  match s.sch.img with
  | some m => m.batches
  | none => []

/-- The phase at which HT reaches a tick (R28). -/
def State.phaseOfTick (s : State) (tick : Nat) : Phase := s.phaseOfHt (4 * tick)

/-- When the pass for the next step begins: LEAD before the step, or when ARM takes effect (R301, R302). -/
def State.seqBegin (s : State) : Phase :=
  match s.nextStart, s.sch.img with
  | some t, some m =>
    if s.flag .sch SCH.CTRL_UNTIMED then s.sch.armPhase else max s.sch.armPhase (s.phaseOfTick t - 4 * m.lead)
  | _, _ => s.sch.armPhase

/-- HBM ranges of a batch: the list, and the outputs (R300, R301). -/
def Batch.ranges (b : Batch) : List Range :=
  [(b.list, 16 + 16 * b.maxSeq), (b.out, 64 + 16 * b.maxSeq + 6 * b.resv + 63 + 8 * ceilDiv b.resv 64)]

/-- When the pass of batch `i` completes: each takes its bound, and a timed step that still runs has to open SERVICE windows for it
(R302, R326; log 61). -/
def State.seqEnd (s : State) (i : Nat) : Phase :=
  s.serviceFrom (s.seqBegin + 4 * ((s.batches.take (i + 1)).map Batch.bound).sum)
    (match s.batches[i]? with
      | some b => b.ranges
      | none => [])

/-- When the pass of batch `i` begins: the batches follow one another (R302). -/
def State.batchBegin (s : State) (i : Nat) : Phase := s.seqBegin + 4 * ((s.batches.take i).map Batch.bound).sum

/-- The pass of the next batch completes, when it does so by step start (R301, R302). -/
def State.seqNext (s : State) : State :=
  match s.nextStart, s.batches[s.sch.seqDone]? with
  | some tick, some b =>
    let t := s.seqEnd s.sch.seqDone
    if !s.running || (!s.flag .sch SCH.CTRL_UNTIMED && t > s.phaseOfTick tick) then s
    else ({ s with sch := { s.sch with seqDone := s.sch.seqDone + 1 } }.advanceTo t).passBatch s.sch.seqDone b
  | _, _ => s

/-- SEQ_PASS (R301, R302). -/
def execSeqPass (s : State) : Host.Outcome State Fault Refusal := .next s.seqNext

end Sys2Proof.Machine
end

