-- ==== Sys2Proof/Machine/Feeders.lean ====
section
/-! DEFINITION. Rings and feeders: their fill at ARM, the refill of a quarter through FEED and RUNS windows, and runs that come
before their refill (R57 to R59, R220, R325 to R327, R331). -/
namespace Sys2Proof.Machine

/-- A section of an image: its address in HBM and its length (R50, R51). -/
def Image.place (m : Image) (typ inst : Nat) : Option (Nat × Nat) :=
  (dirFind m.dir typ inst).map fun d => (m.base + d.off, d.len)

/-- The section that a stream runs from: an S stream of the second image goes before the primary's (R54, R316; log 62). -/
def State.streamPlace (s : State) (inst : Nat) : Option (Nat × Nat) :=
  let of_ := fun (m : Option Image) => m.bind fun m => m.place secStream inst
  if inst < 512 && inst % 4 = 2 then (of_ s.sch.img2).orElse fun _ => of_ s.sch.img else of_ s.sch.img

/-- The section behind a ring: a stream's, or a port's runs. -/
def State.ringPlace (s : State) (key : Nat) : Option (Nat × Nat) :=
  if key < 1024 then s.streamPlace key else s.section secRuns (key - 1024)

/-- The rings of the loaded images. -/
def State.ringKeys (s : State) : List Nat :=
  let insts := fun (m : Option Image) typ => match m with
    | some m => dirInsts m.dir typ
    | none => []
  (insts s.sch.img secStream ++ (insts s.sch.img2 secStream).filter (fun i => i < 512 && i % 4 = 2)).eraseDups ++
    (insts s.sch.img secRuns).map runKey

/-- The granules of quarter `q` of a section (R57). -/
def quarterGrans (place : Nat × Nat) (q : Nat) : List Nat :=
  granules 256 (place.1 + 16384 * q) (min 16384 (place.2 - 16384 * q))

/-- The words that a granule holds of a section, by their number in it, with the granule's mark (R57). -/
def granWords (place : Nat × Nat) (g : Nat) (data : List Byte) (poison : Bool) : SMap (Nat × Bool) :=
  (chunkNats 16 data).zipIdx.filterMap fun x =>
    let a := 256 * g + 16 * x.2
    if place.1 ≤ a && a + 16 ≤ place.1 + place.2 then some ((a - place.1) / 16, (x.1, poison)) else none

/-- Read a granule of a section for its ring, the `i`-th of the command: the words, and whether it came back POISON (R57, R329). -/
def State.ringGran (s : State) (place : Nat × Nat) (ecc : List EccErr) (i g : Nat) : (SMap (Nat × Bool) × Bool) × State :=
  let r := s.readGran false .inter ecc i (256 * g) 256
  ((granWords place g r.1.data r.1.poison, r.1.poison), r.2)

/-- Read the granules of a ring, one after another. -/
def State.ringRead (s : State) (place : Nat × Nat) (gs : List Nat) : (SMap (Nat × Bool) × Bool) × State :=
  gs.foldl (fun acc g =>
    let r := acc.2.ringGran place [] 0 g
    ((acc.1.1 ++ r.1.1, acc.1.2 || r.1.2), r.2)) ((([] : SMap (Nat × Bool)), false), s)

/-- A ring is filled from the start of its section, all four quarters (R57, R220; log 62). -/
def State.fillRing (s : State) (key : Nat) : State :=
  match s.ringPlace key with
  | none => s
  | some pl =>
    let n := pl.2 / 16
    let r := s.ringRead pl ((List.range 4).flatMap (quarterGrans pl))
    let f : Front := { Front.initial with len := n, ended := n = 0, usable := [(0, 0), (1, 0), (2, 0), (3, 0)], words := r.1.1 }
    let s1 := r.2.setFront key f
    if r.1.2 && key ≥ 1024 then s1.nextInvalid false .poison else s1

/-- FEEDER_FILL: every ring is filled (R57). -/
def State.fillRings (s : State) : State := s.ringKeys.foldl State.fillRing { s with fronts := [] }

/-- Controllers that hold granules of a quarter. -/
def quarterStacks (place : Nat × Nat) (q : Nat) : List Nat :=
  ((quarterGrans place q).filterMap fun g => (interGran (256 * g)).map granStack).eraseDups

/-- Phases from the edge unit of a stack to the ring that a key names (R326; log 62). -/
def State.ringPath (s : State) (key k : Nat) : Nat :=
  let row := if k < 4 then 0 else 7
  if key < 512 then s.stackPath k (key / 4)
  else if key < 520 then s.stackStack k (key - 512)
  else if key = 520 then s.centralStack k
  else
    let p := key - 1024
    if p < 12 then s.edgeStack (portEast p) row k else s.edgeStack (24 ≤ p) (p % 8) k

/-- The tick at which the last run of a quarter of a port begins (R220; log 62). -/
def State.quarterRunTick (s : State) (inst q : Nat) : Nat :=
  ceilDiv ((s.run inst (1024 * q + 1023)).start * outPeriod inst) 4

/-- The quarter that a port's ring waits for: the one after those it has held, once the last run four quarters back has begun. -/
def State.runWaiting (s : State) (inst : Nat) (f : Front) : List Waiting :=
  let q := f.usable.length
  if f.waiting.isEmpty && q * quarterRuns < f.len then [⟨q, s.quarterRunTick inst (q - 4), [], 0⟩] else f.waiting

/-- The window that refills a quarter emptied at a tick: the first of its kind and owner that starts at or after it and has not
refilled another (R57). -/
def State.refillWindow (s : State) (k kind owner since : Nat) (used : SMap Nat) : Option MemWin :=
  let after := match used.find? fun e => e.1 = k with
    | some e => e.2 + 1
    | none => 0
  (s.windows k).find? fun w => w.kind = kind && w.owner = owner && since ≤ w.start && after ≤ w.start

/-- The job that a ring serves: an S stream is the second job's (R70). -/
def ringSecond (key : Nat) : Bool := key < 512 && key % 4 = 2

/-- Read the granules of a quarter that one controller holds, as one command of a window at a tick: granule `i` is delivered
96 + i / 2 ns after it, within the three of its frame; one that is refused gives zero words marked POISON (R57, R326, R327). -/
def State.refillRead (s : State) (place : Nat × Nat) (key k kind owner tick : Nat) (ecc : List EccErr) (gs : List Nat) :
    (SMap (Nat × Bool) × Bool) × State :=
  let mine := gs.filter fun g => (interGran (256 * g)).map granStack = some k
  mine.zipIdx.foldl (fun acc x =>
    match interGran (256 * x.1) with
    | none => acc
    | some p =>
      let d := acc.2.admitGran kind owner tick (4 * tick + 384 + 2 * x.2) p fun s => s.serviceFault (ringSecond key)
      let r := if d.1 then d.2.ringGran place ecc x.2 x.1
        else ((granWords place x.1 (List.replicate 256 0) true, true), d.2)
      ((acc.1.1 ++ r.1.1, acc.1.2 || r.1.2), r.2)) ((([] : SMap (Nat × Bool)), false), s)

/-- The words of a ring after some of quarter `q` have been read: those of the quarter four before it are gone (R57). -/
def Front.refilled (f : Front) (q : Nat) (new : SMap (Nat × Bool)) : SMap (Nat × Bool) :=
  let kept := f.words.filter fun w => q ≤ w.1 / quarterWords + 3
  mergeBy (fun (x y : Nat × Nat × Bool) => x.1 ≤ y.1) (kept.length + new.length) kept new

/-- One controller serves a waiting quarter; with the last one the quarter becomes usable, and a port that its runs left waiting opens
again (R57, R220, R326). -/
def State.serveQuarter (s : State) (key kind owner k : Nat) (ecc : List EccErr) (f : Front) (w : Waiting) (start : Nat) : State :=
  match s.ringPlace key with
  | none => s
  | some pl =>
    let stks := quarterStacks pl w.quarter
    let owed := (if w.owed.isEmpty then stks else w.owed).filter fun x => x ≠ k
    let latest := max w.latest start
    let r := s.refillRead pl key k kind owner start ecc (quarterGrans pl w.quarter)
    let rest := f.waiting.filter fun x => x.quarter ≠ w.quarter
    let path := (stks.map (s.ringPath key)).foldl max 0
    let at_ := if s.sch.regime = .timed then s.sch.startPhase + 4 * (latest + 128) + path else s.clk.phase
    let f0 := { f with words := f.refilled w.quarter r.1.1, used := smPut f.used k start }
    let f1 : Front := if owed.isEmpty then { f0 with usable := f.usable ++ [(w.quarter, at_)], waiting := rest }
      else { f0 with waiting := sortOn Waiting.quarter (⟨w.quarter, w.since, owed, latest⟩ :: rest) }
    let s1 := r.2.setFront key f1
    let s2 := if owed.isEmpty && key ≥ 1024 then s1.later [⟨at_, .reopen (key - 1024)⟩] else s1
    if r.1.2 && key ≥ 1024 && s.sch.regime = .timed then s2.invalid false .poison else s2

/-- The first waiting quarter that a controller still owes granules to. -/
def State.waitingAt (s : State) (key k : Nat) (ws : List Waiting) : Option Waiting :=
  match s.ringPlace key with
  | none => none
  | some pl => ws.find? fun w => (if w.owed.isEmpty then quarterStacks pl w.quarter else w.owed).contains k

/-- A controller refills a quarter of a ring: in a timed step in the next window for it, otherwise as it empties (R57, R220, R326,
R331). -/
def State.refill (s : State) (key kind owner : Nat) (k : Fin 8) (ecc : List EccErr) (f : Front) : State :=
  match s.waitingAt key k.val f.waiting with
  | none => s
  | some w =>
    if s.sch.regime = .timed then
      match s.refillWindow k.val kind owner w.since f.used with
      | none => s
      | some x => (s.advanceTo (s.sch.startPhase + 4 * x.start)).serveQuarter key kind owner k.val ecc f w x.start
    else if s.sch.regime = .untimed then s.serveQuarter key kind owner k.val ecc f w s.stepTick
    else s

/-- FEED_REFILL: a controller's part of the refill of a stream's ring (R57, R326). -/
def execFeedRefill (section_ : Fin 521) (k : MemPart) (s : State) : Host.Outcome State Fault Refusal :=
  .next (if s.running then s.refill section_.val winFeed section_.val k.k k.ecc (s.front section_.val) else s)

/-- RUNS_REFILL: a controller's part of the refill of a port's ring of runs (R220, R326). -/
def execRunsRefill (section_ : Fin 32) (k : MemPart) (s : State) : Host.Outcome State Fault Refusal :=
  let f := s.front (runKey section_.val)
  .next (if s.running then
      s.refill (runKey section_.val) winRuns section_.val k.k k.ecc { f with waiting := s.runWaiting section_.val f }
    else s)

/-- Count a run that came too early at its port, a fault of the job of its channel (R70, R220); a mesh edge port has no page (log 62). -/
def State.runUnderrun (s : State) (inst : Nat) (second : Bool) : State :=
  (if inst < 12 then s.tally (lnkPage inst) LNK.RUN_UNDERRUN_CNT LNK.EV_RUN_UNDERRUN else s).schedFault second .streamUnderrun
    s.nowhere

/-- RUN_UNDERRUN: the first slot of the next run whose quarter is not there arrives; the port closes to best-effort heads until
the refill (R220, R74). -/
def execRunUnderrun (section_ : Fin 32) (s : State) : Host.Outcome State Fault Refusal :=
  let inst := section_.val
  let key := runKey inst
  let f := s.front key
  let slot := fun i => s.sch.startPhase + (s.run inst i).start * outPeriod inst
  let late := fun i => !(f.usable.any fun q => q.1 = i / quarterRuns && q.2 ≤ slot i)
  .next (if s.sch.regime != .timed || !s.running then s
    else match ((List.range f.len).drop f.ptr).find? late with
    | none => s
    | some i =>
      let s1 := (s.advanceTo (slot i)).setFront key { f with ptr := i + 1 }
      ({ s1 with fab := { s1.fab with closed := (inst :: s1.fab.closed).eraseDups } }).runUnderrun inst
        (s.chanSecond (BitVec.ofNat 16 (s.run inst i).channel)))

end Sys2Proof.Machine
end

