-- ==== Sys2Proof/Machine/LauterTab.lean ====
section
/-! DEFINITION. The lauter engine's tables, quotas and program front (R239 to R243). -/
namespace Sys2Proof.Machine

/-! Tables (R239). -/

/-- Tables of the lauter engine, in the order of their IDs. -/
inductive LtrTab where
  | layer | expert | member | quota | quotaActive | receive | desc
deriving DecidableEq, Repr

/-- ID of a table. -/
def LtrTab.id : LtrTab → Nat
  | .layer => 0 | .expert => 1 | .member => 2 | .quota => 3 | .quotaActive => 4 | .receive => 5 | .desc => 6

/-- The table of an ID. -/
def ltrTabOf : Nat → Option LtrTab
  | 0 => some .layer | 1 => some .expert | 2 => some .member | 3 => some .quota | 4 => some .quotaActive
  | 5 => some .receive | 6 => some .desc | _ => none

/-- Entries of a table. -/
def LtrTab.size : LtrTab → Nat
  | .layer => 128 | .expert => 256 | .member => 16 | .quota => 1024 | .quotaActive => 1024 | .receive => 2048 | .desc => 256

/-- Key of an entry. -/
def ltrKey (t : LtrTab) (i : Nat) : Nat := t.id * 65536 + i

/-- An entry. -/
def State.ltr_ (s : State) (t : LtrTab) (i : Nat) : Nat := (smGet 0 s.ltr.tab (ltrKey t i)).toNat

/-- The fields of an entry of a table, as bit ranges: every other bit of it is 0 (R239). -/
def LtrTab.fields : LtrTab → List (Nat × Nat)
  | .layer => [(53, 0), (255, 64)]
  | .expert | .quota | .quotaActive => [(255, 0)]
  | .member => [(112, 0)]
  | .receive => [(31, 0), (191, 64)]
  | .desc => [(18, 0), (47, 32), (85, 64), (117, 96), (149, 128), (255, 160)]

/-- What an entry of a table keeps of a value written to it (R3, R239). -/
def LtrTab.keep (t : LtrTab) (v : Nat) : Nat := (t.fields.map fun f => bitsOf v f.1 f.2 * 2 ^ f.2).sum

/-- A table entry stored. -/
def State.setLtr (s : State) (t : LtrTab) (i : Nat) (v : Nat) : State :=
  { s with ltr := { s.ltr with tab := smSet 0 s.ltr.tab (ltrKey t i) (BitVec.ofNat 256 (t.keep v)) } }

def lyNexp (v : Nat) : Nat := if bitsOf v 5 0 = 0 then 64 else bitsOf v 5 0
def lyK (v : Nat) : Nat := bitsOf v 9 6
def lyVbytes (v : Nat) : Nat := bitsOf v 23 10
def lyRenorm (v : Nat) : Bool := bitOf v 24
def lyTph (v : Nat) : Nat := bitsOf v 39 25
def lyRbytes (v : Nat) : Nat := bitsOf v 53 40
def lyRec (v : Nat) : Nat := bitsOf v 127 64
def lyStat (v : Nat) : Nat := bitsOf v 191 128
def lyRet (v : Nat) : Nat := bitsOf v 255 192

/-- Whether a LAYER entry holds a reserved value (R239, R243). -/
def lyReserved (v : Nat) : Bool :=
  lyK v = 0 || lyK v > 8 || lyVbytes v = 0 || lyVbytes v > 15120 || lyTph v = 0 || lyTph v > 16384 || lyRbytes v = 0 ||
    lyRbytes v > 15120

/-- ROW_BYTES of R255. -/
def rowBytes (v : Nat) : Nat := 64 * ceilDiv (lyRbytes v) 64

/-- The byte that describes an expert of a layer (R239). -/
def State.expert (s : State) (l e : Nat) : Nat := bitsOf (s.ltr_ .expert (2 * l + e / 32)) (8 * (e % 32) + 7) (8 * (e % 32))

def exMember (b : Nat) : Nat := bitsOf b 3 0
def exSlot (b : Nat) : Nat := bitsOf b 6 4
def exValid (b : Nat) : Bool := bitOf b 7

def mbHall (v : Nat) : Nat := bitsOf v 15 0
def mbDch (v h : Nat) : BitVec 16 := BitVec.ofNat 16 (bitsOf v (16 * h + 31) (16 * h + 16))
def mbRch (v h : Nat) : BitVec 16 := BitVec.ofNat 16 (bitsOf v (16 * h + 63) (16 * h + 48))
def mbCeil (v h : Nat) : Nat := bitsOf v (16 * h + 95) (16 * h + 80)
def mbValid (v : Nat) : Bool := bitOf v 112

/-- Quota of an expert in QUOTA or QUOTA_ACTIVE (R239). -/
def State.quotaOf (s : State) (t : LtrTab) (l h e : Nat) : Nat :=
  bitsOf (s.ltr_ t (8 * l + 4 * h + e / 16)) (16 * (e % 16) + 15) (16 * (e % 16))

def rvChannel (v : Nat) : BitVec 16 := BitVec.ofNat 16 v
def rvCap (v : Nat) : Nat := bitsOf v 31 16
def rvList (v : Nat) : Nat := bitsOf v 127 64
def rvGrad (v : Nat) : Nat := bitsOf v 191 128

def ldTile (v : Nat) : Fin 128 := ⟨bitsOf v 6 0 % 128, Nat.mod_lt _ (by decide)⟩
def ldHbm (v : Nat) : Bool := bitOf v 7
def ldRows (v : Nat) : Nat := if bitsOf v 16 8 = 0 then 256 else bitsOf v 16 8
def ldProb (v : Nat) : Bool := bitOf v 17
def ldPerChoice (v : Nat) : Bool := bitOf v 18
def ldTok (v : Nat) : Nat := bitsOf v 47 32
def ldEnt (v : Nat) : Nat := bitsOf v 85 64
def ldProbAddr (v : Nat) : Nat := bitsOf v 117 96
def ldWgt (v : Nat) : Nat := bitsOf v 149 128
def ldStride (v : Nat) : Nat := bitsOf v 191 160
def ldVec (v : Nat) : Nat := bitsOf v 255 192

/-- The module's own member index (R240). -/
def State.selfMember (s : State) : Option Nat :=
  if s.flag .swx SWX.HALL_ID_VALID then
    (List.range 16).find? fun m => mbValid (s.ltr_ .member m) && mbHall (s.ltr_ .member m) = s.hallId
  else none

/-! Quotas (R241, R242). -/

/-- A failure of R241: layer, half, member and quota sum. -/
structure QuotaFail where
  layer : Nat
  half : Nat
  member : Nat
  sum : Nat
deriving DecidableEq, Repr

/-- Sum of the quotas of a layer's valid experts at a member (R241). -/
def State.quotaSum (s : State) (t : LtrTab) (l h m : Nat) : Nat :=
  ((List.range 64).map fun e =>
    let b := s.expert l e
    if exValid b && exMember b = m then s.quotaOf t l h e else 0).sum

/-- Layers with any quota in a table: the others' sums are 0. -/
def State.quotaLayers (s : State) (t : LtrTab) : List Nat :=
  ((s.ltr.tab.filter fun e => e.1 / 65536 = t.id).map fun e => e.1 % 65536 / 8).eraseDups

/-- The first failure of R241, layer by layer, half by half, member by member; then that of the total (log 51). -/
def State.quotaCheck (s : State) (t : LtrTab) : Option QuotaFail :=
  let each := (s.quotaLayers t).flatMap fun l => [0, 1].flatMap fun h => (List.range 16).filterMap fun m =>
    let n := s.quotaSum t l h m
    if n > mbCeil (s.ltr_ .member m) h then some (⟨l, h, m, n⟩ : QuotaFail) else none
  match each with
  | f :: _ => some f
  | [] =>
    let n := ((List.range 16).map fun m => mbCeil (s.ltr_ .member m) 0 + mbCeil (s.ltr_ .member m) 1).sum
    if n > 32768 then some ⟨0, 0, 0, n⟩ else none

/-- A refused swap or table write (R241, R242, R261). -/
def State.quotaReject (s : State) (f : QuotaFail) (c : Fld) (ev : Nat) : State :=
  (s.tally .ltr c ev).setFld .ltr LTR.REJECT_INFO
    (f.layer + f.half * 2 ^ 7 + f.member * 2 ^ 8 + 2 ^ 15 + min f.sum 65535 * 2 ^ 16)

/-- QUOTA copied over QUOTA_ACTIVE. -/
def State.quotaCopy (s : State) : State :=
  let q := (s.ltr.tab.filter fun e => e.1 / 65536 = LtrTab.quota.id).map fun e => (ltrKey .quotaActive (e.1 % 65536), e.2)
  let below := s.ltr.tab.filter fun e => e.1 / 65536 < LtrTab.quotaActive.id
  let above := s.ltr.tab.filter fun e => LtrTab.quotaActive.id < e.1 / 65536
  { s with ltr := { s.ltr with tab := below ++ q ++ above } }

/-- A requested swap takes place at a step start (R242). -/
def State.quotaSwapAt (s : State) : State :=
  if !s.flag .ltr LTR.STATUS_SWAP_PEND then s else
    let s1 := s.setFlag .ltr LTR.STATUS_SWAP_PEND false
    match s1.quotaCheck .quota with
    | some f => s1.quotaReject f LTR.QUOTA_REJECT_CNT LTR.EV_QUOTA_REJECT
    | none => s1.quotaCopy

/-- What LTR_CTRL does beside CNT_CLR: a 1 in QUOTA_SWAP requests a swap (R242, R261). -/
def ltrCtrl (w : RegW) (s : State) : State :=
  if wHits w LTR.CTRL_QUOTA_SWAP then s.setFlag .ltr LTR.STATUS_SWAP_PEND true else s

/-- QUOTA_SWAP: a write to LTR_CTRL (R242). -/
def execQuotaSwap (w : RegW) (s : State) : Host.Outcome State Fault Refusal := .next (ctrlWrite s .ltr w (ltrCtrl w))

/-- Write the entry that LTR_TAB_SEL selects (R239, R241, R261). -/
def ltrCommit (s : State) : State :=
  let i := s.fld .ltr LTR.TAB_SEL_INDEX
  let v := ((List.range 4).map fun j => s.fld .ltr (LTR.TAB_DATA j) * 2 ^ (64 * j)).sum
  match ltrTabOf (s.fld .ltr LTR.TAB_SEL_TABLE) with
  | none | some .quotaActive => s
  | some .quota => if i < LtrTab.quota.size then s.setLtr .quota i v else s
  | some t =>
    if i ≥ t.size then s
    else if s.locked then s.lockWrite .ltr (LTR.TAB_DATA 3).off
    else
      let s1 := s.setLtr t i v
      if t = .expert || t = .member then
        match s1.quotaCheck .quotaActive with
        | some f => s.quotaReject f LTR.TABLE_REJECT_CNT LTR.EV_TABLE_REJECT
        | none => s1
      else s1

/-- LTR_TAB_WRITE: a write of LTR_TAB_DATA3 (R241, R261). -/
def execLtrTabWrite (w : RegW) (s : State) : Host.Outcome State Fault Refusal :=
  .next (commitWrite s .ltr (LTR.TAB_DATA 3).off w ltrCommit)

/-- The entry that LTR_TAB_SEL selects; 0 beyond the table (R261). -/
def State.ltrTabEntry (s : State) : Nat :=
  let i := s.fld .ltr LTR.TAB_SEL_INDEX
  match ltrTabOf (s.fld .ltr LTR.TAB_SEL_TABLE) with
  | some t => if i < t.size then s.ltr_ t i else 0
  | none => 0

/-! The lauter program (R243). -/

/-- Front of the lauter program (R51). -/
def ltrFront : Nat := 520

/-- Instructions of R243 by OP. -/
inductive LtrOp where
  | dispatch | return_ | gradOut | gradReturn
deriving DecidableEq, Repr

def LtrOp.code : LtrOp → Nat
  | .dispatch => 0 | .return_ => 1 | .gradOut => 2 | .gradReturn => 3

/-- Whether an instruction works on an intake's list (R243). -/
def LtrOp.ofIntake : LtrOp → Bool
  | .return_ | .gradReturn => true
  | _ => false

def lwLayer (w : Issue) : Nat := bitsOf w.arg0.toNat 6 0
def lwHalf (w : Issue) : Nat := bitsOf w.arg0.toNat 7 7
def lwSlot (w : Issue) : Nat := bitsOf w.arg0.toNat 10 8

/-- USPEC bits that an instruction uses (R243). -/
def LtrOp.uspecMax : LtrOp → Nat
  | .dispatch => 4 | .gradOut => 1 | _ => 2

/-- Index of the RECEIVE entry of a layer, slot and half (R239). -/
def intakeIdx (l slot h : Nat) : Nat := 16 * l + 2 * slot + h

/-- The DESC entry and the LAYER entry that an instruction names. -/
def State.ltrDesc (s : State) (w : Issue) : Nat := s.ltr_ .desc (w.desc.toNat % 256)
def State.ltrLayer (s : State) (w : Issue) : Nat := s.ltr_ .layer (lwLayer w)
def State.ltrIntake (s : State) (w : Issue) : Nat := s.ltr_ .receive (intakeIdx (lwLayer w) (lwSlot w) (lwHalf w))

/-- Bytes of the vector that an instruction sends (R240). -/
def LtrOp.bytes (o : LtrOp) (layer : Nat) : Nat := if o = .dispatch then lyVbytes layer else lyRbytes layer

/-- Vector rows that an instruction names. -/
def State.ltrRows (s : State) (o : LtrOp) (w : Issue) : Nat :=
  let d := s.ltrDesc w
  if o.ofIntake then rvCap (s.ltrIntake w) else if ldPerChoice d then ldRows d * lyK (s.ltrLayer w) else ldRows d

/-- Scratchpad ranges of an instruction's descriptor: entries, probabilities, weights, and vector rows in SPACE 0. -/
def State.ltrSpad (s : State) (o : LtrOp) (w : Issue) : List Range :=
  let d := s.ltrDesc w
  let n := s.ltrRows o w
  (if o = .dispatch then [(ldEnt d, 64 * ldRows d), (ldWgt d, 32 * ldRows d)] ++
      (if ldProb d then [(ldProbAddr d, 256 * ldRows d)] else []) else []) ++
    (if ldHbm d || n = 0 then [] else rowRanges (ldVec d) (ldStride d) n (o.bytes (s.ltrLayer w)))

/-- Routing-record address of a choice (R249). -/
def recAddr (layer h t r : Nat) : Nat := lyRec layer + ((h * lyTph layer + t) * lyK layer + r) * 8

/-- HBM ranges of an instruction: records, statistics, lists, and vector rows in SPACE 1. -/
def State.ltrHbm (s : State) (o : LtrOp) (w : Issue) : List Range :=
  let d := s.ltrDesc w
  let l := s.ltrLayer w
  let n := s.ltrRows o w
  (if o.ofIntake then [(rvList (s.ltrIntake w), 8 * rvCap (s.ltrIntake w))]
    else [(recAddr l (lwHalf w) (ldTok d) 0, 8 * ldRows d * lyK l)]) ++
    (if o = .dispatch && w.uspec.getLsbD 1 then [(lyStat l + lwHalf w * 1056, 1056)] else []) ++
    (if ldHbm d then rowRanges (ldVec d) (ldStride d) n (o.bytes l) else [])

/-- Grounds for MALFORMED of a lauter instruction (R240, R243; log 51 for rows beyond the scratchpad). -/
def State.ltrBad (s : State) (o : LtrOp) (w : Issue) : Bool :=
  let l := s.ltrLayer w
  s.selfMember.isNone || w.vcnt || w.epoch || w.arg1 != 0 || w.arg2 != 0 || w.uspec.toNat ≥ o.uspecMax ||
    w.desc.toNat ≥ 256 || w.arg0.toNat ≥ (if o.ofIntake then 2048 else 256) || lyReserved l ||
    (lyRenorm l && !bitOf (s.fld .glb GLB.FEAT_ACTIVE) 12) || (s.ltrSpad o w).any fun r => r.1 + r.2 > spadSize

/-- Occupancy in phases (R243). -/
def State.ltrOcc (s : State) (o : LtrOp) (w : Issue) : Nat :=
  2 * (if o.ofIntake then rvCap (s.ltrIntake w) else ldRows (s.ltrDesc w) * lyK (s.ltrLayer w))

/-- A schedule fault of a lauter instruction (R70, R72). -/
def State.ltrFault (s : State) (w : Issue) (f : SFault) : State :=
  s.schedFault false f ⟨3, 0, wordUnit .ltr w, w.issue.toNat⟩

/-- What an instruction writes itself: combine weights in its tile; records and statistics in HBM (R248, R249, R258). -/
def State.ltrDest (s : State) (o : LtrOp) (w : Issue) : Range × List Range :=
  let d := s.ltrDesc w
  if o = .dispatch then
    ((ldWgt d, min (32 * ldRows d) (spadSize - ldWgt d)), (s.ltrHbm o w).filter fun r =>
      !(ldHbm d && (rowRanges (ldVec d) (ldStride d) (s.ltrRows o w) (o.bytes (s.ltrLayer w))).contains r))
  else ((0, 0), [])

/-- A suppressed lauter instruction: what it would have written is marked POISON, in HBM as poisoned writes of no bytes (R70, R329;
log 80). -/
def State.ltrSuppress (s : State) (o : LtrOp) (w : Issue) (f : SFault) : State :=
  let d := s.ltrDest o w
  let s1 := ((d.2.flatMap fun r => granules 256 r.1 r.2).eraseDups.filterMap fun g => interGran (256 * g)).foldl
    (fun s g => s.storePhys g [] true) (s.ltrFault w f)
  if d.1.2 = 0 then s1 else s1.markRange (ldTile (s.ltrDesc w)).val true d.1

/-- Whether an instruction touches the carve-out of a timed step (R317). -/
def State.ltrCarved (s : State) (o : LtrOp) (w : Issue) : Bool :=
  let own := ((s.bubble (ldTile (s.ltrDesc w)).val).map Bubble.banks).getD 0
  (banksOf (s.ltrSpad o w)).any (fun b => own.getLsbD b) || s.touchesCarve (s.ltrHbm o w)

/-- Tile regions that an instruction reads when it issues (R69, R70). -/
def State.ltrOperands (s : State) (o : LtrOp) (w : Issue) : List Region :=
  let d := s.ltrDesc w
  if o = .dispatch then
    rangeRegions (ldTile d).val ([(ldEnt d, 64 * ldRows d)] ++ if ldProb d then [(ldProbAddr d, 256 * ldRows d)] else [])
  else []

/-- The program front moves past a word. -/
def State.passLtr (s : State) (w : Issue) : State := s.setFront ltrFront ((s.front ltrFront).pass w s.stepTick s.clk.phase)

/-- An instruction issues: its unit is occupied, then its work is done, told whether an operand was late. -/
def ltrLaunch (o : LtrOp) (w : Issue) (t : Phase) (late : Bool) (run : Phase → Bool → State → State) (s : State) : State :=
  run t late { s with ltr := { s.ltr with busyTill := t + s.ltrOcc o w } }

/-- Issue in a timed step (R56, R59, R69 to R71, R317). -/
def issueLtrTimed (o : LtrOp) (w : Issue) (run : Phase → Bool → State → State) (s0 : State) : State :=
  let t := s0.sch.startPhase + issueStamp w
  let s := s0.advanceTo t
  let f := s.front ltrFront
  let s' :=
    if wordBad .ltr 0 o.code w || f.wordPoison then
      if s.quarterReady f t then s.ltrFault w .malformed else (s.ltrFault w .streamUnderrun).count .sch SCH.UNDERRUN_CNT
    else if !s.quarterReady f t then (s.ltrSuppress o w .streamUnderrun).count .sch SCH.UNDERRUN_CNT
    else if issueStamp w % 2 ≠ 0 || f.outOfOrder w || s.ltrBad o w then s.ltrSuppress o w .malformed
    else if s.ltrCarved o w then s.ltrFault w .carveOut
    else if t < s.ltr.busyTill then s.ltrSuppress o w .unitCollision
    else
      let late := s.pendingAt (s.ltrOperands o w) t
      ltrLaunch o w t late run (if late then s.ltrFault w .operandNotReady else s)
  s'.passLtr w

/-- When an instruction of the lauter program issues in an untimed step: at the first MCLK edge after its front's last one at which
the engine is free and no operand pending (R58, R73). -/
def State.ltrUntimed (s : State) (o : LtrOp) (w : Issue) : Phase :=
  nextEdge 2 (((s.ltrOperands o w).map s.pendEnd).foldl max
    (max (max s.clk.phase (s.front ltrFront).nextAt) s.ltr.busyTill))

/-- Issue in an untimed step (R73). -/
def issueLtrUntimed (o : LtrOp) (w : Issue) (run : Phase → Bool → State → State) (s0 : State) : State :=
  let t := s0.ltrUntimed o w
  let s := s0.advanceTo t
  (if wordBad .ltr 0 o.code w || (s.front ltrFront).wordPoison then s.ltrFault w .malformed
    else if s.ltrBad o w then s.ltrSuppress o w .malformed else ltrLaunch o w t false run s).passLtr w

/-- The front of the lauter program issues its next instruction (R55, R243). -/
def issueLtr (o : LtrOp) (w : Issue) (run : Phase → Bool → State → State) (s : State) : State :=
  if !s.running || (s.front ltrFront).ended then s
  else match s.sch.regime with
    | .none => s
    | .timed => issueLtrTimed o w run s
    | .untimed => issueLtrUntimed o w run s

end Sys2Proof.Machine
end

