-- ==== Sys2Proof/Machine/Lauter.lean ====
section
/-! DEFINITION. The lauter engine at work: admission, records, weights and statistics; its four instructions; departures
(R244 to R251, R255 to R259). -/
namespace Sys2Proof.Machine

/-! Admission (R246). -/

/-- Statuses of a choice (R246, R249). -/
inductive ChStatus where
  | sent | droppedQuota | none_ | masked | badExpert | dupExpert
deriving DecidableEq, Repr

/-- STATUS of a routing record (R249). -/
def ChStatus.code : ChStatus → Nat
  | .sent => 0 | .droppedQuota => 1 | .none_ => 2 | .masked => 3 | .badExpert => 4 | .dupExpert => 5

/-- A decided choice: entry index, gate in BF16, status, and its fill index. -/
structure Decided where
  e : Nat
  g : Nat
  status : ChStatus
  slot : Nat
deriving DecidableEq, Repr

/-- Key of the fill counter of a layer, half and expert. -/
def fillKey (l h e : Nat) : Nat := (2 * l + h) * 64 + e % 64

/-- The entries of a token: index and gate in BF16 of each rank (R177, R245, R246). -/
def tokenEntries (k : Nat) (row : List Byte) : List (Nat × Nat) :=
  (List.range k).map fun r =>
    let v := leNat ((row.drop (8 * r)).take 8)
    (v % 2 ^ 16, rneBf16 (valueOf fFP32 (bitsOf v 63 32)))

/-- Decide one choice (R246): `earlier` are the indexes of the token's earlier ranks. -/
def State.decideOne (s : State) (l h nexp e g : Nat) (earlier : List Nat) : Decided × State :=
  if e = 0xFFFF then (⟨e, 0, .none_, 0xFFFF⟩, s)
  else if e ≥ nexp || !exValid (s.expert l e) then (⟨e, g, .badExpert, 0xFFFF⟩, s)
  else if earlier.contains e then (⟨e, g, .dupExpert, 0xFFFF⟩, s)
  else
    let n := smGet 0 s.ltr.fill (fillKey l h e)
    if n < s.quotaOf .quotaActive l h e then
      (⟨e, g, .sent, n⟩, { s with ltr := { s.ltr with fill := smSet 0 s.ltr.fill (fillKey l h e) (n + 1) } })
    else (⟨e, g, .droppedQuota, 0xFFFF⟩, s)

/-- Decide the choices of a token, rank by rank (R246). -/
def State.decide (s : State) (l h nexp : Nat) (es : List (Nat × Nat)) : List Decided × State :=
  if es.all fun x => x.1 = 0xFFFF then (es.map fun x => ⟨x.1, 0, .masked, 0xFFFF⟩, s)
  else
    let r := es.foldl (fun acc x =>
      let d := acc.2.2.decideOne l h nexp x.1 x.2 acc.2.1
      (acc.1 ++ [d.1], acc.2.1 ++ [x.1], d.2)) (([] : List Decided), ([] : List Nat), s)
    (r.1, r.2.2)

/-! Combine weights (R248). -/

/-- The sum of the SENT weights, in rank order. -/
def weightSum (ds : List Decided) : W32 :=
  ds.foldl (fun a d => if d.status = .sent then rne32 ((f32 a).add (valueOf fBF16 d.g)) else a) 0

/-- A weight divided by the sum, when that is finite and not zero. -/
def weightDiv (w : W32) (s : W32) : W32 :=
  match f32 s with
  | .fin sg m e => rneDiv32 (f32 w) sg m e
  | _ => w

/-- The eight weights of a token, and whether RENORM_SKIP is counted (R248). -/
def tokenWeights (renorm : Bool) (ds : List Decided) : List W32 × Bool :=
  let ws := (List.range 8).map fun r =>
    match ds[r]? with
    | some d => if d.status = .sent then BitVec.ofNat 32 (d.g * 2 ^ 16) else 0
    | none => 0
  let s := weightSum ds
  if !renorm then (ws, false)
  else if (f32 s).isFin && !(f32 s).isZero then
    ((List.range 8).map fun r =>
      match ds[r]? with
      | some d => if d.status = .sent then weightDiv (ws.getD r 0) s else 0
      | none => 0, false)
  else (ws, ds.any fun d => d.status = .sent)

/-! Records (R249). -/

/-- The routing record of a choice. -/
def routeRecord (s : State) (l r : Nat) (poison : Bool) (d : Decided) : Nat :=
  let empty : Bool := d.status = .none_ || d.status = .masked
  let member := if empty || d.status = .badExpert then 0 else exMember (s.expert l d.e)
  (if empty then 0x3F else d.e % 64) + r * 2 ^ 6 + poison.toNat * 2 ^ 9 + d.status.code * 2 ^ 10 + member * 2 ^ 16 +
    d.slot * 2 ^ 32 + d.g * 2 ^ 48

/-- What waits for a LAUTER window. -/
def State.unseen_ (s : State) (us : List Unseen) : State := { s with ltr := { s.ltr with unseen := s.ltr.unseen ++ us } }

/-- Write a record or a statistics block: when it is complete outside timed steps, else with the next LAUTER window of the controller
that holds each piece (R249, R326). -/
def State.ltrWrite (s : State) (at_ : Phase) (a : Nat) (data : List Byte) (poison : Bool) : State :=
  if s.sch.regime = .timed then
    s.unseen_ ((pieces a data.length).map fun q => ⟨at_, none, q.1, (data.drop (q.1 - a)).take q.2, poison⟩)
  else s.writeMem 0 .inter a data [poison] at_

/-- Write combine weights: when they are complete outside timed steps, else with the next LAUTER window of any controller (R249, R326;
log 51).  R69 tracks writes of a tile's own units alone, so no region is pending for them. -/
def State.weightWrite (s : State) (at_ : Phase) (t : Fin 128) (a : Nat) (data : List Byte) (poison : Bool) : State :=
  if s.sch.regime = .timed then s.unseen_ [⟨at_, some t, a, data, poison⟩] else s.later [⟨at_, .spad t a data poison⟩]

/-! Counters and statistics (R246, R258). -/

/-- Statistics of a layer and half. -/
def State.ltrStat (s : State) (l h : Nat) : LtrStat := smGet LtrStat.initial s.ltr.stats (2 * l + h)

/-- Replace the statistics of a layer and half. -/
def State.setStat (s : State) (l h : Nat) (x : LtrStat) : State :=
  { s with ltr := { s.ltr with stats := smSet LtrStat.initial s.ltr.stats (2 * l + h) x } }

/-- Add one to a counter of experts. -/
def bumpAt (m : SMap Nat) (e : Nat) : SMap Nat := smSet 0 m e (smGet 0 m e + 1)

/-- A choice enters the statistics (R258). -/
def LtrStat.choice (x : LtrStat) (d : Decided) : LtrStat :=
  match d.status with
  | .sent => { x with assigned := bumpAt x.assigned d.e, sent := bumpAt x.sent d.e }
  | .droppedQuota => { x with assigned := bumpAt x.assigned d.e, droppedQuota := x.droppedQuota + 1 }
  | _ => x

/-- Whether every choice of a token is dropped (R246). -/
def tokenDropped (ds : List Decided) : Bool := ds.all fun d => d.status ≠ .sent && d.status ≠ .masked

/-- Whether a token is MASKED (R246). -/
def isMasked (ds : List Decided) : Bool := ds.all fun d => d.status = .masked

/-- A token enters the statistics, with whether what was read for it is POISON (R71, R258). -/
def LtrStat.token (x : LtrStat) (ds : List Decided) (probs : List Fp) (poison : Bool) : LtrStat :=
  let y := { ds.foldl LtrStat.choice x with poison := x.poison || poison }
  if isMasked ds then { y with masked := y.masked + 1 }
  else { y with tokens := y.tokens + 1, allDropped := y.allDropped + (tokenDropped ds).toNat,
                psum := probs.zipIdx.foldl (fun m p =>
                  smSet fpZero m p.2 (f32 (rne32 ((smGet fpZero m p.2).add p.1)))) y.psum }

/-- Count one choice by its status (R246, R261). -/
def State.countChoice (s : State) (l h t : Nat) (d : Decided) : State :=
  let s1 := s.count .ltr LTR.CHOICE_CNT
  let s2 := match d.status with
    | .sent => s1.count .ltr LTR.SENT_CNT
    | .droppedQuota => s1.tally .ltr LTR.DROPPED_QUOTA_CNT LTR.EV_DROPPED_QUOTA
    | .none_ => s1.count .ltr LTR.NONE_CNT
    | .badExpert => s1.tally .ltr LTR.BAD_EXPERT_CNT LTR.EV_BAD_EXPERT
    | .dupExpert => s1.tally .ltr LTR.DUP_EXPERT_CNT LTR.EV_DUP_EXPERT
    | .masked => s1
  if d.status = .sent || d.status = .masked || s2.flag .ltr LTR.DROP_FIRST_VALID then s2
  else s2.setFld .ltr LTR.DROP_FIRST
    (l + h * 2 ^ 7 + d.e % 64 * 2 ^ 8 + d.status.code * 2 ^ 16 + 2 ^ 31 + t % 2 ^ 16 * 2 ^ 32)

/-- Count a token (R246, R248). -/
def State.countToken (s : State) (l h t : Nat) (ds : List Decided) (skip : Bool) : State :=
  let s1 := ds.foldl (fun s d => s.countChoice l h t d) s
  let s2 := if isMasked ds then s1.count .ltr LTR.MASKED_CNT
    else if tokenDropped ds then s1.tally .ltr LTR.ALL_DROPPED_CNT LTR.EV_ALL_DROPPED else s1
  if skip then s2.tally .ltr LTR.RENORM_SKIP_CNT LTR.EV_RENORM_SKIP else s2

/-- Quotient of two counts in FP32; +0 when either total is 0 (R258). -/
def ratio32 (n d : Nat) : Nat := if n = 0 || d = 0 then 0 else (rneQ fFP32 false false n d 0).code

/-- The statistics block of a layer and half, and its SKEW (R258). -/
def statBlock (layer : Nat) (prob : Bool) (x : LtrStat) : List Byte × Nat :=
  let n := lyNexp layer
  let asg := fun (e : Nat) => smGet 0 x.assigned e
  let total := ((List.range n).map asg).sum
  let top := ((List.range n).map asg).foldl max 0
  let skew := if x.tokens = 0 then 0 else ratio32 (top * n) total
  let p := fun (e : Nat) =>
    if x.tokens = 0 || total = 0 then 0
    else if prob then (rneDiv32 (smGet fpZero x.psum e) false x.tokens 0).toNat else 0x7FC0_0000
  (leBytes 4 x.tokens ++ leBytes 4 x.masked ++ leBytes 4 x.allDropped ++ leBytes 4 skew ++ leBytes 4 x.droppedQuota ++
    leBytes 12 0 ++ (List.range n).flatMap (fun e =>
      leBytes 4 (asg e) ++ leBytes 4 (smGet 0 x.sent e) ++
      leBytes 4 (if total = 0 then 0 else ratio32 (asg e) (lyK layer * x.tokens)) ++ leBytes 4 (p e)), skew)

/-- A DISPATCH with LAST writes the block, and raises SKEW at the limit (R258). -/
def State.writeStats (s : State) (l h : Nat) (layer : Nat) (prob : Bool) (at_ : Phase) : State :=
  let b := statBlock layer prob (s.ltrStat l h)
  let s1 := s.ltrWrite at_ (lyStat layer + h * 1056) b.1 (s.ltrStat l h).poison
  if (valueOf fFP32 (s.fld .ltr LTR.SKEW_LIMIT)).le (valueOf fFP32 b.2) then s1.tally .ltr LTR.SKEW_CNT LTR.EV_SKEW else s1

/-! Queues (R244, R251). -/

/-- Choices that a queue holds. -/
def queueLimit : Nat := 32768

/-- The dropped-cell cause for scheduled cells that do not travel (R22, R251). -/
def State.cellsLost (s : State) (c : Fld) (ev : Nat) : State := (s.tally .ltr c ev).invalid false .dropped

/-- A choice enters the outbound or the return queue of a timed step; nothing is sent in an untimed one (R251, R259). -/
def State.enqueue (s : State) (ret : Bool) (c : Choice) : State :=
  if s.sch.regime != .timed then s
  else if ret then
    if s.ltr.retQ.length ≥ queueLimit then s.cellsLost LTR.QUEUE_FULL_CNT LTR.EV_QUEUE_FULL
    else { s with ltr := { s.ltr with retQ := s.ltr.retQ ++ [c] } }
  else if s.ltr.outQ.length ≥ queueLimit then s.cellsLost LTR.QUEUE_FULL_CNT LTR.EV_QUEUE_FULL
  else { s with ltr := { s.ltr with outQ := s.ltr.outQ ++ [c] } }

/-- The head data of a choice, PART 0 (R250). -/
def choiceHead (t r h phase member l slot gate idx : Nat) : BitVec 320 :=
  BitVec.ofNat 320 (t % 2 ^ 16 + r * 2 ^ 16 + h * 2 ^ 19 + phase * 2 ^ 22 + member * 2 ^ 24 + l * 2 ^ 32 + slot * 2 ^ 40 +
    gate * 2 ^ 48 + idx % 2 ^ 16 * 2 ^ 64)

/-- When the first cell of choice `c` of an instruction is ready (R244). -/
def readyAt (at_ : Phase) (c : Nat) : Phase := at_ + 2 * (c + 80)

/-! DISPATCH (R245 to R249, R258). -/

/-- Queue the SENT choices of a token (R244, R246). -/
def queueToken (w : Issue) (at_ : Phase) (i : Nat) (poison : Bool) (ds : List Decided) (s : State) : State :=
  let d := s.ltrDesc w
  let layer := s.ltrLayer w
  let l := lwLayer w
  let h := lwHalf w
  let t := ldTok d + i
  let me := s.selfMember.getD 0
  ds.zipIdx.foldl (fun s x =>
    if x.1.status ≠ .sent then s else
      let ex := s.expert l x.1.e
      let row := if ldPerChoice d then i * lyK layer + x.2 else i
      let c : Choice := ⟨mbDch (s.ltr_ .member (exMember ex)) h, 0, readyAt at_ (i * lyK layer + x.2),
        choiceHead t x.2 h 0 me l (exSlot ex) x.1.g x.1.slot, (ldTile d).val, ldHbm d, ldVec d + row * ldStride d,
        lyVbytes layer, poison, none⟩
      s.enqueue false c) s

/-- Ranges of a tile's scratchpad that a DISPATCH reads for row `i`: the entries, and the probabilities of a token that is not MASKED
(R245, R258). -/
def tokenReads (d layer i : Nat) (masked : Bool) : List Range :=
  (ldEnt d + 64 * i, 64) :: if ldProb d && !masked then [(ldProbAddr d + 256 * i, 4 * lyNexp layer)] else []

/-- The ranges of row `i` of an instruction's descriptor. -/
def State.tokenRanges (s : State) (w : Issue) (i : Nat) : List Range :=
  let d := s.ltrDesc w
  let es := tokenEntries (lyK (s.ltrLayer w)) (s.spadRead (ldTile d) (ldEnt d + 64 * i, 64))
  tokenReads d (s.ltrLayer w) i (es.all fun x => x.1 = 0xFFFF)

/-- One token of a DISPATCH: decided, recorded, weighed and counted (R245 to R249).  Every output is marked POISON when an operand was
late or an access failed (R70, R189), else the weights as their entry row is. -/
def dispatchToken (w : Issue) (at_ done : Phase) (late : Bool) (i : Nat) (s0 : State) : State :=
  let d := s0.ltrDesc w
  let layer := s0.ltrLayer w
  let l := lwLayer w
  let h := lwHalf w
  let t := ldTok d + i
  let tile := ldTile d
  let ent : Range := (ldEnt d + 64 * i, 64)
  let poison := late || s0.readPoison tile ent
  let row := s0.spadRead tile ent
  let es := tokenEntries (lyK layer) row
  let reads := s0.tokenRanges w i
  let probs := reads.tail.flatMap fun r => (unpack fFP32 (lyNexp layer) (s0.spadRead tile r)).map (valueOf fFP32)
  let s := s0.access false tile .ingress (reads ++ [(ldWgt d + 32 * i, 32)])
  let r := s.decide l h (lyNexp layer) es
  let ds := r.1
  let ws := tokenWeights (lyRenorm layer) ds
  let s1 := ds.zipIdx.foldl (fun s x =>
    s.ltrWrite done (recAddr layer h t x.2) (leBytes 8 (routeRecord s l x.2 poison x.1)) late) r.2
  let s2 := s1.weightWrite done tile (ldWgt d + 32 * i) (ws.1.flatMap fun x => leBytes 4 x.toNat) poison
  let s3 := (s2.countToken l h t ds ws.2).setStat l h
    ((s2.ltrStat l h).token ds probs (late || reads.any fun r => s0.readPoison tile r))
  queueToken w at_ i poison ds s3

/-- Clear the fill counters and statistics of a layer and half (R245). -/
def State.clearHalf (s : State) (l h : Nat) : State :=
  { s with ltr := { s.ltr with fill := smDrop (fun k => k / 64 = 2 * l + h) s.ltr.fill,
                               stats := smDrop (fun k => k = 2 * l + h) s.ltr.stats } }

/-- What DISPATCH does when it issues (R245 to R249, R258, R259). -/
def dispatchRun (w : Issue) (at_ : Phase) (late : Bool) (s0 : State) : State :=
  let d := s0.ltrDesc w
  let l := lwLayer w
  let h := lwHalf w
  let done := at_ + s0.ltrOcc .dispatch w + 160
  let s := if w.uspec.getLsbD 0 then s0.clearHalf l h else s0
  let failed := (List.range (ldRows d)).any fun i => (s0.tokenRanges w i).any fun r => s0.offIn (ldTile d) r
  let s1 := (List.range (ldRows d)).foldl (fun s i => dispatchToken w at_ done (late || failed) i s) s
  let s2 := if late then s1.poisoned false else s1
  if w.uspec.getLsbD 1 then s2.writeStats l h (s0.ltrLayer w) (ldProb d) done else s2

/-- DISPATCH (R243 to R249, R258). -/
def execDispatch (w : Issue) (s : State) : Host.Outcome State Fault Refusal := .next (issueLtr .dispatch w (dispatchRun w) s)

/-! RETURN and GRAD_RETURN (R255, R257). -/

/-- Fields of an arrival-list entry (R252). -/
def leToken (v : Nat) : Nat := bitsOf v 31 16
def leSrc (v : Nat) : Nat := bitsOf v 35 32
def leRank (v : Nat) : Nat := bitsOf v 38 36
def leOrd (v : Nat) : Nat := bitsOf v 63 48

/-- Entries on an intake's list (R252). -/
def State.listed (s : State) (idx : Nat) : Nat := smGet 0 s.ltr.listed idx

/-- What RETURN and GRAD_RETURN do when they issue: each listed entry's row is queued for its source (R244, R255, R257). -/
def returnRun (o : LtrOp) (w : Issue) (ecc : List EccErr) (at_ : Phase) (late : Bool) (s0 : State) : State :=
  let d := s0.ltrDesc w
  let layer := s0.ltrLayer w
  let l := lwLayer w
  let h := lwHalf w
  let idx := intakeIdx l (lwSlot w) h
  let rv := s0.ltrIntake w
  let n := min (s0.listed idx) (rvCap rv)
  let me := s0.selfMember.getD 0
  if s0.sch.regime != .timed then s0 else
    let r := s0.readMem false 0 .inter ecc (rvList rv) (8 * n)
    let v := leNat r.1.data
    (List.range n).foldl (fun s i =>
      let e := elemAt 64 v i
      let c : Choice := ⟨mbRch (s.ltr_ .member (leSrc e)) h, 0, readyAt at_ i,
        choiceHead (leToken e) (leRank e) h (if o = .return_ then 1 else 3) me l (lwSlot w) 0 i, (ldTile d).val, ldHbm d,
        ldVec d + i * ldStride d, lyRbytes layer, late || r.1.poison,
        if w.uspec.getLsbD 0 then some (leBuffer e) else none⟩
      s.enqueue true c) r.2

/-- RETURN (R243, R255). -/
def execReturnRows (w : LtrIssue) (s : State) : Host.Outcome State Fault Refusal :=
  .next (issueLtr .return_ w.word (returnRun .return_ w.word w.ecc) s)

/-- GRAD_RETURN (R243, R257). -/
def execGradReturn (w : LtrIssue) (s : State) : Host.Outcome State Fault Refusal :=
  .next (issueLtr .gradReturn w.word (returnRun .gradReturn w.word w.ecc) s)

/-! GRAD_OUT (R256). -/

/-- The gradient of one record, when it is SENT (R256). -/
def gradRecord (w : Issue) (at_ : Phase) (late : Bool) (i r v : Nat) (s : State) : State :=
  let d := s.ltrDesc w
  let layer := s.ltrLayer w
  let h := lwHalf w
  let l := lwLayer w
  if bitsOf v 12 10 ≠ 0 then s else
    let row := if ldPerChoice d then i * lyK layer + r else i
    s.enqueue false ⟨mbDch (s.ltr_ .member (bitsOf v 19 16)) h, 0, readyAt at_ (i * lyK layer + r),
      choiceHead (ldTok d + i) r h 2 (s.selfMember.getD 0) l (exSlot (s.expert l (bitsOf v 5 0))) 0 (bitsOf v 47 32),
      (ldTile d).val, ldHbm d, ldVec d + row * ldStride d, lyRbytes layer, late, none⟩

/-- What GRAD_OUT does when it issues (R256). -/
def gradOutRun (w : Issue) (ecc : List EccErr) (at_ : Phase) (late : Bool) (s0 : State) : State :=
  let d := s0.ltrDesc w
  let layer := s0.ltrLayer w
  let n := ldRows d * lyK layer
  if s0.sch.regime != .timed then s0 else
    let r := s0.readMem false 0 .inter ecc (recAddr layer (lwHalf w) (ldTok d) 0) (8 * n)
    let v := leNat r.1.data
    (List.range n).foldl (fun s c =>
      gradRecord w at_ (late || r.1.poison) (c / lyK layer) (c % lyK layer) (elemAt 64 v c) s) r.2

/-- GRAD_OUT (R243, R256). -/
def execGradOut (w : LtrIssue) (s : State) : Host.Outcome State Fault Refusal :=
  .next (issueLtr .gradOut w.word (gradOutRun w.word w.ecc) s)

/-! Departures (R244, R250, R251). -/

/-- Parts of a vector of V bytes, and the bytes of part p (R240). -/
def partCount (v : Nat) : Nat := ceilDiv v 3780
def partLen (v p : Nat) : Nat := min v (3780 * (p + 1)) - 3780 * p

/-- Cells of part `p` of a choice. -/
def Choice.cells (c : Choice) : Nat := 1 + ceilDiv (partLen c.len c.part) 60

/-- Read the bytes of a choice's next part where its row lies, with the errors met (R244, R329). -/
def State.choiceBytes (s : State) (c : Choice) (ecc : List EccErr) : (List Byte × Bool) × State :=
  let a := c.addr + 3780 * c.part
  let n := partLen c.len c.part
  if c.hbm then
    let r := s.readMem false 0 .inter ecc a n
    ((r.1.data, r.1.poison), r.2)
  else
    let t : Fin 128 := ⟨c.tile % 128, Nat.mod_lt _ (by decide)⟩
    ((s.spadRead t (a, n), s.readPoison t (a, n)), s.access false t .ingress [(a, n)])

/-- The errors of a command's granules after its first `n`. -/
def eccAfter (n : Nat) (ecc : List EccErr) : List EccErr :=
  (ecc.filter fun e => n ≤ e.gran).map fun e => { e with gran := e.gran - n }

/-- One part departs, when its channel's runs have room (R251). -/
def State.departPart (s : State) (c : Choice) (ecc : List EccErr) : Option (Phase × State) :=
  let r := s.choiceBytes c ecc
  let head := BitVec.ofNat 320 (c.head.toNat + c.part * 2 ^ 20)
  r.2.depart c.channel centralEntry [3] c.readyAt (r.2.headMessage c.channel head r.1.1 (c.poison || r.1.2))

/-- Parts depart until the choice is sent or its channel has no room; `fuel` bounds the parts.  The choice as it is left, the
time of its last slot, and the state.  The errors are those of the command's granules, part after part (R329). -/
def State.departChoice : Nat → List EccErr → Choice → Phase → State → (Option Choice × Phase) × State
  | 0, _, c, t, s => ((some c, t), s)
  | n + 1, ecc, c, t, s =>
    if c.part ≥ partCount c.len then ((none, t), s)
    else match s.departPart c ecc with
      | none => ((some c, t), s)
      | some r => State.departChoice n (eccAfter (granules 256 (c.addr + 3780 * c.part) (partLen c.len c.part)).length ecc)
          { c with part := c.part + 1 } r.1 r.2

/-- Take the first choice of a channel out of a queue, and put back what is left of it in its place. -/
def replaceChoice (ch : BitVec 16) (x : Option Choice) : List Choice → List Choice
  | [] => []
  | c :: t => if c.channel = ch then (match x with | some y => y :: t | none => t) else c :: replaceChoice ch x t

/-- LAUTER_CHOICE_DEPART: the first choice that waits for a channel departs in the first fitting reserved slots (R244, R251). -/
def execLauterChoiceDepart (channel : ChoiceRead) (s : State) : Host.Outcome State Fault Refusal :=
  let ch := channel.channel
  let mine := fun (c : Choice) => c.channel = ch
  .next (if s.sch.regime != .timed then s else
    match s.ltr.outQ.find? mine, s.ltr.retQ.find? mine with
    | none, none => s
    | out, ret =>
      let c := (out.orElse fun _ => ret).getD ⟨ch, 0, 0, 0, 0, false, 0, 0, false, none⟩
      let s1 := s.advanceTo (c.readyAt - s.entryLead centralEntry)
      let r := s1.departChoice 8 channel.ecc c s1.clk.phase
      let s2 := if out.isSome then { r.2 with ltr := { r.2.ltr with outQ := replaceChoice ch r.1.1 r.2.ltr.outQ } }
        else { r.2 with ltr := { r.2.ltr with retQ := replaceChoice ch r.1.1 r.2.ltr.retQ } }
      match r.1.1, c.releaseId with
      | none, some id => s2.releaseAt r.1.2 lauterUnit id
      | _, _ => s2)

/-- Whether a run of a channel still has slots ahead in the step (R251). -/
def State.runAhead (s : State) (ch : BitVec 16) : Bool :=
  (s.departInsts ch [3]).any fun inst => (List.range (s.runCount inst)).any fun i =>
    let r := s.run inst i
    r.channel = ch.toNat && s.clk.phase < s.sch.startPhase + (r.start + r.count) * outPeriod inst

/-- Queued choices that will not be sent: each is counted, and its cells are scheduled cells that are lost (R22, R251). -/
def State.runsShort (s : State) (p : Choice → Bool) : State :=
  ((s.ltr.outQ ++ s.ltr.retQ).filter p).foldl (fun s _ => s.cellsLost LTR.RUN_SHORT_CNT LTR.EV_RUN_SHORT)
    { s with ltr := { s.ltr with outQ := s.ltr.outQ.filter fun c => !p c, retQ := s.ltr.retQ.filter fun c => !p c } }

/-- RUN_SHORT: once a channel's last run of the step has ended, its choices that are still queued are discarded (R251; log 50). -/
def execRunShort (channel : BitVec 16) (s : State) : Host.Outcome State Fault Refusal :=
  .next (if s.sch.regime != .timed || s.runAhead channel then s else s.runsShort fun c => c.channel = channel)

end Sys2Proof.Machine
end

