-- ==== Sys2Proof/Machine/LauterRx.lean ====
section
/-! DEFINITION. Arrivals at the lauter engine: intakes, gradients, returns; and its LAUTER windows (R252 to R257, R326). -/
namespace Sys2Proof.Machine

/-! Messages. -/

/-- Fields of a lauter message (R250). -/
structure LtrMsg where
  token : Nat
  rank : Nat
  half : Nat
  part : Nat
  phase : Nat
  member : Nat
  layer : Nat
  slot : Nat
  idx : Nat
deriving DecidableEq, Repr

/-- Read the head of a lauter message (R250). -/
def Msg.ltr (m : Msg) : LtrMsg :=
  let h := m.data
  ⟨h % 2 ^ 16, bitsOf h 18 16, bitsOf h 19 19, bitsOf h 21 20, bitsOf h 23 22, bitsOf h 27 24, bitsOf h 38 32, bitsOf h 42 40,
    bitsOf h 79 64⟩

/-- The input at which a message for the lauter engine came to the edge switch, or its own row's port (R253); none for another
sink. -/
def lauterInput : Sink → Option Nat
  | .lauter i => some i
  | _ => Option.none

/-- The order in which messages are taken: MCLK cycle of arrival at the engine, then input (R253). -/
def Msg.order (m : Msg) : Nat := m.at_ / 2 * 32 + ((lauterInput m.sink).getD m.input) % 32

/-- The first arrived lauter message whose phase a test accepts (R253). -/
def State.firstLauter (s : State) (p : Nat → Bool) : Option Msg :=
  (sortOn Msg.order (s.fab.arrived.filter fun m => (lauterInput m.sink).isSome && p m.ltr.phase)).head?

/-- Take a lauter message; an untimed step receives nothing (R259). -/
def takeLauter (p : Nat → Bool) (act : Msg → LtrMsg → State → State) (s0 : State) : State :=
  let s := s0.settle s0.clk.phase
  match s.firstLauter p with
  | none => s0
  | some m =>
    let s1 := { s with fab := { s.fab with arrived := s.fab.arrived.erase m } }
    if s.sch.regime = .timed then act m m.ltr s1 else s1

/-- The body of a part holds all its bytes (R240). -/
def partWhole (m : Msg) (v part : Nat) : Bool := part < partCount v && partLen v part ≤ m.body.length

/-- A landing in HBM of what came on a channel, visible 80 ns later; into the carve-out it is a fault of the channel's job, and dropped
(R68, R317). -/
def State.land (s : State) (ch : BitVec 16) (at_ : Phase) (a : Nat) (data : List Byte) (poison : Bool) : State :=
  let sec := s.chanSecond ch
  if s.cellCarved sec none (a, data.length) then s.carvedCell sec false
  else s.writeMem 0 .inter a data [poison] (at_ + visibleAfter)

/-! Intakes (R252 to R254). -/

/-- The assembly of a channel. -/
def State.asmOf (s : State) (ch : BitVec 16) : Option Assembly := s.ltr.asm.find? fun a => a.channel = ch

/-- Replace the assembly of a channel. -/
def State.setAsm (s : State) (ch : BitVec 16) (a : Option Assembly) : State :=
  { s with ltr := { s.ltr with asm := (s.ltr.asm.filter fun x => x.channel ≠ ch) ++ a.toList } }

/-- A choice that can never complete: its buffer is released and RX_INCOMPLETE counted (R254). -/
def State.asmLost (s : State) (a : Assembly) : State :=
  match a.grad, a.buffer with
  | false, some id => (s.releaseBuf lauterUnit id).tally .ltr LTR.RX_INCOMPLETE_CNT LTR.EV_RX_INCOMPLETE
  | _, _ => s

/-- The next ordinal of a source at an intake (R252, R257). -/
def ordKey (idx src : Nat) : Nat := idx * 16 + src % 16

/-- A part 0 starts a choice: an ordinal, the checks of R254, and a buffer (R252; log 52). -/
def State.startChoice (s0 : State) (m : Msg) (x : LtrMsg) : Option Assembly × State :=
  let idx := intakeIdx x.layer x.slot x.half
  let rv := s0.ltr_ .receive idx
  let v := lyVbytes (s0.ltr_ .layer x.layer)
  let e := s0.chanEntry (rvChannel rv)
  let ord := smGet 0 s0.ltr.ords (ordKey idx x.member)
  let s := { s0 with ltr := { s0.ltr with ords := smSet 0 s0.ltr.ords (ordKey idx x.member) (ord + 1) } }
  let asm := fun (b : Option Nat) =>
    (⟨false, m.channel, idx, b, 0, partCount v, x.member, x.token, x.rank, ord, false, m.at_⟩ : Assembly)
  if ceKind e = chEmpty || ceStride e < v then (some (asm none), s.tally .ltr LTR.RX_DROP_CNT LTR.EV_RX_DROP)
  else if rvCap rv = 0 || s.listed idx ≥ rvCap rv then (some (asm none), s.tally .ltr LTR.INTAKE_FULL_CNT LTR.EV_INTAKE_FULL)
  else
    let r := s.allocNow lauterUnit (cePool e) (ceStride e) (s.chanInit e)
    match r.1 with
    | some id => (some (asm (some id)), r.2)
    | none => (some (asm none), r.2.tally .ltr LTR.RX_DROP_CNT LTR.EV_RX_DROP)

/-- The bytes of a part go into a buffer at an offset (R252). -/
def State.intoBuffer (s : State) (id off : Nat) (data : List Byte) (poison : Bool) (at_ : Phase) : State :=
  match s.poolOf id with
  | some (_, p) =>
    if p.scratch then s.ingress false false p.tile (p.addr id + off) data poison at_ 0
    else s.ingressHbm false false id (p.addr id + off) at_ data poison
  | none => s

/-- A choice is complete: its entry is appended to the intake's list, or the list is full (R252, R254). -/
def State.completeChoice (s : State) (a : Assembly) (id : Nat) : State :=
  let rv := s.ltr_ .receive a.key
  let n := s.listed a.key
  if n ≥ rvCap rv then (s.releaseBuf lauterUnit id).tally .ltr LTR.INTAKE_FULL_CNT LTR.EV_INTAKE_FULL
  else
    let v := lyVbytes (s.ltr_ .layer (a.key / 16))
    let cells := ((List.range (partCount v)).map fun p => ceilDiv (partLen v p) 60).sum
    let entry := id + a.token * 2 ^ 16 + a.src * 2 ^ 32 + a.rank * 2 ^ 36 + a.poison.toNat * 2 ^ 39 + a.ord % 2 ^ 16 * 2 ^ 48
    let s1 := s.land a.channel a.at_ (rvList rv + 8 * n) (leBytes 8 entry) false
    let s2 := { s1 with ltr := { s1.ltr with listed := smSet 0 s1.ltr.listed a.key (n + 1) } }
    ((s2.channelReceived (rvChannel rv)).bufferFilled id cells).count .ltr LTR.RX_CNT

/-- A part of a choice that is being assembled (R252, R254): written when it is the next one and whole. -/
def State.intakePart (s : State) (m : Msg) (x : LtrMsg) (a : Assembly) : State :=
  let v := lyVbytes (s.ltr_ .layer x.layer)
  if a.nextPart ≠ x.part || !partWhole m v x.part then s.setAsm m.channel (some { a with nextPart := 4 })
  else
    let a1 := { a with nextPart := x.part + 1, poison := a.poison || m.poison, at_ := m.at_ }
    let s1 := match a.buffer with
      | some id => s.intoBuffer id (3780 * x.part) (m.body.take (partLen v x.part)) m.poison m.at_
      | none => s
    if a1.nextPart = a.parts then
      match a.buffer with
      | some id => (s1.setAsm m.channel none).completeChoice a1 id
      | none => s1.setAsm m.channel none
    else s1.setAsm m.channel (some a1)

/-- A DISPATCH message at its intake (R252 to R254). -/
def intakeArrive (m : Msg) (x : LtrMsg) (s : State) : State :=
  if x.part = 0 then
    let s1 := match s.asmOf m.channel with
      | some a => (s.setAsm m.channel none).asmLost a
      | none => s
    let r := s1.startChoice m x
    match r.1 with
    | some a => r.2.intakePart m x a
    | none => r.2
  else match s.asmOf m.channel with
    | some a => if a.grad then s else s.intakePart m x a
    | none => s

/-- LAUTER_PART_ARRIVAL: the first DISPATCH message that has arrived whole (R252 to R254, R259). -/
def execLauterPartArrival (s : State) : Host.Outcome State Fault Refusal :=
  .next (takeLauter (fun p => p = 0) intakeArrive s)

/-! Gradients (R257). -/

/-- List position of the entry of a source with an ordinal, among the list's entries, which are read for it (R257, R333). -/
def State.listPosition (s : State) (ecc : List EccErr) (idx src ord : Nat) : Option Nat × State :=
  let n := s.listed idx
  let r := s.readMem false 0 .inter ecc (rvList (s.ltr_ .receive idx)) (8 * n)
  let v := leNat r.1.data
  ((List.range n).find? fun i => leSrc (elemAt 64 v i) = src && leOrd (elemAt 64 v i) = ord % 2 ^ 16, r.2)

/-- A gradient message at its intake: part 0 takes the next ordinal and finds its row; every part lands in it (R257, R329). -/
def gradArrive (m : Msg) (x : LtrMsg) (s : State) : State :=
  let idx := intakeIdx x.layer x.slot x.half
  let layer := s.ltr_ .layer x.layer
  let v := lyRbytes layer
  let start := fun (s : State) =>
    let ord := smGet 0 s.ltr.backOrds (ordKey idx x.member)
    let s1 := { s with ltr := { s.ltr with backOrds := smSet 0 s.ltr.backOrds (ordKey idx x.member) (ord + 1) } }
    let pos := s1.drawErrs.2.listPosition s1.drawErrs.1 idx x.member ord
    let s2 := if pos.1.isNone then pos.2.tally .ltr LTR.BWD_UNMATCHED_CNT LTR.EV_BWD_UNMATCHED else pos.2
    s2.setAsm m.channel (some ⟨true, m.channel, idx, pos.1, 0, partCount v, x.member, x.token, x.rank, ord, false, m.at_⟩)
  let s1 := if x.part = 0 then
      start (match s.asmOf m.channel with
        | some a => (s.setAsm m.channel none).asmLost a
        | none => s)
    else s
  match s1.asmOf m.channel with
  | some a =>
    match a.grad, a.buffer with
    | true, some i =>
      s1.land m.channel m.at_ (rvGrad (s1.ltr_ .receive idx) + i * rowBytes layer + 3780 * x.part) (m.body.take (partLen v x.part))
        m.poison
    | _, _ => s1
  | none => s1

/-- GRAD_ARRIVAL: the first PHASE 2 message that has arrived whole (R257). -/
def execGradArrival (s : State) : Host.Outcome State Fault Refusal :=
  .next (takeLauter (fun p => p = 2) gradArrive s)

/-! Returns (R255, R257). -/

/-- A returning row lands at its source (R255), an input gradient beyond the returns (R257). -/
def returnArrive (m : Msg) (x : LtrMsg) (s : State) : State :=
  let layer := s.ltr_ .layer x.layer
  let v := lyRbytes layer
  let back := if x.phase = 3 then 2 * lyTph layer * lyK layer * rowBytes layer else 0
  let row := ((x.half * lyTph layer + x.token) * lyK layer + x.rank) * rowBytes layer
  s.land m.channel m.at_ (lyRet layer + back + row + 3780 * x.part) (m.body.take (partLen v x.part)) m.poison

/-- RETURN_ARRIVAL: the first PHASE 1 or PHASE 3 message that has arrived whole (R255, R257). -/
def execReturnArrival (s : State) : Host.Outcome State Fault Refusal :=
  .next (takeLauter (fun p => p = 1 || p = 3) returnArrive s)

/-! Windows (R249, R326). -/

/-- The first window of a kind and owner that is open or ahead. -/
def State.nextWindow (s : State) (k kind owner : Nat) : Option MemWin :=
  (s.windows k).find? fun w => w.kind = kind && w.owner = owner && s.stepTick < w.start + w.len

/-- The clock at a step-relative tick (log 19). -/
def State.toTick (s : State) (tick : Nat) : State := s.advanceTo (s.sch.startPhase + 4 * tick)

/-- Whether a window of controller k shows what waits for one: its granules, or any tile's weights (R326; log 51). -/
def Unseen.shownBy (u : Unseen) (k : Nat) (by_ : Phase) : Bool :=
  u.at_ ≤ by_ && (u.tile.isSome || ((interGran u.addr).map granStack).getD 0 = k)

/-- It becomes visible. -/
def Unseen.show (u : Unseen) (s : State) : State :=
  match u.tile with
  | some t => s.spadWrite t u.poison u.addr u.data
  | none => s.writeMem 0 .inter u.addr u.data [u.poison] s.clk.phase

/-- What is complete by a time and a window of controller k shows becomes visible. -/
def State.showRecords (s : State) (k : Nat) (by_ : Phase) : State :=
  (s.ltr.unseen.filter fun u => u.shownBy k by_).foldl (fun s u => u.show s)
    { s with ltr := { s.ltr with unseen := s.ltr.unseen.filter fun u => !u.shownBy k by_ } }

/-- LAUTER_WINDOW: the records and weights complete by the START of a controller's next LAUTER window are visible at its END + 80 ns; outside
timed steps no window holds them back (R249, R326, R331). -/
def execLauterWindow (k : Fin 8) (s : State) : Host.Outcome State Fault Refusal :=
  .next (if s.sch.regime != .timed then s.showRecords k.val s.clk.phase
    else match s.nextWindow k.val winLauter 0 with
      | none => s
      | some w => (s.toTick (w.start + w.len + 80)).showRecords k.val (s.sch.startPhase + 4 * w.start))

/-- POOL_WINDOW: the next POOL window of a pool opens at a controller; admission itself is decided as cells arrive (R326, R327). -/
def execPoolWindow (k : Fin 8) (pool : Fin 16) (s : State) : Host.Outcome State Fault Refusal :=
  .next (if s.sch.regime != .timed then s
    else match s.nextWindow k.val winPool pool.val with
      | none => s
      | some w => s.toTick w.start)

/-- The step boundary: a choice left incomplete gives its buffer back, and one left unsent is short of runs (R251, R254). -/
def State.ltrStepEnd (s : State) : State :=
  let s1 := s.ltr.asm.foldl State.asmLost { s with ltr := { s.ltr with asm := [] } }
  s1.runsShort fun _ => true

/-- Step start clears fills, statistics, lists and ordinals, after what an earlier step has left (R245, R251, R252, R254). -/
def State.ltrStepStart (s : State) : State :=
  let s1 := s.ltrStepEnd
  ({ s1 with ltr := { s1.ltr with fill := [], stats := [], listed := [], ords := [], backOrds := [] } }).setFld .ltr LTR.DROP_FIRST 0

end Sys2Proof.Machine
end

