-- ==== Sys2Proof/Machine/Functions.lean ====
section
/-! DEFINITION. The functions of the vector engine: exact quotients, square roots, the EXP2 core, and the correctly rounded
functions (R162 to R165). -/
namespace Sys2Proof.Machine

/-! Quotients and roots.  A quotient or root that no binary fraction equals is kept to 256 bits with a last bit that says so: every
rounding, comparison and binade of it is that of the exact number. -/

/-- n / d × 2^e for positive n and d, to 256 bits and a sticky bit. -/
def quotFp (neg : Bool) (n d : Nat) (e : Int) : Fp :=
  let k := 256 + Nat.log2 d
  let v := n * 2 ^ k
  .fin neg (2 * (v / d) + (v % d != 0).toNat) (e - k - 1)

/-- a / b (R162). -/
def Fp.div : Fp → Fp → Fp
  | .nan, _ => .nan
  | _, .nan => .nan
  | .inf _, .inf _ => .nan
  | .inf s, .fin t _ _ => .inf (s != t)
  | .fin s _ _, .inf t => .fin (s != t) 0 0
  | .fin s m e, .fin t n f =>
    if n = 0 then (if m = 0 then .nan else .inf (s != t))
    else if m = 0 then .fin (s != t) 0 0 else quotFp (s != t) m n (e - f)

/-- The square root of a positive m × 2^e, to 128 bits and a sticky bit. -/
def sqrtFp (m : Nat) (e : Int) : Fp :=
  let odd := (e % 2).toNat
  let v := m * 2 ^ (odd + 256)
  let r := Nat.sqrt v
  .fin false (2 * r + (r * r != v).toNat) ((e - odd - 256) / 2 - 1)

/-- The reciprocal square root of a positive m × 2^e, to 100 bits or more and a sticky bit. -/
def rsqrtFp (m : Nat) (e : Int) : Fp :=
  let odd := (e % 2).toNat
  let k := 128 + Nat.log2 m
  let r := Nat.sqrt (2 ^ (2 * k) / (m * 2 ^ odd))
  .fin false (2 * r + (r * r * (m * 2 ^ odd) != 2 ^ (2 * k)).toNat) (-(k : Int) - (e - odd) / 2 - 1)

/-- The FP32 value nearest to an exact one. -/
def round32 (x : Fp) : Fp := f32 (rne32 x)

/-! The EXP2 core. -/

/-- An integer over 2^n rounded to the nearest integer, ties to even. -/
def roundInt (v : Int) (n : Nat) : Int :=
  let q := v / (2 ^ n : Nat)
  let r := (v % (2 ^ n : Nat)).toNat
  if 2 * r > 2 ^ n || (2 * r = 2 ^ n && q % 2 = 1) then q + 1 else q

/-- The coefficients c_8 … c_0 of R164 in units of 2^-40. -/
def exp2Coeffs : List Int :=
  [1453058, 16770558, 169363608, 1466040222, 10575244791, 61027412866, 264131837702, 762123384786, 1099511627776]

/-- The EXP2 core of an exact value (R164). -/
def exp2Core : Fp → Fp
  | .nan => .nan
  | .inf s => if s then fpZero else .inf false
  | .fin s m e =>
    let y : Fp := .fin s m e
    let e0 := min e (-40)
    let k := (-e0).toNat
    let v := y.at_ e0
    if v ≥ 128 * (2 ^ k : Nat) then .inf false
    else if v < -151 * (2 ^ k : Nat) then fpZero
    else
      let n := (2 * v + (2 ^ k : Nat)) / (2 ^ (k + 1) : Nat)
      let f := roundInt (v - n * (2 ^ k : Nat)) (k - 40)
      let p := exp2Coeffs.tail.foldl (fun p c => roundInt (p * f + c * 2 ^ 40) 40) (exp2Coeffs.headD 0)
      round32 (fpInt p (n - 40))

/-- log2(e) to the nearest multiple of 2^-62 (R163). -/
def cLog2e : Fp := .fin false 6653256548922161246 (-62)

/-! Correctly rounded functions: an interval around the value at rising precision, until both ends round alike. -/

/-- An interval that holds a value: sign, least and greatest magnitude, times a power of two. -/
structure Enclosure where
  neg : Bool
  lo : Nat
  hi : Nat
  exp : Int
deriving DecidableEq, Repr

/-- How far a fixed-point result may be off, in units of its last place. -/
def slack : Int := 2 ^ 48

/-- Round a value to FP32 from its enclosures at several precisions; the last one rounds its lower end (log 29). -/
def roundReal (f : Nat → Enclosure) : List Nat → Fp
  | [] => .nan
  | [w] => let x := f w; round32 (.fin x.neg x.lo x.exp)
  | w :: ws =>
    let x := f w
    let a := rne32 (.fin x.neg x.lo x.exp)
    if a = rne32 (.fin x.neg x.hi x.exp) then f32 a else roundReal f ws

/-- The precisions tried. -/
def precisions : List Nat := [320, 640, 1280, 2560]

/-- The enclosure of a fixed-point approximation in units of 2^-w. -/
def encloseInt (v : Int) (w : Nat) : Enclosure :=
  ⟨v < 0, (max 0 ((v.natAbs : Int) - slack)).toNat, (v.natAbs + slack).toNat, -(w : Int)⟩

/-- A value in units of 2^-w, rounded down. -/
def fixAt (x : Fp) (w : Nat) : Int :=
  match x with
  | .fin s m e =>
    let q : Int := if e + w ≥ 0 then ((m * 2 ^ (e + w).toNat : Nat) : Int) else ((m / 2 ^ (-(e + w)).toNat : Nat) : Int)
    if s then -q else q
  | _ => 0

/-- Σ over odd powers x^(2k+1) / (2k+1) with alternating or equal signs, of x = 1 / n or x in units of 2^-w. -/
def atanSeries (alt : Bool) (w : Nat) (x : Int) : Int :=
  let x2 := x * x / (2 ^ w : Nat)
  ((List.range w).foldl (fun (acc : Int × Int) (k : Nat) =>
    let t := acc.1 / (2 * (k : Int) + 1)
    (acc.1 * x2 / (2 ^ w : Nat), acc.2 + if alt && k % 2 = 1 then -t else t)) (x, 0)).2

/-- π in units of 2^-w. -/
def piFix (w : Nat) : Int :=
  16 * atanSeries true w ((2 ^ w : Nat) / 5) - 4 * atanSeries true w ((2 ^ w : Nat) / 239)

/-- ln 2 in units of 2^-w: 2 artanh(1/3). -/
def ln2Fix (w : Nat) : Int := 2 * atanSeries false w ((2 ^ w : Nat) / 3)

/-- ln m for 1 ≤ m < 2 in units of 2^-w. -/
def lnFix (w : Nat) (m : Int) : Int :=
  let one : Int := (2 ^ w : Nat)
  2 * atanSeries false w ((m - one) * one / (m + one))

/-- Σ r^k / k! over k, r in units of 2^-w. -/
def expSeries (w : Nat) (r : Int) : Int :=
  ((List.range w).foldl (fun (acc : Int × Int) (k : Nat) =>
    (acc.1 * r / (2 ^ w : Nat) / ((k : Int) + 1), acc.2 + acc.1)) (((2 ^ w : Nat) : Int), 0)).2

/-- e^-t for t ≥ 0, both in units of 2^-w; 0 where it is far below a unit. -/
def expNegFix (w : Nat) (t : Int) : Int :=
  if t > w * (2 ^ w : Nat) then 0 else
    let l := ln2Fix w
    expSeries w (-(t % l)) / (2 ^ (t / l).toNat : Nat)

/-- The sine and cosine of x, all in units of 2^-w. -/
def sinCosFix (w : Nat) (x : Int) : Int × Int :=
  let h := piFix w / 2
  let q := (2 * x + h) / (2 * h)
  let r := x - q * h
  let r2 := r * r / (2 ^ w : Nat)
  let series := fun (t0 : Int) (c : Nat) => ((List.range w).foldl (fun (acc : Int × Int) (k : Nat) =>
    (-(acc.1 * r2 / (2 ^ w : Nat)) / (((2 * k + c + 1) * (2 * k + c + 2) : Nat) : Int), acc.2 + acc.1)) (t0, (0 : Int))).2
  let s := series r 1
  let c := series ((2 ^ w : Nat) : Int) 0
  match (q % 4).toNat with
  | 0 => (s, c) | 1 => (c, -s) | 2 => (-s, -c) | _ => (-c, s)

/-- log2 of a positive value other than a power of two. -/
def log2Enc (m : Nat) (e : Int) (w : Nat) : Enclosure :=
  let l := Nat.log2 m
  let f := lnFix w (fixAt (.fin false m (-(l : Int))) w)
  encloseInt ((e + l) * (2 ^ w : Nat) + f * (2 ^ w : Nat) / ln2Fix w) w

/-- tanh of a positive value. -/
def tanhEnc (x : Fp) (w : Nat) : Enclosure :=
  let e := expNegFix w (2 * fixAt x w)
  let one : Int := (2 ^ w : Nat)
  let v := encloseInt ((one - e) * one / (one + e)) w
  { v with hi := min v.hi (2 ^ w) }

/-- 1 / (1 + e^-t), t and the result in units of 2^-w. -/
def sigmoidFix (w : Nat) (t : Int) : Int :=
  let e := expNegFix w t.natAbs
  let one : Int := (2 ^ w : Nat)
  if t ≥ 0 then one * one / (one + e) else e * one / (one + e)

/-- A sigmoid's enclosure, within 0 and 1. -/
def sigmoidEnc (w : Nat) (t : Int) : Enclosure :=
  let v := encloseInt (sigmoidFix w t) w
  { v with hi := min v.hi (2 ^ w) }

/-- An enclosure times a value. -/
def Enclosure.times (x : Enclosure) : Fp → Enclosure
  | .fin s m e => ⟨x.neg != s, x.lo * m, x.hi * m, x.exp + e⟩
  | _ => x

/-- 2 √(2/π) (a + 0.044715 a³) in units of 2^-w: GELU_TANH is a times the sigmoid of it. -/
def geluArg (a : Fp) (w : Nat) : Int :=
  let c : Int := Nat.sqrt (2 ^ (3 * w + 1) / (piFix w).toNat)
  let q : Fp := (fpInt 1000000 0).add ((fpInt 44715 0).mul (a.mul a))
  match a.mul q with
  | .fin s m e =>
    let n := 2 * c * m
    let v := if e ≥ 0 then n * (2 ^ e.toNat : Nat) / 1000000 else n / ((2 ^ (-e).toNat * 1000000 : Nat) : Int)
    if s then -v else v
  | _ => 0

/-- The sine of a value. -/
def sinEnc (x : Fp) (w : Nat) : Enclosure := encloseInt (sinCosFix w (fixAt x w)).1 w

/-- The cosine of a value. -/
def cosEnc (x : Fp) (w : Nat) : Enclosure := encloseInt (sinCosFix w (fixAt x w)).2 w

/-- RNE_fp32(sin x) of a finite value other than zero, and RNE_fp32(cos x) (R163, R166). -/
def sin32 (x : Fp) : Fp := if x.isZero then x else roundReal (sinEnc x) precisions
def cos32 (x : Fp) : Fp := if x.isZero then fpOne else roundReal (cosEnc x) precisions

/-- m + ln s for a finite m and s ≥ 1 (R174). -/
def lseEnc (m : Fp) (sm : Nat) (se : Int) (w : Nat) : Enclosure :=
  let l := Nat.log2 sm
  let ln := lnFix w (fixAt (.fin false sm (-(l : Int))) w) + (se + l) * ln2Fix w
  encloseInt (fixAt m w + ln) w

/-- RNE_fp32(m + ln s). -/
def lse32 (m s : Fp) : Fp :=
  match s with
  | .fin _ sm se => if s.sub fpOne |>.isZero then round32 (m.add fpZero) else roundReal (lseEnc m sm se) precisions
  | _ => .nan

/-! The table *Functions* (R163). -/

/-- Functions of CLASS 1 (R163). -/
inductive Fn where
  | exp2 | exp | log2 | recip | rsqrt | sqrt | tanh | sigmoid | silu | gelu | sin | cos
deriving DecidableEq, Repr

/-- Whether an input that is not NaN lies outside the domain, and outside the argument range (R163). -/
def Fn.outDomain : Fn → Fp → Bool
  | .log2, x | .rsqrt, x | .sqrt, x => x.sign && !x.isZero
  | _, _ => false

def Fn.outRange : Fn → Fp → Bool
  | .sin, x | .cos, x => (Fp.fin false 1 24).lt x.abs
  | _, _ => false

/-- f of an infinity (R163). -/
def Fn.atInf : Fn → Bool → Fp
  | .exp2, s | .exp, s => if s then fpZero else .inf false
  | .sigmoid, s => if s then fpZero else fpOne
  | .log2, s | .sqrt, s => if s then .nan else .inf false
  | .recip, s => .fin s 0 0
  | .rsqrt, s => if s then .nan else fpZero
  | .tanh, s => .fin s 1 0
  | .silu, s | .gelu, s => if s then .fin true 0 0 else .inf false
  | .sin, _ | .cos, _ => .nan

/-- f of a zero (R163). -/
def Fn.atZero : Fn → Bool → Fp
  | .exp2, _ | .exp, _ | .cos, _ => fpOne
  | .log2, _ => .inf true
  | .recip, s | .rsqrt, s => .inf s
  | .sigmoid, _ => .fin false 1 (-1)
  | .sqrt, s | .tanh, s | .silu, s | .gelu, s | .sin, s => .fin s 0 0

/-- f of a finite value other than zero, within the domain and the range (R163). -/
def Fn.atFin (f : Fn) (s : Bool) (m : Nat) (e : Int) : Fp :=
  let a : Fp := .fin s m e
  match f with
  | .exp2 => exp2Core a
  | .exp => exp2Core (a.mul cLog2e)
  | .log2 =>
    if 2 ^ Nat.log2 m = m then round32 (fpInt (e + Nat.log2 m) 0) else roundReal (log2Enc m e) precisions
  | .recip => round32 (fpOne.div a)
  | .rsqrt => round32 (rsqrtFp m e)
  | .sqrt => round32 (sqrtFp m e)
  | .tanh => (roundReal (tanhEnc a.abs) precisions).mul (.fin s 1 0)
  | .sigmoid => roundReal (fun w => sigmoidEnc w (fixAt a w)) precisions
  | .silu => roundReal (fun w => (sigmoidEnc w (fixAt a w)).times a) precisions
  | .gelu => roundReal (fun w => (sigmoidEnc w (geluArg a w)).times a) precisions
  | .sin => sin32 a
  | .cos => cos32 a

/-- What a function gives: its FP32 result, and whether it counts DOMAIN or ARG_RANGE. -/
structure FnOut where
  val : Fp
  domain : Bool
  range : Bool
deriving DecidableEq, Repr

/-- A function of CLASS 1 at an exact input (R163). -/
def Fn.run (f : Fn) (x : Fp) : FnOut :=
  if x.isNan then ⟨.nan, false, false⟩
  else if f.outDomain x then ⟨.nan, true, false⟩
  else if f.outRange x then ⟨.nan, false, true⟩
  else
    match x with
    | .nan => ⟨.nan, false, false⟩
    | .inf s => ⟨f.atInf s, false, false⟩
    | .fin s m e => ⟨if m = 0 then f.atZero s else f.atFin s m e, false, false⟩

end Sys2Proof.Machine
end

