-- ==== Sys2Proof/Machine/Mill.lean ====
section
/-! DEFINITION. The mill of a tile: compressed tiles, pruning to 2:4, row statistics (R126 to R152). -/
namespace Sys2Proof.Machine

/-! Descriptor fields (R150). -/
def mFmt (d : BitVec 512) : Nat := dBits d 7 4
def mScaling (d : BitVec 512) : Nat := dBits d 9 8
def mUseL2 (d : BitVec 512) : Bool := dBit d 10
def mIn (d : BitVec 512) : Nat := dBits d 37 16
def mOut (d : BitVec 512) : Nat := dBits d 59 38
def mAux (d : BitVec 512) : Nat := dBits d 85 64
def mStride (d : BitVec 512) : Nat := dBits d 115 96
def mRows (d : BitVec 512) : Nat := if dBits d 133 128 = 0 then 64 else dBits d 133 128
def mCols (d : BitVec 512) : Nat := if dBits d 139 134 = 0 then 64 else dBits d 139 134
def mCeil (d : BitVec 512) : Nat := if dBits d 152 140 = 0 then 4096 else dBits d 152 140
def mL2Addr (d : BitVec 512) : Nat := dBits d 181 160
def mL2Bit (d : BitVec 512) : Nat := dBits d 193 182
def mHyd (d : BitVec 512) : Nat := dBits d 205 194
def mRowCeil (d : BitVec 512) : Nat := if dBits d 249 240 = 0 then 1024 else dBits d 249 240
def mDense (d : BitVec 512) : Nat := dBits d 270 256
def mRowBase (d : BitVec 512) : Nat := dBits d 319 288
def mEntCeil (d : BitVec 512) : Nat := dBits d 332 320

/-- Bits [hi:lo] as a mask. -/
def bitMask (hi lo : Nat) : Nat := (2 ^ (hi + 1 - lo) - 1) * 2 ^ lo

/-- Operations of the table *Mill instructions* (R149). -/
inductive MillOp where
  | decode | decodeCompact | scan | encode | encodeCoo | encode24 | encodeTp24
deriving DecidableEq, Repr

/-- OP codes (R149). -/
def MillOp.code : MillOp → Nat
  | .decode => 0 | .decodeCompact => 1 | .scan => 2 | .encode => 3 | .encodeCoo => 4 | .encode24 => 5 | .encodeTp24 => 6

/-- Whether an operation reads a compressed tile. -/
def MillOp.decodes (o : MillOp) : Bool := o.code ≤ 2

/-- Whether an operation prunes to 2:4. -/
def MillOp.prunes (o : MillOp) : Bool := o.code ≥ 5

/-- Bits of a descriptor that an operation leaves 0 (R150). -/
def millReserved (o : MillOp) (useL2 : Bool) : Nat :=
  bitMask 15 11 + bitMask 63 60 + bitMask 95 86 + bitMask 127 116 + bitMask 159 153 + bitMask 239 206 + bitMask 255 250 +
  bitMask 287 271 + bitMask 511 333 +
  (if o.prunes then bitMask 10 10 + bitMask 152 140 else bitMask 205 194) +
  (if o.prunes || !useL2 then bitMask 181 160 + bitMask 193 182 else 0) +
  (if o = .encodeCoo then bitMask 37 16 else bitMask 332 320) +
  (if o = .encodeCoo || o = .scan then bitMask 115 96 else 0) +
  (if o = .decode || o = .encode then bitMask 85 64 else 0) +
  (if o = .decodeCompact then 0 else bitMask 249 240 + bitMask 270 256 + bitMask 319 288)

/-! Compressed tiles. -/

/-- Dense size of a tile: 512 × w bytes (R129). -/
def denseSize (f : Nat) : Nat := 512 * fmtWidth f

/-- Size of a compressed tile with `nb` blocks and `n` values (R129). -/
def compressedSize (f nb n : Nat) : Nat := 16 * ceilDiv (24 + 8 * nb + packedBytes f n) 16

/-- Reserved stored size S (R134). -/
def reservedSize (f k : Nat) : Nat := min (16 + denseSize f) (compressedSize f (min 64 k) k)

/-- Row-major index of bit `k` of the level-0 word of block `b` (R126). -/
def tileIndex (b k : Nat) : Nat := 64 * (8 * (b / 8) + k / 8) + 8 * (b % 8) + k % 8

/-- What a decoder finds at a tile address (R128, R131 to R135): codes by row-major index, and what it counts. -/
structure TileRead where
  codes : Array Nat
  edge : Nat
  exceeded : Bool
  mismatch : Bool
  escape : Bool
  nnz : Nat
  nb : Nat
  size : Nat
  /-- bytes read, which follow SIZE (R148); and how far the decoder came, by the bitmaps -/
  bytes : Nat
  reach : Nat
deriving DecidableEq, Repr

/-- A tile of zeros. -/
def zeroTile : Array Nat := Array.replicate 4096 0

/-- A decoder at work: codes written, how many, edge bits dropped. -/
structure Decoding where
  codes : Array Nat
  kept : Nat
  edge : Nat
deriving DecidableEq, Repr

/-- One value in storage order: kept within the extent, dropped and counted beyond it; nothing once the ceiling's values are
written (R132, R135). A value that is zero is written as the code with all bits clear (R127). -/
def Decoding.put (f rows cols ceil_ : Nat) (x : Decoding) (at_ code : Nat) : Decoding :=
  if x.kept ≥ ceil_ then x
  else if at_ / 64 ≥ rows || at_ % 64 ≥ cols then { x with edge := x.edge + 1 }
  else { x with codes := x.codes.setIfInBounds at_ (if codeZero f code then 0 else code), kept := x.kept + 1 }

/-- Nothing decoded yet. -/
def Decoding.start : Decoding := ⟨zeroTile, 0, 0⟩

/-- Row-major indices of the set level-0 bits in storage order (R128). -/
def storageOrder (words : List (Nat × Nat)) : List Nat :=
  words.flatMap fun bw => ((List.range 64).filter fun k => bitOf bw.2 k).map fun k => tileIndex bw.1 k

/-- Decode the bytes at a tile address under a descriptor (R128, R131 to R135; log 24). -/
def readTile (d : BitVec 512) (bytes : List Byte) : TileRead :=
  let f := mFmt d
  let v := leNat bytes
  let cap := reservedSize f (mCeil d)
  let nnz := bitsOf v 12 0
  let nb := bitsOf v 39 32
  let size := bitsOf v 95 64
  let esc := bitOf v 24
  let fmtBad := bitsOf v 23 16 ≠ f + 16 * mScaling d
  if esc then
    let whole := 16 + denseSize f ≤ cap
    let fit := (List.range 4096).filter fun i => 16 + ceilDiv (fmtWidth f * (i + 1)) 8 ≤ cap
    let body := v / 2 ^ 128
    let all := fit.map fun i => (i, elemAt (fmtWidth f) body i)
    let nz := all.filter fun x => !codeZero f x.2
    let x := nz.foldl (fun x c => x.put f (mRows d) (mCols d) (mCeil d) c.1 c.2) Decoding.start
    let blocks := (nz.map fun c => c.1 / 512 * 8 + c.1 % 64 / 8).eraseDups.length
    { codes := x.codes, edge := x.edge, exceeded := nz.length > mCeil d || !whole,
      mismatch := fmtBad || size ≠ 16 + denseSize f || (whole && (nnz ≠ nz.length || nb ≠ blocks)),
      escape := true, nnz := nnz, nb := nb, size := size, bytes := min cap size, reach := min cap (16 + denseSize f) }
  else
    let l1 := bitsOf v 191 128
    let bs := bitList 64 l1
    let whole := 24 + 8 * bs.length ≤ cap
    let words := bs.zipIdx.map fun b => (b.1, if 24 + 8 * (b.2 + 1) ≤ cap then elemAt 64 (v / 2 ^ 192) b.2 else 0)
    let order := storageOrder words
    let body := v / 2 ^ (192 + 64 * bs.length)
    let fits := fun i => 24 + 8 * bs.length + ceilDiv (fmtWidth f * (i + 1)) 8 ≤ cap
    let x := (order.zipIdx.filter fun c => fits c.2).foldl
      (fun x c => x.put f (mRows d) (mCols d) (mCeil d) c.1 (elemAt (fmtWidth f) body c.2)) Decoding.start
    let n := if whole then order.length else nnz
    { codes := x.codes, edge := x.edge,
      exceeded := order.length > mCeil d || !whole || (order.length > 0 && !fits (order.length - 1)),
      mismatch := fmtBad || nb ≠ bs.length || nnz ≠ n || size ≠ compressedSize f bs.length n,
      escape := false, nnz := nnz, nb := nb, size := size, bytes := min cap size, reach := min cap (compressedSize f bs.length n) }

/-- A tile as the encoder forms it (R128, R129): bytes, header counts, whether escaped. -/
structure TileEnc where
  bytes : List Byte
  nnz : Nat
  nb : Nat
  escape : Bool
deriving DecidableEq, Repr

/-- Encode 4,096 codes (R128, R129). -/
def encodeTile (f sc : Nat) (codes : Array Nat) : TileEnc :=
  let at_ := fun i => codes.getD i 0
  let words := (List.range 64).map fun b =>
    (b, (List.range 64).filter fun k => !codeZero f (at_ (tileIndex b k)))
  let full := words.filter fun w => !w.2.isEmpty
  let nb := full.length
  let vals := full.flatMap fun w => w.2.map fun k => at_ (tileIndex w.1 k)
  let nnz := vals.length
  let esc : Bool := compressedSize f nb nnz ≥ 16 + denseSize f
  let size := if esc then 16 + denseSize f else compressedSize f nb nnz
  let head := leBytes 2 nnz ++ leBytes 1 (f + 16 * sc) ++ leBytes 1 esc.toNat ++ leBytes 1 nb ++ leBytes 3 0 ++
    leBytes 4 size ++ leBytes 4 0
  let bits := fun (l : List Nat) => (l.map fun k => 2 ^ k).sum
  let body := if esc then pack f (codes.toList.map (copiedCode f))
    else leBytes 8 (bits (full.map Prod.fst)) ++ (full.flatMap fun w => leBytes 8 (bits w.2)) ++ pack f vals
  ⟨head ++ body ++ List.replicate (size - 16 - body.length) 0, nnz, nb, esc⟩

/-! Ranges. -/

/-- Dense rows of a tile at an address (R131, R137). -/
def denseRows (d : BitVec 512) (a : Nat) : List Range := rowRanges a (mStride d) 64 (packedBytes (mFmt d) 64)

/-- The byte that holds a tile's level-2 bit. -/
def l2Range (d : BitVec 512) : Range := (mL2Addr d + mL2Bit d / 8, 1)

/-- Whether the level-2 map says that the tile is all zero (R130). -/
def State.l2Clear (s : State) (t : Fin 128) (d : BitVec 512) : Bool :=
  mUseL2 d && !bitOf (leNat (s.spadRead t (l2Range d))) (mL2Bit d % 8)

/-- The slot bytes that a decode may read. -/
def slotRange (d : BitVec 512) : Range := (mIn d, reservedSize (mFmt d) (mCeil d))

/-- L of R145, and its floor. -/
def rowFloor (d : BitVec 512) : Nat := ceilDiv (mDense d) 16
def rowLimit (d : BitVec 512) : Nat := max (mRowCeil d) (rowFloor d)

/-- Bytes between metadata rows, which the spec does not give: a multiple of 16, as META_STRIDE is, with which 64 rows fit in a
scratchpad (R118, R140; log 25). -/
def metaStride : Nat := 16 * (Config.millMetaStride.toNat + 1)

/-- Metadata of a 2:4 result: 64 rows of 8 bytes (R111, R140). -/
def metaRows (d : BitVec 512) : List Range := rowRanges (mAux d) metaStride 64 8

/-- The ranges that an instruction may reach, for the limit of the scratchpad (R149). -/
def millReach (o : MillOp) (d : BitVec 512) : List Range :=
  (if mUseL2 d then [l2Range d] else []) ++
  match o with
  | .decode => slotRange d :: denseRows d (mOut d)
  | .decodeCompact => slotRange d :: (mAux d, 4) :: rowRanges (mOut d) (mStride d) (rowLimit d) (packedBytes (mFmt d) 64)
  | .scan => [slotRange d, (mAux d, 256), (mOut d, 8)]
  | .encode => (mOut d, reservedSize (mFmt d) (mCeil d)) :: denseRows d (mIn d)
  | .encodeCoo => [(mOut d, reservedSize (mFmt d) (mCeil d)), (mAux d, 8 * mEntCeil d)]
  | .encode24 | .encodeTp24 =>
    denseRows d (mIn d) ++ rowRanges (mOut d) (mStride d) 64 (packedBytes (mFmt d) 32) ++ metaRows d

/-- Alignment of IN_ADDR and OUT_ADDR (R150): 16 for a compressed tile, 64 for a dense one; SCAN's presence word has no rule of its
own (log 26). -/
def millAligned (o : MillOp) (d : BitVec 512) : Bool :=
  match o with
  | .decode | .decodeCompact => mIn d % 16 = 0 && mOut d % 64 = 0
  | .scan => mIn d % 16 = 0
  | .encode => mIn d % 64 = 0 && mOut d % 16 = 0
  | .encodeCoo => mOut d % 16 = 0
  | .encode24 | .encodeTp24 => mIn d % 64 = 0 && mOut d % 64 = 0

/-- Grounds for MALFORMED of a mill instruction (R149, R150, R349); VCNT, of which R149 says nothing, is one too (DESIGN CHOICE,
log 84). -/
def millBad (o : MillOp) (feat : Nat) (timed : Bool) (w : Issue) (d : BitVec 512) : Bool :=
  dBits d 3 0 ≠ 4 || d.toNat &&& millReserved o (mUseL2 d) ≠ 0 || mFmt d > 12 || !scalingOk (mScaling d) (mFmt d) ||
    w.epoch || w.vcnt || w.arg1 ≠ 0 || w.arg2 ≠ 0 || w.uspec.toNat > (o = .scan : Bool).toNat ||
    (if o = .decodeCompact then w.arg0.toNat < 0xFFF0 || mDense d = 0 || mDense d > 16384 else w.arg0 ≠ 0) ||
    (o = .encodeCoo && (mEntCeil d = 0 || mEntCeil d > 4096)) || (o = .encodeTp24 && !bitOf feat 3) ||
    (o = .decodeCompact && timed && !bitOf feat 4) ||
    dBits d 152 140 > 4095 || !millAligned o d || mAux d % 16 ≠ 0 || mStride d % 64 ≠ 0 || mL2Addr d % 64 ≠ 0 ||
    (millReach o d).any fun r => !inSpad r

/-! Records. -/

/-- The mill page of a tile. -/
def millPage (i : TileIssue) : Page := .tmil i.tile

/-- CEILING_EXCEEDED: counted, the first of a step recorded, and in the timed regime the step is invalid (R135, R136, R146). -/
def State.ceilingExceeded (s : State) (i : TileIssue) (o : MillOp) (cnt : Fld) : State :=
  let p := millPage i
  let s1 := s.tally p cnt TMIL.EV_CEILING_EXCEEDED
  let s2 := if s1.flag p TMIL.CEIL_FIRST_VALID then s1 else
    s1.setFld p TMIL.CEIL_FIRST (i.word.desc.toNat + o.code * 2 ^ 12 + 2 ^ 15 + i.word.issue.toNat * 2 ^ 32)
  if s2.sch.regime = .timed then s2.invalid (isSecond i.stream) .ceiling else s2

/-- What STATUS and LAST_TILE show of a tile read or written (R152). -/
def State.noteTile (s : State) (i : TileIssue) (esc : Bool) (nnz nb size : Nat) : State :=
  s.setFlds (millPage i) [(TMIL.STATUS_LAST_ESCAPE, esc.toNat), (TMIL.LAST_TILE, nnz % 2 ^ 13 + nb % 2 ^ 7 * 2 ^ 16 + size % 2 ^ 32 * 2 ^ 32)]

/-- STATUS.LAST_OP, and a completed instruction's count. -/
def State.noteOp (s : State) (i : TileIssue) (o : MillOp) : State :=
  (s.setFld (millPage i) TMIL.STATUS_LAST_OP o.code).count (millPage i)
    (if o.decodes then TMIL.DECODE_CNT else TMIL.ENCODE_CNT)

/-- What a decode of a tile counts (R132, R133, R135, R152). -/
def State.noteRead (s : State) (i : TileIssue) (o : MillOp) (x : TileRead) : State :=
  let p := millPage i
  let s1 := (s.noteTile i x.escape x.nnz x.nb x.size).countN p TMIL.BYTES_READ_CNT x.bytes
  let s2 := s1.tallyN p TMIL.EDGE_BITS_CNT x.edge TMIL.EV_EDGE_BITS_DROPPED
  let s3 := if x.mismatch then s2.tally p TMIL.HDR_MISMATCH_CNT TMIL.EV_HDR_MISMATCH else s2
  if x.exceeded then s3.ceilingExceeded i o TMIL.CEIL_NNZ_CNT else s3

/-- The tile that a decoding instruction sees: none when level 2 says that it is all zero (R130). -/
def State.tileAt (s : State) (t : Fin 128) (d : BitVec 512) : Option TileRead :=
  if s.l2Clear t d then none else some (readTile d (s.spadRead t (slotRange d)))

/-- Codes of a tile that a decoding instruction sees. -/
def tileCodes (x : Option TileRead) : Array Nat := (x.map TileRead.codes).getD zeroTile

/-- Row `r` of a tile's codes, packed. -/
def packRow (d : BitVec 512) (codes : Array Nat) (r : Nat) : List Byte :=
  pack (mFmt d) ((List.range 64).map fun c => codes.getD (64 * r + c) 0)

/-- Count a decoded tile, if the slot was read. -/
def State.noteSeen (s : State) (i : TileIssue) (o : MillOp) (x : Option TileRead) : State :=
  match x with
  | some x => s.noteRead i o x
  | none => s

/-- The plan of a mill instruction (R66, R134). -/
def millPlan (o : MillOp) (i : TileIssue) (d : BitVec 512) (reads writes : List Range) (bytes : Nat) (s : State) : Plan :=
  let per := s.vclk i.tile
  let occ := ceilDiv bytes 256
  { bad := millBad o (s.fld .glb GLB.FEAT_ACTIVE) (s.sch.regime = .timed) i.word d,
    decodes := dBits d 3 0 = 4 && mFmt d ≤ 12 && writes.all inSpad, reads := reads ++ (if mUseL2 d then [l2Range d] else []),
    writes := writes, regsIn := [], regsOut := [], waitTill := 0, hbm := [], occ := occ * per,
    result := (occ + (if o.decodes then 10 else 12)) * per, rank := .mill }

/-- Bytes that fix a decode's occupancy: S when timed, the bytes read when untimed (R134). -/
def State.decodeBytes (s : State) (d : BitVec 512) (x : Option TileRead) : Nat :=
  if s.sch.regime = .timed then reservedSize (mFmt d) (mCeil d) else (x.map TileRead.bytes).getD 0

/-- The slot bytes that a decode does read. -/
def slotReads (d : BitVec 512) (x : Option TileRead) : List Range :=
  match x with
  | some x => [(mIn d, max x.bytes x.reach)]
  | none => []

/-- A mill instruction whose destinations are scratchpad ranges. -/
def millJob (o : MillOp) (i : TileIssue) (p : Plan) (run : Bool → State → State) : Job :=
  ⟨.mill, 0, o.code, p, Work.plain (fun s => s.markRanges i.tile.val p.writes) fun _ poison s => run poison (s.noteOp i o)⟩

/-! Decoding. -/

/-- DECODE as the mill issues it. -/
def decodeJob (i : TileIssue) (s : State) : Job :=
  let d := s.descriptor i.tile.val i.word.desc
  let x := s.tileAt i.tile d
  let p := millPlan .decode i d (slotReads d x) (denseRows d (mOut d)) (s.decodeBytes d x) s
  millJob .decode i p (fun poison s =>
    finishOut i poison ((List.range 64).map fun r => (mOut d + r * mStride d, packRow d (tileCodes x) r))
      (s.noteSeen i .decode x))

/-- DECODE (R130 to R135). -/
def execDecode (i : TileIssue) (s : State) : Host.Outcome State Fault Refusal := .next (issueJob i (decodeJob i s) s)

/-- The range of the list entries that DECODE_COMPACT reads, for a list of `n` (R145). -/
def listRange (d : BitVec 512) (n : Nat) : Range := (mAux d, 4 + 4 * min n (rowLimit d))

/-- The list that DECODE_COMPACT reads: its length, and its first L entries as far as the scratchpad goes (R144, R145). -/
def State.rowList (s : State) (t : Fin 128) (d : BitVec 512) : Nat × List Nat :=
  let n := (sgn 32 (leNat (s.spadRead t (mAux d, 4)))).toNat
  let m := min (min n (rowLimit d)) ((spadSize - (mAux d + 4)) / 4)
  let v := leNat (s.spadRead t (mAux d + 4, 4 * m))
  (n, (List.range m).map fun p => elemAt 32 v p)

/-- The rows that DECODE_COMPACT writes: list position and row of the tile (R145). -/
def compactRows (d : BitVec 512) (l : List Nat) : List (Nat × Nat) :=
  (l.zipIdx.filter fun q => mRowBase d ≤ q.1 && q.1 < mRowBase d + mRows d).map fun q => (q.2, q.1 - mRowBase d)

/-- Set the count slot that ARG0 names (R145). -/
def State.setSlot (s : State) (i : TileIssue) (d : BitVec 512) (n : Nat) : State :=
  s.setFld (millPage i) (TMIL.SLOT (i.word.arg0.toNat - 0xFFF0))
    (min n (rowLimit d) + min (rowFloor d) (rowLimit d) * 2 ^ 16 + 2 ^ 31)

/-- DECODE_COMPACT as the mill issues it. -/
def decodeCompactJob (i : TileIssue) (s : State) : Job :=
  let d := s.descriptor i.tile.val i.word.desc
  let x := s.tileAt i.tile d
  let l := s.rowList i.tile d
  let rows := compactRows d l.2
  let len := packedBytes (mFmt d) 64
  let p := millPlan .decodeCompact i d (slotReads d x ++ [(mAux d, 4 + 4 * l.2.length)])
    (rows.map fun q => (mOut d + q.1 * mStride d, len)) (s.decodeBytes d x) s
  millJob .decodeCompact i { p with bad := p.bad || !inSpad (listRange d l.1) } (fun poison s =>
    let s1 := (s.noteSeen i .decodeCompact x).setSlot i d l.1
    let s2 := if l.1 > rowLimit d then s1.ceilingExceeded i .decodeCompact TMIL.CEIL_ROW_CNT else s1
    finishOut i poison (rows.map fun q => (mOut d + q.1 * mStride d, packRow d (tileCodes x) q.2)) s2)

/-- DECODE_COMPACT (R145, R146). -/
def execDecodeCompact (i : TileIssue) (s : State) : Host.Outcome State Fault Refusal := .next (issueJob i (decodeCompactJob i s) s)

/-- In-extent non-zero codes of each row (R143). -/
def rowCounts (d : BitVec 512) (codes : Array Nat) : List Nat :=
  (List.range 64).map fun r => (List.range 64).countP fun c => !codeZero (mFmt d) (codes.getD (64 * r + c) 0)

/-- SCAN as the mill issues it. -/
def scanJob (i : TileIssue) (s : State) : Job :=
  let d := s.descriptor i.tile.val i.word.desc
  let x := s.tileAt i.tile d
  let accum := i.word.uspec.getLsbD 0
  let outs := [(mAux d, 256), (mOut d, 8)]
  let old := if accum then outs.map fun r => leNat (s.spadRead i.tile r) else [0, 0]
  let ns := rowCounts d (tileCodes x)
  let sums := ns.zipIdx.map fun n => (n.1 + elemAt 32 (old.getD 0 0) n.2) % 2 ^ 32
  let word := (ns.zipIdx.map fun n => if n.1 = 0 then 0 else 2 ^ n.2).sum ||| old.getD 1 0
  let p := millPlan .scan i d (slotReads d x ++ if accum then outs else []) outs (s.decodeBytes d x) s
  millJob .scan i p (fun poison s =>
    finishOut i poison [(mAux d, leBytes 256 (packNat 32 sums)), (mOut d, leBytes 8 word)] (s.noteSeen i .scan x))

/-- SCAN (R143). -/
def execScan (i : TileIssue) (s : State) : Host.Outcome State Fault Refusal := .next (issueJob i (scanJob i s) s)

/-! Encoding. -/

/-- The codes of a dense tile, zero beyond the extent (R137). -/
def State.denseTile (s : State) (t : Fin 128) (d : BitVec 512) : Array Nat :=
  let rows := (denseRows d (mIn d)).zipIdx.map fun r =>
    (unpack (mFmt d) 64 (s.spadRead t r.1)).zipIdx.map fun c => if r.2 < mRows d && c.2 < mCols d then c.1 else 0
  rows.flatten.toArray

/-- The bytes that an encode stores at OUT_ADDR: at most S (R134, R136). -/
def storedTile (d : BitVec 512) (x : TileEnc) : List Byte := x.bytes.take (reservedSize (mFmt d) (mCeil d))

/-- The level-2 byte after an encode (R130). -/
def State.l2Byte (s : State) (t : Fin 128) (d : BitVec 512) (set : Bool) : List (Nat × List Byte) :=
  if mUseL2 d then
    let b := leNat (s.spadRead t (l2Range d))
    let m := 2 ^ (mL2Bit d % 8)
    [((l2Range d).1, leBytes 1 (if set then b ||| m else b ^^^ (b &&& m)))]
  else []

/-- Ranges of a list of writes. -/
def outRanges (outs : List (Nat × List Byte)) : List Range := outs.map fun o => (o.1, o.2.length)

/-- What an encode of a tile counts (R136, R152). -/
def State.noteWrite (s : State) (i : TileIssue) (o : MillOp) (d : BitVec 512) (x : TileEnc) : State :=
  let s1 := s.noteTile i x.escape x.nnz x.nb x.bytes.length
  let s2 := if x.escape then s1.count (millPage i) TMIL.ESCAPE_CNT else s1
  if x.bytes.length > reservedSize (mFmt d) (mCeil d) then s2.ceilingExceeded i o TMIL.CEIL_NNZ_CNT else s2

/-- ENCODE as the mill issues it. -/
def encodeJob (i : TileIssue) (s : State) : Job :=
  let d := s.descriptor i.tile.val i.word.desc
  let x := encodeTile (mFmt d) (mScaling d) (s.denseTile i.tile d)
  let outs := (mOut d, storedTile d x) :: s.l2Byte i.tile d (x.nnz ≠ 0)
  let p := millPlan .encode i d (denseRows d (mIn d)) (outRanges outs) (denseSize (mFmt d)) s
  millJob .encode i p (fun poison s => finishOut i poison outs (s.noteWrite i .encode d x))

/-- ENCODE (R137). -/
def execEncode (i : TileIssue) (s : State) : Host.Outcome State Fault Refusal := .next (issueJob i (encodeJob i s) s)

/-- A COO list read (R138): codes, positions taken, what was dropped, entries read. -/
structure CooRead where
  codes : Array Nat
  taken : List Nat
  index : Nat
  dups : Nat
  entries : Nat
  ended : Bool
deriving DecidableEq, Repr

/-- One entry of a COO list (R138; log 27). -/
def cooEntry (d : BitVec 512) (x : CooRead) (e : Nat) : CooRead :=
  let r := bitsOf e 15 0
  let c := bitsOf e 31 16
  if x.ended then x
  else
    let y := { x with entries := x.entries + 1 }
    if r = 0xFFFF then { y with ended := true }
    else if r ≥ mRows d || c ≥ mCols d then { y with index := y.index + 1 }
    else if y.taken.contains (64 * r + c) then { y with dups := y.dups + 1 }
    else
      let code := e / 2 ^ 32 % 2 ^ fmtWidth (mFmt d)
      { y with taken := (64 * r + c) :: y.taken,
               codes := if codeZero (mFmt d) code then y.codes else y.codes.setIfInBounds (64 * r + c) code }

/-- The COO list at AUX_ADDR. -/
def State.cooRead (s : State) (t : Fin 128) (d : BitVec 512) : CooRead :=
  let v := leNat (s.spadRead t (mAux d, 8 * mEntCeil d))
  ((List.range (mEntCeil d)).map fun i => elemAt 64 v i).foldl (cooEntry d) ⟨zeroTile, [], 0, 0, 0, false⟩

/-- ENCODE_COO as the mill issues it. -/
def encodeCooJob (i : TileIssue) (s : State) : Job :=
  let d := s.descriptor i.tile.val i.word.desc
  let l := s.cooRead i.tile d
  let x := encodeTile (mFmt d) (mScaling d) l.codes
  let outs := (mOut d, storedTile d x) :: s.l2Byte i.tile d (x.nnz ≠ 0)
  let p := millPlan .encodeCoo i d [(mAux d, 8 * l.entries)] (outRanges outs) (denseSize (mFmt d) + 8 * mEntCeil d) s
  millJob .encodeCoo i p (fun poison s =>
    let s1 := s.tallyN (millPage i) TMIL.INDEX_DROP_CNT l.index TMIL.EV_INDEX_DROPPED
    finishOut i poison outs
      ((s1.tallyN (millPage i) TMIL.DUP_COORD_CNT l.dups TMIL.EV_DUP_COORD).noteWrite i .encodeCoo d x))

/-- ENCODE_COO (R138). -/
def execEncodeCoo (i : TileIssue) (s : State) : Host.Outcome State Fault Refusal := .next (issueJob i (encodeCooJob i s) s)

/-! Pruning. -/

/-- An element of a dense tile: row-major index, code, full value (R139). -/
structure Elem where
  idx : Nat
  code : Nat
  val : Fp
deriving DecidableEq, Repr

/-- Whether one element ranks before another (R139). -/
def Elem.before (a b : Elem) : Bool := outranks a.val b.val || (!outranks b.val a.val && a.idx < b.idx)

/-- Insert an element in rank order. -/
def insertRank (e : Elem) : List Elem → List Elem
  | [] => [e]
  | x :: t => if e.before x then e :: x :: t else x :: insertRank e t

/-- Elements in rank order (R139). -/
def byRank (es : List Elem) : List Elem := es.foldr insertRank []

/-- A tile's scratchpad as cells of its own addresses. -/
def State.ownCells (s : State) (t : Fin 128) : List (Nat × Byte) :=
  (s.tiles.spad.filter fun c => c.1 / spadSize = t.val).map fun c => (c.1 % spadSize, c.2)

/-- The elements of a dense tile with their full values; the descriptor names no scales, so these are free values (R139; log 28). -/
def State.millElems (s : State) (t : Fin 128) (d : BitVec 512) : List Elem :=
  let own := s.ownCells t
  let ts := f32 (Config.millTensorScale d own)
  let scale := fun i => (Config.millScale d own (i / blockLen (mScaling d))).toNat
  (s.denseTile t d).toList.zipIdx.map fun c => ⟨c.2, c.1, elemValue (mScaling d) (mFmt d) ts (scale c.2) c.1⟩

/-- The kept elements of one group of four positions, or of one 4 × 4 block: at most two in each row and column (R140, R141). -/
def keepBlock (es : List Elem) : List Elem :=
  (byRank es).foldl (fun kept e =>
    if (kept.countP fun k => k.idx / 64 = e.idx / 64) < 2 && (kept.countP fun k => k.idx % 64 = e.idx % 64) < 2
    then kept ++ [e] else kept) []

/-- What pruning leaves: kept indices, the dropped elements, and how many groups lost any (R140 to R142). -/
structure Pruned where
  kept : List Nat
  dropped : List Elem
  overfull : Nat
deriving DecidableEq, Repr

/-- Insert an element in order of its index. -/
def insertIdx (e : Elem) : List Elem → List Elem
  | [] => [e]
  | x :: t => if e.idx < x.idx then e :: x :: t else x :: insertIdx e t

/-- Prune group by group; `key` names an element's group among `n`. -/
def pruneBy (f n : Nat) (key : Nat → Nat) (es : List Elem) : Pruned :=
  let nz := es.filter fun e => !codeZero f e.code
  let gs := (List.range n).map fun g =>
    let xs := nz.filter fun e => key e.idx = g
    let k := keepBlock xs
    (k, xs.filter fun e => !k.any fun y => y.idx = e.idx)
  ⟨gs.flatMap fun g => g.1.map Elem.idx, (gs.flatMap Prod.snd).foldr insertIdx [], gs.countP fun g => !g.2.isEmpty⟩

/-- The partial pruned mass of an instruction (R142). -/
def prunedMass (dropped : List Elem) : Fp :=
  dropped.foldl (fun a e => f32 (rne32 (a.add e.val.abs))) fpZero

/-- The two stored entries of a group of four positions, position and code in ascending position, with fillers at the lowest
free positions (R140). -/
def storeGroup (codes : Array Nat) (kept : List Nat) (base : Nat) : List (Nat × Nat) :=
  let own := (List.range 4).filter fun p => kept.contains (base + p)
  let fill := ((List.range 4).filter fun p => !own.contains p).take (2 - own.length)
  ((List.range 4).filter fun p => own.contains p || fill.contains p).map fun p =>
    (p, if own.contains p then codes.getD (base + p) 0 else 0)

/-- A row of a 2:4 result: its kept values and its metadata (R111, R140). -/
def storeRow24 (d : BitVec 512) (codes : Array Nat) (kept : List Nat) (r : Nat) : List (Nat × List Byte) :=
  let es := (List.range 16).flatMap fun g => storeGroup codes kept (64 * r + 4 * g)
  [(mOut d + r * mStride d, pack (mFmt d) (es.map Prod.snd)),
   (mAux d + r * metaStride, leBytes 8 (packNat 2 (es.map Prod.fst)))]

/-- What both pruning encodes do with what is kept (R111, R140 to R142). -/
def pruneJob (o : MillOp) (i : TileIssue) (d : BitVec 512) (x : Pruned) (s : State) : Job :=
  let codes := s.denseTile i.tile d
  let outs := (List.range 64).flatMap fun r => storeRow24 d codes (x.kept.filter fun k => k / 64 = r) r
  let p := millPlan o i d (denseRows d (mIn d)) (outRanges outs) (denseSize (mFmt d)) s
  millJob o i p (fun poison s =>
    let s1 := s.tallyN (millPage i) TMIL.OVERFULL_CNT x.overfull TMIL.EV_OVERFULL_GROUPS
    (finishOut i poison outs s1).tap s.clk.phase (mHyd d) (.pruned (prunedMass x.dropped)))

/-- ENCODE_24 as the mill issues it. -/
def encode24Job (i : TileIssue) (s : State) : Job :=
  let d := s.descriptor i.tile.val i.word.desc
  pruneJob .encode24 i d (pruneBy (mFmt d) 1024 (fun k => k / 4) (s.millElems i.tile d)) s

/-- ENCODE_24 (R140, R142). -/
def execEncode24 (i : TileIssue) (s : State) : Host.Outcome State Fault Refusal := .next (issueJob i (encode24Job i s) s)

/-- ENCODE_TP24 as the mill issues it. -/
def encodeTp24Job (i : TileIssue) (s : State) : Job :=
  let d := s.descriptor i.tile.val i.word.desc
  pruneJob .encodeTp24 i d (pruneBy (mFmt d) 256 (fun k => k / 256 * 16 + k % 64 / 4) (s.millElems i.tile d)) s

/-- ENCODE_TP24 (R141, R142). -/
def execEncodeTp24 (i : TileIssue) (s : State) : Host.Outcome State Fault Refusal := .next (issueJob i (encodeTp24Job i s) s)

end Sys2Proof.Machine
end

