-- ==== Sys2Proof/Machine/Vector.lean ====
section
/-! DEFINITION. The vector engine of a tile, what all its operations share: descriptors, loops, masks, outputs, timing (R153 to
R161, R182, R183). -/
namespace Sys2Proof.Machine

/-! Descriptors (R153). -/

/-- A VEC descriptor with its VSHAPE descriptor, and the extents of the five dimensions (R153, R154). -/
structure VSpec where
  d : BitVec 512
  h : BitVec 512
  n : List Nat
deriving DecidableEq, Repr

def vDims (d : BitVec 512) : Nat := dBits d 174 172

/-- Extent of dimension `k`: 0 means 65,536, and a dimension that is not there has extent 1 (R153). -/
def vExtent (d : BitVec 512) (k : Nat) : Nat :=
  if k < vDims d then (let x := dBits d (207 + 16 * k) (192 + 16 * k); if x = 0 then 65536 else x) else 1

/-- The descriptors that an instruction names: DESC and DESC + 1. -/
def State.vSpec (s : State) (i : TileIssue) : VSpec :=
  let d := s.descriptor i.tile.val i.word.desc
  ⟨d, s.descriptor i.tile.val (i.word.desc + 1), (List.range 5).map (vExtent d)⟩

def VSpec.p0 (x : VSpec) : Fp := dF32 x.d 288
def VSpec.p1 (x : VSpec) : Fp := dF32 x.d 320
def VSpec.int (x : VSpec) (lo : Nat) : Int := sgn 32 (dBits x.d (lo + 31) lo)
def VSpec.p3 (x : VSpec) : Int := x.int 384
def VSpec.k (x : VSpec) : Nat := dBits x.d 443 440
def VSpec.hyd (x : VSpec) : Nat := dBits x.d 427 416
def VSpec.rng (x : VSpec) : Nat := dBits x.d 439 428
def VSpec.aux (x : VSpec) : Nat := dBits x.d 469 448
def VSpec.wmask (x : VSpec) : Bool := dBit x.d 28
def VSpec.wzero (x : VSpec) : Bool := dBit x.d 29
def VSpec.omask (x : VSpec) : Nat := dBits x.d 31 30
def VSpec.wmaskAddr (x : VSpec) : Nat := dBits x.d 149 128
def VSpec.omaskAddr (x : VSpec) : Nat := dBits x.d 171 150
def VSpec.vcntDim (x : VSpec) : Nat := dBits x.d 177 175
def VSpec.vcntBase (x : VSpec) : Nat := dBits x.d 287 272

/-- Extent of a dimension, number of rows R, number of elements E, and E_p (R154, R157). -/
def VSpec.ext (x : VSpec) (k : Nat) : Nat := x.n.getD k 1
def VSpec.n0 (x : VSpec) : Nat := x.ext 0
def VSpec.rows (x : VSpec) : Nat := x.ext 1 * x.ext 2 * x.ext 3 * x.ext 4
def VSpec.elems (x : VSpec) : Nat := x.n0 * x.rows
def VSpec.padded (x : VSpec) : Nat := 256 * ceilDiv x.n0 256 * x.rows

/-- An operand: base address, signed strides of dimensions 0 to 4, format, composition, scale array, and whether it is the output
(R153). -/
structure Opnd where
  addr : Nat
  st : List Int
  fmt : Nat
  sc : Nat
  saddr : Nat
  isOut : Bool
deriving DecidableEq, Repr

/-- Strides of operand `o`. -/
def vStrides (x : VSpec) (o : Nat) : List Int :=
  0 :: (List.range 4).map fun k => sgn 24 (dBits x.h (8 + 96 * o + 24 * k + 23) (8 + 96 * o + 24 * k))

/-- Operands A 0, B 1, C 2 and OUT 3. -/
def VSpec.opnd (x : VSpec) (o : Nat) : Opnd :=
  { addr := dBits x.d (53 + 22 * o) (32 + 22 * o), st := vStrides x o, fmt := dBits x.d (7 + 4 * o) (4 + 4 * o),
    sc := if o = 0 then dBits x.d 21 20 else if o = 1 then dBits x.d 23 22 else if o = 3 then dBits x.d 25 24 else 0,
    saddr := if o = 0 then dBits x.h 413 392 else if o = 1 then dBits x.h 435 414 else if o = 3 then dBits x.h 457 436 else 0,
    isOut := o = 3 }

/-- Indices (i0 = 0, i1, …, i4) of row `r` (R154). -/
def VSpec.index (x : VSpec) (r : Nat) : List Nat :=
  let n1 := x.ext 1
  let n2 := x.ext 2
  let n3 := x.ext 3
  [0, r % n1, r / n1 % n2, r / (n1 * n2) % n3, r / (n1 * n2 * n3)]

/-- Address of row `r` of an operand (R154). -/
def VSpec.addr (x : VSpec) (o : Opnd) (r : Nat) : Nat :=
  ((o.addr : Int) + ((List.zip (x.index r) o.st).map fun p => (p.1 : Int) * p.2).sum).toNat

/-- Bytes of a run of an operand, an output's with the rest of its last block, and bytes of scales that a row has (R83, R85). -/
def VSpec.run (x : VSpec) (o : Opnd) : Nat := packedBytes o.fmt (if o.isOut then storedLen o.sc x.n0 else x.n0)
def VSpec.scaleRun (x : VSpec) (o : Opnd) : Nat := scaleBytes o.sc x.n0

/-- How an operand converts; an input with FB16 has a tensor scale of 1.0 (R155). -/
def VSpec.conv (x : VSpec) (o : Opnd) (ts : Fp) : ConvSpec := ⟨o.fmt, o.sc, dBit x.d 26, dBit x.d 27, ts⟩

/-! Regions (R156). -/

/-- A region of the scratchpad that an instruction reads or writes: what makes two of them identical, and its byte span. -/
structure VReg where
  key : List Int
  lo : Int
  hi : Int
deriving DecidableEq, Repr

/-- Lowest and highest offset that strides reach over the extents. -/
def VSpec.reach (x : VSpec) (o : Opnd) : Int × Int :=
  ((List.range 4).map fun k => ((x.ext (k + 1) : Int) - 1) * o.st.getD (k + 1) 0).foldl
    (fun a v => (a.1 + min 0 v, a.2 + max 0 v)) (0, 0)

/-- What makes two tensors identical: address, strides, format and composition; and two scale arrays: address and composition
(R156). -/
def Opnd.key (o : Opnd) (strides : List Int) : List Int := (0 : Int) :: o.addr :: o.fmt :: o.sc :: strides
def Opnd.scaleKey (o : Opnd) : List Int := [1, o.saddr, o.sc]

/-- The regions of an operand: its elements, and its scales. -/
def VSpec.regions (x : VSpec) (o : Opnd) : List VReg :=
  let r := x.reach o
  let main : VReg := ⟨o.key (o.st.take (vDims x.d)), o.addr + r.1, o.addr + r.2 + x.run o⟩
  if o.sc = 0 then [main] else [main, ⟨o.scaleKey, o.saddr, o.saddr + x.rows * x.scaleRun o⟩]

/-- A region of `n` bytes of side data at an address, of items of `item` bytes, or bits where that is 0: identical with one of the
same items at the same address (R154, R156). -/
def plainReg (item : Int) (a n : Nat) : VReg := ⟨[2, item, a], a, a + n⟩

/-- Whether two regions overlap and are not identical (R156). -/
def VReg.clash (a b : VReg) : Bool := a.lo < b.hi && b.lo < a.hi && a.lo < a.hi && b.lo < b.hi && a.key != b.key

/-- Whether a region lies in the tile's scratchpad (log 30). -/
def VReg.inside (a : VReg) : Bool := a.lo ≥ a.hi || (0 ≤ a.lo && a.hi ≤ (spadSize : Int))

/-- The ranges of an operand's rows. -/
def VSpec.rowRanges (x : VSpec) (o : Opnd) : List Range :=
  (List.range x.rows).flatMap fun r =>
    (x.addr o r, x.run o) :: (if o.sc = 0 then [] else [(o.saddr + r * x.scaleRun o, x.scaleRun o)])

/-! Reading. -/

/-- A row read: exact values, and the reserved T2 codes met (R81, R155). -/
structure VRow where
  vals : List Fp
  t2 : Nat
deriving DecidableEq, Repr

/-- Codes and scale codes of a row. -/
def State.vCodes (s : State) (t : Fin 128) (x : VSpec) (o : Opnd) (a r : Nat) : List Nat × List Nat :=
  (unpack o.fmt x.n0 (s.spadRead t (a, x.run o)),
   (s.spadRead t (o.saddr + r * x.scaleRun o, x.scaleRun o)).map BitVec.toNat)

/-- Row `r` of an operand at its exact values; every reserved T2 code of its run counts, those of absent and masked positions too
(R81, R155; DESIGN CHOICE, log 84). -/
def State.vRow (s : State) (t : Fin 128) (x : VSpec) (o : Opnd) (r : Nat) : VRow :=
  let c := s.vCodes t x o (x.addr o r) r
  ⟨decRow (x.conv o fpOne) c.1 c.2, t2Reserved o.fmt c.1⟩

/-- Bits `from_ … from_ + n − 1` of a bitmap (R154). -/
def State.vBits (s : State) (t : Fin 128) (a from_ n : Nat) : List Bool :=
  let v := leNat (s.spadRead t (a + from_ / 8, ceilDiv (from_ % 8 + n) 8))
  (List.range n).map fun i => bitOf v (from_ % 8 + i)

/-- A word of `n` bytes at an address. -/
def State.vWord (s : State) (t : Fin 128) (a n : Nat) : Nat := leNat (s.spadRead t (a, n))

/-- An FP32 value at an address. -/
def State.vF32 (s : State) (t : Fin 128) (a : Nat) : Fp := valueOf fFP32 (s.vWord t a 4)

/-! Masks (R158 to R160). -/

/-- Which elements of row `r` are absent under the valid count (R159). -/
def State.vAbsent (s : State) (i : TileIssue) (x : VSpec) (r : Nat) : List Bool :=
  if i.word.vcnt then
    let v := s.validCount i.tile i.word
    let ix := x.index r
    (List.range x.n0).map fun k =>
      x.vcntBase + (if x.vcntDim = 0 then k else ix.getD x.vcntDim 0) ≥ v
  else List.replicate x.n0 false

/-- Which elements of row `r` of A are present for a combination: neither absent nor masked (R159, R160). -/
def State.vPresent (s : State) (i : TileIssue) (x : VSpec) (r : Nat) : List Bool :=
  let ab := s.vAbsent i x r
  let i1 := (x.index r).getD 1 0
  let past := fun (k : Nat) => x.int 352 + (k : Int) ≤ x.int 320 + (i1 : Int)
  match x.omask with
  | 0 => ab.map (!·)
  | 1 => (List.zip ab (s.vBits i.tile x.omaskAddr (x.n0 * r) x.n0)).map fun p => !p.1 && p.2
  | 2 => ab.zipIdx.map fun p => !p.1 && past p.2
  | _ =>
    let own := s.vWord i.tile (x.omaskAddr + 2 * i1) 2
    ab.zipIdx.map fun p => !p.1 && past p.2 && s.vWord i.tile (x.omaskAddr + 2 * x.ext 1 + 2 * p.2) 2 = own

/-- Which elements of an output row are not written by the operation: absent, or with a clear write-mask bit (R158, R159). -/
def State.vUnwritten (s : State) (i : TileIssue) (x : VSpec) (r : Nat) (absent : List Bool) : List Bool :=
  if x.wmask then (List.zip absent (s.vBits i.tile x.wmaskAddr (x.n0 * r) x.n0)).map fun p => p.1 || !p.2 else absent

/-- Whether every element of a row is absent. -/
def allAbsent (ab : List Bool) : Bool := ab.all id

/-! Results. -/

/-- What an operation gives: bytes to write in order, conversion events and exact values for the tap, reserved T2 codes read,
and the event bits of TVEC_EVENT that it counts, one entry a count. -/
structure VRes where
  outs : List (Nat × List Byte)
  evs : List ConvEv
  xs : List Fp
  t2 : Nat
  ticks : List Nat
deriving DecidableEq, Repr

/-- Nothing. -/
def VRes.empty : VRes := ⟨[], [], [], 0, []⟩

/-- One result after another. -/
def VRes.append (a b : VRes) : VRes := ⟨a.outs ++ b.outs, a.evs ++ b.evs, a.xs ++ b.xs, a.t2 + b.t2, a.ticks ++ b.ticks⟩

/-- Results of rows 0 to n − 1. -/
def VRes.rows (n : Nat) (f : Nat → VRes) : VRes := ((List.range n).map f).foldl VRes.append VRes.empty

/-- A result that is only bytes. -/
def VRes.bytes (outs : List (Nat × List Byte)) : VRes := { VRes.empty with outs := outs }

/-- A result with events added. -/
def VRes.tick (r : VRes) (ts : List Nat) : VRes := { r with ticks := r.ticks ++ ts }

/-- A result with T2 codes added. -/
def VRes.reserved (r : VRes) (n : Nat) : VRes := { r with t2 := r.t2 + n }

/-- The pieces of packed codes that are written: all of them, or the bytes that hold a written element (R158). -/
def writtenPieces (f a : Nat) (codes : List Nat) (skip : List Bool) : List (Nat × List Byte) :=
  let bs := pack f codes
  if !skip.any id then [(a, bs)] else
    let w := fmtWidth f
    (bs.zipIdx.filter fun b => ((List.range (8 / w + 2)).any fun k =>
      let e := 8 * b.2 / w + k
      e * w < 8 * (b.2 + 1) && 8 * b.2 < (e + 1) * w && e < codes.length && !skip.getD e true)).map fun b => (a + b.2, [b.1])

/-- One output row of exact values at an address, with `skip` naming the elements that the operation does not write (R155, R158,
R159). -/
def State.vPut (s : State) (t : Fin 128) (x : VSpec) (c : ConvSpec × Int) (a sa : Nat) (vals : List Fp) (skip : List Bool) :
    VRes :=
  let zero := x.wzero || c.1.scaling ≠ 0
  let xs := (List.zip vals skip).map fun v => if v.2 then fpZero else v.1
  let e := encElems c.1 (xs.map fun v => v.scale c.2)
  let old := if zero then [] else unpack c.1.fmt vals.length (s.spadPeek t.val a (packedBytes c.1.fmt vals.length))
  let codes := (List.zip e.1 skip).zipIdx.map fun v => if v.1.2 then old.getD v.2 0 else v.1.1.code
  let kept := (List.zip e.1 skip).filter fun v => !v.2
  { outs := writtenPieces c.1.fmt a (storedCodes c.1.scaling codes) (if zero then [] else skip) ++
      (if c.1.scaling = 0 then [] else [(sa, e.2.map (BitVec.ofNat 8))]),
    evs := kept.filterMap fun v => v.1.ev, xs := ((List.zip vals skip).filter fun v => !v.2).map Prod.fst, t2 := 0, ticks := [] }

/-- One output row under the loops of `x`. -/
def State.vOut (s : State) (t : Fin 128) (x : VSpec) (c : ConvSpec × Int) (r : Nat) (vals : List Fp) (skip : List Bool) : VRes :=
  let o := x.opnd 3
  s.vPut t x c (x.addr o r) (o.saddr + r * scaleBytes c.1.scaling x.n0) vals skip

/-! Operations. -/

/-- What an operation adds to the shared frame: its place in the table *Operations* (R161), the operands it reads as runs, the
parameter bits that it uses, the masks it accepts, its own grounds for MALFORMED, its other input regions and its output regions,
what it reads and writes, its work count, and its result. -/
structure VecOp where
  cls : Nat
  op : Nat
  ins : List Nat
  params : Nat
  w : Bool
  o : Bool
  uspec : Nat
  converts : Bool
  bad : State → TileIssue → VSpec → Bool
  regIn : VSpec → TileIssue → List VReg
  regOut : VSpec → TileIssue → List VReg
  reads : State → TileIssue → VSpec → List Range
  writes : State → TileIssue → VSpec → List Range
  work : VSpec → Nat
  run : State → TileIssue → VSpec → ConvSpec × Int → VRes

/-- Parameters: P0, P1, P2, P3, K and RNG_ID as masks of the descriptor. -/
def vP0 : Nat := bitMask 319 288
def vP1 : Nat := bitMask 351 320
def vP2 : Nat := bitMask 383 352
def vP3 : Nat := bitMask 415 384
def vK : Nat := bitMask 443 440
def vRng : Nat := bitMask 439 428
def vParams : Nat := vP0 + vP1 + vP2 + vP3 + vK + vRng

/-- Reserved bits of the two descriptors (R153). -/
def vReserved : Nat := bitMask 127 120 + bitMask 191 178 + bitMask 447 444 + bitMask 511 470
def vShapeReserved : Nat := bitMask 7 4 + bitMask 511 458

/-- The masks that an instruction reads. -/
def maskRegs (x : VSpec) : List VReg :=
  (if x.wmask then [plainReg 0 x.wmaskAddr (ceilDiv x.elems 8)] else []) ++
  (if x.omask = 1 then [plainReg 0 x.omaskAddr (ceilDiv x.elems 8)]
   else if x.omask = 3 then [plainReg 2 x.omaskAddr (2 * (x.ext 1 + x.n0))] else [])

/-- Ranges of the masks. -/
def maskRanges (x : VSpec) : List Range := (maskRegs x).map fun r => (r.lo.toNat, (r.hi - r.lo).toNat)

/-- What an output format and composition must be: valid, and FB16 only for COPY (R155). -/
def vOutOk (p : VecOp) (x : VSpec) : Bool :=
  let o := x.opnd 3
  scalingOk o.sc o.fmt && (o.sc ≠ 2 || (p.cls = 0 && p.op = 0))

/-- Grounds for MALFORMED of a vector instruction (R153 to R161, R349): every format and composition that the descriptor names must
be one of R76 and R84, whether the operation reads that operand or not. -/
def vecBad (p : VecOp) (i : TileIssue) (x : VSpec) (sel : Option (ConvSpec × Int)) (s : State) : Bool :=
  let d := x.d
  let outs := p.regOut x i
  let ins := p.regIn x i ++ maskRegs x
  let used := p.params ||| (if x.omask ≥ 2 then vP1 ||| vP2 else 0)
  i.word.desc = 4095 || dBits d 3 0 ≠ 5 || dBits x.h 3 0 ≠ 6 || d.toNat &&& vReserved ≠ 0 || x.h.toNat &&& vShapeReserved ≠ 0 ||
    vDims d = 0 || vDims d > 5 || x.vcntDim > 4 || (i.word.vcnt && x.vcntDim ≥ vDims d) ||
    ((List.range 16).any fun k => dBits x.h (8 + 24 * k + 1) (8 + 24 * k) ≠ 0) ||
    i.word.epoch || i.word.arg1 ≠ 0 || i.word.arg2 ≠ 0 || i.word.uspec.toNat > p.uspec ||
    (d.toNat &&& vParams) &&& used ≠ d.toNat &&& vParams ||
    (x.wmask && !p.w) || (x.omask ≠ 0 && !p.o) || (x.wmask && !x.wzero && (x.opnd 3).sc ≠ 0) ||
    (List.range 4).any (fun o => !scalingOk (x.opnd o).sc (x.opnd o).fmt) || (p.converts && (!vOutOk p x || sel.isNone)) ||
    p.ins.any (fun o => (x.opnd o).addr % 4 ≠ 0) || (p.converts && (x.opnd 3).addr % 4 ≠ 0) ||
    (s.sch.regime = .timed && i.word.vcnt && i.word.vsrc = 2 && !bitOf (s.fld .glb GLB.FEAT_ACTIVE) 4) ||
    p.bad s i x || (ins ++ outs).any (fun r => !r.inside) || outs.any fun a => ins.any a.clash

/-- Whether a vector instruction's destinations can be decoded: both descriptors, the loops, and the output's format (R70; log 80). -/
def vecDecodes (p : VecOp) (i : TileIssue) (x : VSpec) : Bool :=
  i.word.desc ≠ 4095 && dBits x.d 3 0 = 5 && dBits x.h 3 0 = 6 && vDims x.d ≠ 0 && vDims x.d ≤ 5 && scalingOk (x.opnd 3).sc (x.opnd 3).fmt &&
    (p.regOut x i).all VReg.inside

/-- The counter of an event bit of TVEC_EVENT (R183). -/
def vecCounter (b : Nat) : Fld := ⟨0x050 + 8 * b, 63, 0⟩

/-- Count an operation's events; the descriptor of the first one since step start is kept (R182, R183). -/
def State.vecEvents (s : State) (i : TileIssue) (ticks : List Nat) : State :=
  let p : Page := .tvec i.tile
  let s1 := (List.range 11).foldl (fun s b => s.tallyN p (vecCounter b) (ticks.count b) b) s
  if ticks.isEmpty || s1.flag p TVEC.EVENT_FIRST_DESC_VALID then s1
  else s1.setFld p TVEC.EVENT_FIRST_DESC (i.word.desc.toNat + 2 ^ 15)

/-- What a vector instruction does at issue (R155, R183). -/
def vecRun (p : VecOp) (i : TileIssue) (x : VSpec) (c : ConvSpec × Int) (at_ : Phase) (poison : Bool) (s : State) : State :=
  let g : Page := .tvec i.tile
  let r := p.run s i x c
  let s1 := s.setFlds g [(TVEC.STATUS_LAST_CLASS, p.cls), (TVEC.STATUS_LAST_OP, p.op),
    (TVEC.LAST, i.word.desc.toNat + p.cls * 2 ^ 12 + p.op * 2 ^ 16 + 2 ^ 31 + i.word.issue.toNat * 2 ^ 32)]
  let s2 := (s1.count g TVEC.ISSUE_CNT).countN g TVEC.BUSY_CNT (ceilDiv (p.work x) 256 + i.loss)
  let s3 := finishOut i poison r.outs (s2.vecEvents i r.ticks)
  if r.xs.isEmpty && r.t2 = 0 then s3 else s3.tap at_ x.hyd (convTap c.1.fmt r.evs r.xs r.t2 false)

/-- The conversion of a vector instruction's output, if it selects one (R155, R157, R295). -/
def vecSel (p : VecOp) (i : TileIssue) (s : State) : Option (ConvSpec × Int) :=
  let x := s.vSpec i
  let spec := x.conv (x.opnd 3) x.p1
  if p.converts then s.selected x.hyd spec else some (spec, 0)

/-- What a vector instruction is before it issues (R153, R157, R161). -/
def vecPlan (p : VecOp) (i : TileIssue) (s : State) : Plan :=
  let x := s.vSpec i
  let per := s.vclk i.tile
  let n := ceilDiv (p.work x) 256
  { bad := vecBad p i x (vecSel p i s) s, decodes := vecDecodes p i x, reads := p.reads s i x ++ maskRanges x, writes := p.writes s i x, regsIn := [],
    regsOut := [], waitTill := 0, hbm := [], occ := n * per, result := (12 + n) * per, rank := .vector }

/-- What a vector instruction does: its outputs marked POISON when it is suppressed, or its operation. -/
def vecWork (p : VecOp) (i : TileIssue) (s : State) : Work :=
  let x := s.vSpec i
  Work.plain (fun s' => s'.markRanges i.tile.val (vecPlan p i s).writes)
    (vecRun p i x ((vecSel p i s).getD (x.conv (x.opnd 3) x.p1, 0)))

/-- A vector instruction as the engine issues it. -/
def vecJob (p : VecOp) (i : TileIssue) (s : State) : Job := ⟨.vec, p.cls, p.op, vecPlan p i s, vecWork p i s⟩

/-- Issue a vector instruction (R153, R157). -/
def issueVec (p : VecOp) (i : TileIssue) (s : State) : Host.Outcome State Fault Refusal :=
  .next (issueJob i (vecJob p i s) s)

/-! The frame of operations whose output has the loops of their inputs. -/

/-- Ranges of side outputs of `b` bytes per row. -/
def sideRanges (x : VSpec) (b : Nat) : List Range := [(x.aux, b * x.rows)]

/-- An operation whose inputs are the runs of `ins` and whose output is element for element. -/
def VecOp.plain (cls op : Nat) (ins : List Nat) (params : Nat) (run : State → TileIssue → VSpec → ConvSpec × Int → VRes) :
    VecOp :=
  { cls := cls, op := op, ins := ins, params := params, w := true, o := false, uspec := 0, converts := true,
    bad := fun _ _ _ => false, regIn := fun x _ => ins.flatMap fun o => x.regions (x.opnd o),
    regOut := fun x _ => x.regions (x.opnd 3), reads := fun _ _ x => ins.flatMap fun o => x.rowRanges (x.opnd o),
    writes := fun _ _ x => x.rowRanges (x.opnd 3), work := VSpec.elems, run := run }

end Sys2Proof.Machine
end

