-- ==== Sys2Proof/Machine/VecMath.lean ====
section
/-! DEFINITION. Vector operations of classes 0 to 2: element-wise operations, functions, rotary positions, reductions and scans
(R162 to R169). -/
namespace Sys2Proof.Machine

/-! Element-wise operations (R162). -/

/-- A row's result from its elements' exact values and events; absent elements do nothing (R155, R159). -/
def State.rowOut (s : State) (i : TileIssue) (x : VSpec) (c : ConvSpec × Int) (r t2 : Nat) (vals : List (Fp × List Nat)) :
    VRes :=
  let ab := s.vAbsent i x r
  ((s.vOut i.tile x c r (vals.map Prod.fst) (s.vUnwritten i x r ab)).reserved t2).tick
    ((List.zip vals ab).flatMap fun v => if v.2 then [] else v.1.2)

/-- One operand to one value. -/
def ew1 (f : VSpec → Fp → Fp × List Nat) : State → TileIssue → VSpec → ConvSpec × Int → VRes := fun s i x c =>
  VRes.rows x.rows fun r =>
    let a := s.vRow i.tile x (x.opnd 0) r
    s.rowOut i x c r a.t2 (a.vals.map (f x))

/-- Two operands to one value. -/
def ew2 (f : Fp → Fp → Fp) : State → TileIssue → VSpec → ConvSpec × Int → VRes := fun s i x c =>
  VRes.rows x.rows fun r =>
    let a := s.vRow i.tile x (x.opnd 0) r
    let b := s.vRow i.tile x (x.opnd 1) r
    s.rowOut i x c r (a.t2 + b.t2) ((List.zip a.vals b.vals).map fun v => (f v.1 v.2, []))

/-- Three operands to one value. -/
def ew3 (f : Fp → Fp → Fp → Fp) : State → TileIssue → VSpec → ConvSpec × Int → VRes := fun s i x c =>
  VRes.rows x.rows fun r =>
    let a := s.vRow i.tile x (x.opnd 0) r
    let b := s.vRow i.tile x (x.opnd 1) r
    let d := s.vRow i.tile x (x.opnd 2) r
    s.rowOut i x c r (a.t2 + b.t2 + d.t2) ((List.zip a.vals (List.zip b.vals d.vals)).map fun v => (f v.1 v.2.1 v.2.2, []))

/-- The larger of two values: NaN when either is, and +0 above −0 (R162). -/
def Fp.max (a b : Fp) : Fp :=
  if a.isNan || b.isNan then .nan
  else if a.isZero && b.isZero then (if a.sign then b else a)
  else if a.lt b then b else a

/-- The smaller of two values (R162). -/
def Fp.min (a b : Fp) : Fp :=
  if a.isNan || b.isNan then .nan
  else if a.isZero && b.isZero then (if a.sign then a else b)
  else if b.lt a then b else a

/-- The operation COPY: a × P0 (R162). -/
def copyOp : VecOp := VecOp.plain 0 0 [0] (vP0 + vP1) (ew1 fun x a => (a.mul x.p0, []))

/-- COPY (R162). -/
def execCopy (i : TileIssue) (s : State) : Host.Outcome State Fault Refusal := issueVec copyOp i s

/-- The operation ADD (R162). -/
def addOp : VecOp := VecOp.plain 0 1 [0, 1] 0 (ew2 Fp.add)

/-- ADD (R162). -/
def execAdd (i : TileIssue) (s : State) : Host.Outcome State Fault Refusal := issueVec addOp i s

/-- The operation SUB (R162). -/
def subOp : VecOp := VecOp.plain 0 2 [0, 1] 0 (ew2 Fp.sub)

/-- SUB (R162). -/
def execSub (i : TileIssue) (s : State) : Host.Outcome State Fault Refusal := issueVec subOp i s

/-- The operation MUL (R162). -/
def mulOp : VecOp := VecOp.plain 0 3 [0, 1] 0 (ew2 Fp.mul)

/-- MUL (R162). -/
def execMul (i : TileIssue) (s : State) : Host.Outcome State Fault Refusal := issueVec mulOp i s

/-- The operation FMA: a × b + c (R162). -/
def fmaOp : VecOp := VecOp.plain 0 4 [0, 1, 2] 0 (ew3 fun a b c => (a.mul b).add c)

/-- FMA (R162). -/
def execFma (i : TileIssue) (s : State) : Host.Outcome State Fault Refusal := issueVec fmaOp i s

/-- The operation DIV (R162). -/
def divOp : VecOp := VecOp.plain 0 5 [0, 1] 0 (ew2 Fp.div)

/-- DIV (R162). -/
def execDiv (i : TileIssue) (s : State) : Host.Outcome State Fault Refusal := issueVec divOp i s

/-- The operation MAX (R162). -/
def maxOp : VecOp := VecOp.plain 0 6 [0, 1] 0 (ew2 Fp.max)

/-- MAX (R162). -/
def execMax (i : TileIssue) (s : State) : Host.Outcome State Fault Refusal := issueVec maxOp i s

/-- The operation MIN (R162). -/
def minOp : VecOp := VecOp.plain 0 7 [0, 1] 0 (ew2 Fp.min)

/-- MIN (R162). -/
def execMin (i : TileIssue) (s : State) : Host.Outcome State Fault Refusal := issueVec minOp i s

/-- The operation ABS (R162). -/
def absOp : VecOp := VecOp.plain 0 8 [0] 0 (ew1 fun _ a => (a.abs, []))

/-- ABS (R162). -/
def execAbs (i : TileIssue) (s : State) : Host.Outcome State Fault Refusal := issueVec absOp i s

/-- The operation NEG (R162). -/
def negOp : VecOp := VecOp.plain 0 9 [0] 0 (ew1 fun _ a => (a.neg, []))

/-- NEG (R162). -/
def execNeg (i : TileIssue) (s : State) : Host.Outcome State Fault Refusal := issueVec negOp i s

/-- The operation FILL: P0 (R162). -/
def fillOp : VecOp :=
  VecOp.plain 0 10 [] vP0 fun s i x c =>
    VRes.rows x.rows fun r => s.rowOut i x c r 0 (List.replicate x.n0 (x.p0, []))

/-- FILL (R162). -/
def execFill (i : TileIssue) (s : State) : Host.Outcome State Fault Refusal := issueVec fillOp i s

/-! Functions (R163). -/

/-- A function of CLASS 1 with its events. -/
def fnElem (f : Fn) (a : Fp) : Fp × List Nat :=
  let r := f.run a
  (r.val, (if r.domain then [TVEC.EV_DOMAIN] else []) ++ if r.range then [TVEC.EV_ARG_RANGE] else [])

/-- The operation of a function. -/
def fnOp (op : Nat) (f : Fn) : VecOp := VecOp.plain 1 op [0] 0 (ew1 fun _ a => fnElem f a)

/-- EXP2 (R163, R164). -/
def execExp2 (i : TileIssue) (s : State) : Host.Outcome State Fault Refusal := issueVec (fnOp 0 .exp2) i s

/-- EXP (R163, R164). -/
def execExp (i : TileIssue) (s : State) : Host.Outcome State Fault Refusal := issueVec (fnOp 1 .exp) i s

/-- LOG2 (R163). -/
def execLog2 (i : TileIssue) (s : State) : Host.Outcome State Fault Refusal := issueVec (fnOp 2 .log2) i s

/-- RECIP (R163). -/
def execRecip (i : TileIssue) (s : State) : Host.Outcome State Fault Refusal := issueVec (fnOp 3 .recip) i s

/-- RSQRT (R163, R165). -/
def execRsqrt (i : TileIssue) (s : State) : Host.Outcome State Fault Refusal := issueVec (fnOp 4 .rsqrt) i s

/-- SQRT (R163). -/
def execSqrt (i : TileIssue) (s : State) : Host.Outcome State Fault Refusal := issueVec (fnOp 5 .sqrt) i s

/-- TANH (R163). -/
def execTanh (i : TileIssue) (s : State) : Host.Outcome State Fault Refusal := issueVec (fnOp 6 .tanh) i s

/-- SIGMOID (R163). -/
def execSigmoid (i : TileIssue) (s : State) : Host.Outcome State Fault Refusal := issueVec (fnOp 7 .sigmoid) i s

/-- SILU (R163). -/
def execSilu (i : TileIssue) (s : State) : Host.Outcome State Fault Refusal := issueVec (fnOp 8 .silu) i s

/-- GELU_TANH (R163). -/
def execGeluTanh (i : TileIssue) (s : State) : Host.Outcome State Fault Refusal := issueVec (fnOp 9 .gelu) i s

/-- SIN (R163). -/
def execSin (i : TileIssue) (s : State) : Host.Outcome State Fault Refusal := issueVec (fnOp 10 .sin) i s

/-- COS (R163). -/
def execCos (i : TileIssue) (s : State) : Host.Outcome State Fault Refusal := issueVec (fnOp 11 .cos) i s

/-! Rotary positions (R166). -/

/-- A pair rotated by position × frequency, and whether the angle lies out of range (R166). -/
def rotate (p : Int) (th a b : Fp) : List Fp × Bool :=
  let phi := (fpInt p 0).mul th
  if !phi.isFin || (Fp.fin false 1 24).lt phi.abs then ([.nan, .nan], true)
  else
    let c := cos32 phi
    let n := sin32 phi
    ([(a.mul c).sub (b.mul n), (a.mul n).add (b.mul c)], false)

/-- B of ROTARY: N0 / 2 FP32 frequencies in each row. -/
def rotaryB (x : VSpec) : VSpec × Opnd :=
  ({ x with n := x.n0 / 2 :: x.n.tail }, { x.opnd 1 with fmt := fFP32, sc := 0 })

/-- Pairs of a list. -/
def pairs {α : Type} : List α → List (α × α)
  | a :: b :: t => (a, b) :: pairs t
  | _ => []

/-- The row that ROTARY forms. -/
def State.rotaryRow (s : State) (i : TileIssue) (x : VSpec) (c : ConvSpec × Int) (r : Nat) : VRes :=
  let a := s.vRow i.tile x (x.opnd 0) r
  let b := rotaryB x
  let th := (s.vRow i.tile b.1 b.2 r).vals
  let pos := sgn 32 (s.vWord i.tile ((x.opnd 2).addr + 4 * r) 4)
  let rs := (List.zip (pairs a.vals) th).map fun v => rotate pos v.2 v.1.1 v.1.2
  let ab := pairs (s.vAbsent i x r)
  let bad := (List.zip rs ab).filter fun v => v.1.2 && !(v.2.1 && v.2.2)
  ((s.rowOut i x c r a.t2 ((rs.flatMap Prod.fst).map fun v => (v, [])))).tick (bad.map fun _ => TVEC.EV_ARG_RANGE)

/-- The operation ROTARY (R166). -/
def rotaryOp : VecOp :=
  let p := VecOp.plain 1 12 [0] 0 fun s i x c => VRes.rows x.rows (s.rotaryRow i x c)
  { p with
    bad := fun _ _ x => x.n0 % 2 = 1 || (x.opnd 1).addr % 4 ≠ 0 || (x.opnd 2).addr % 4 ≠ 0
    regIn := fun x _ => x.regions (x.opnd 0) ++ (rotaryB x).1.regions (rotaryB x).2 ++ [plainReg 4 (x.opnd 2).addr (4 * x.rows)]
    reads := fun _ _ x => x.rowRanges (x.opnd 0) ++ (rotaryB x).1.rowRanges (rotaryB x).2 ++ [((x.opnd 2).addr, 4 * x.rows)] }

/-- ROTARY (R166). -/
def execRotary (i : TileIssue) (s : State) : Host.Outcome State Fault Refusal := issueVec rotaryOp i s

/-! Reductions (R167, R168). -/

/-- A combination: its identity, its operation with one RNE_fp32, and what it makes of an element first. -/
structure Comb where
  one : Fp
  join : Fp → Fp → Fp
  leaf : Fp → Fp

/-- Sum, maximum and minimum, each with one RNE_fp32 (R167). -/
def combSum : Comb := ⟨.fin true 0 0, fun a b => round32 (a.add b), id⟩
def combMax : Comb := ⟨.inf true, fun a b => round32 (Fp.max a b), id⟩
def combMin : Comb := ⟨.inf false, fun a b => round32 (Fp.min a b), id⟩
def combSumsq : Comb := { combSum with leaf := fun a => round32 (a.mul a) }
def combAmax : Comb := { combMax with leaf := Fp.abs }

/-- One level of a pairwise tree. -/
def joinPairs {α : Type} (f : α → α → α) : List α → List α
  | a :: b :: t => f a b :: joinPairs f t
  | l => l

/-- A pairwise tree over 256 lanes (R167). -/
def treeOf (c : Comb) (v : List Fp) : Fp :=
  let full := v ++ List.replicate (256 - v.length) c.one
  ((List.range 8).foldl (fun w _ => joinPairs c.join w) full).headD c.one

/-- A row combination over dimension 0 of leaves, absent and masked ones given as none (R167). -/
def rowCombine (c : Comb) (xs : List (Option Fp)) : Fp :=
  match (chunks 256 (xs.map fun x => x.getD c.one)).map (treeOf c) with
  | [] => c.one
  | a :: t => t.foldl c.join a

/-- The loops of a reduction's output: the axis taken out (R168). -/
def VSpec.drop (x : VSpec) (k : Nat) : VSpec := { x with n := x.n.eraseIdx k ++ [1] }

/-- Leaves of a row of A. -/
def State.leaves (s : State) (i : TileIssue) (x : VSpec) (c : Comb) (r : Nat) : List (Option Fp) × Nat :=
  let a := s.vRow i.tile x (x.opnd 0) r
  ((List.zip a.vals (s.vPresent i x r)).map fun v => if v.2 then some (c.leaf v.1) else none, a.t2)

/-- Linear row index of (i1, …, i4) (R154). -/
def VSpec.rowOf (x : VSpec) (ix : List Nat) : Nat :=
  ix.getD 1 0 + x.ext 1 * (ix.getD 2 0 + x.ext 2 * (ix.getD 3 0 + x.ext 3 * ix.getD 4 0))

/-- The value of one output element of a reduction along an axis from 1 up: a fold in ascending index (R168). -/
def foldAxis (c : Comb) (x : VSpec) (k : Nat) (rows : Array (List (Option Fp))) (out : List Nat) : Fp :=
  (List.range (x.ext k)).foldl (fun acc j =>
    let ix := out.take k ++ [j] ++ out.drop k
    match (rows.getD (x.rowOf ix) []).getD (ix.getD 0 0) none with
    | some v => c.join acc v
    | none => acc) c.one

/-- Whether an output element is absent: every element it combines is (R159). -/
def State.reduceAbsent (s : State) (i : TileIssue) (x : VSpec) (k : Nat) (out : List Nat) : Bool :=
  i.word.vcnt &&
    let v := s.validCount i.tile i.word
    let ix := out.take k ++ [0] ++ out.drop k
    x.vcntBase + ix.getD x.vcntDim 0 ≥ v

/-- One output row of a reduction. -/
def State.reduceRow (s : State) (i : TileIssue) (x : VSpec) (c : ConvSpec × Int) (m : Comb)
    (rows : Array (List (Option Fp))) (r : Nat) : VRes :=
  let k := x.k
  let y := x.drop k
  let outs := (List.range y.n0).map fun e => e :: (y.index r).tail
  let vals := outs.map fun o => if k = 0 then rowCombine m (rows.getD (x.rowOf (0 :: o)) []) else foldAxis m x k rows o
  s.vOut i.tile y c r vals (outs.map (s.reduceAbsent i x k))

/-- A reduction (R167, R168). -/
def reduceOp (op : Nat) (m : Comb) : VecOp :=
  let p := VecOp.plain 2 op [0] vK fun s i x c =>
    let ls := (List.range x.rows).map (s.leaves i x m)
    let rows := (ls.map Prod.fst).toArray
    (VRes.rows (x.drop x.k).rows (s.reduceRow i x c m rows)).reserved (ls.map Prod.snd).sum
  { p with
    w := false, o := true, bad := fun _ _ x => x.k ≥ vDims x.d,
    regOut := fun x _ => (x.drop x.k).regions (x.opnd 3), writes := fun _ _ x => (x.drop x.k).rowRanges (x.opnd 3),
    work := fun x => if x.k = 0 then x.padded else x.elems }

/-- RSUM (R168). -/
def execRsum (i : TileIssue) (s : State) : Host.Outcome State Fault Refusal := issueVec (reduceOp 0 combSum) i s

/-- RMAX (R168). -/
def execRmax (i : TileIssue) (s : State) : Host.Outcome State Fault Refusal := issueVec (reduceOp 1 combMax) i s

/-- RMIN (R168). -/
def execRmin (i : TileIssue) (s : State) : Host.Outcome State Fault Refusal := issueVec (reduceOp 2 combMin) i s

/-- RSUMSQ (R168). -/
def execRsumsq (i : TileIssue) (s : State) : Host.Outcome State Fault Refusal := issueVec (reduceOp 3 combSumsq) i s

/-- RAMAX (R168). -/
def execRamax (i : TileIssue) (s : State) : Host.Outcome State Fault Refusal := issueVec (reduceOp 4 combAmax) i s

/-! Scans (R169). -/

/-- One level of a block scan: lane j takes in lane j − d. -/
def scanLevel {α : Type} (f : α → α → α) (d : Nat) (v : List α) : List α :=
  v.take d ++ (List.zip v (v.drop d)).map fun p => f p.1 p.2

/-- The scan of a block of lanes, in 8 levels (R169). -/
def scanBlock {α : Type} (f : α → α → α) (v : List α) : List α :=
  (List.range 8).foldl (fun w d => scanLevel f (2 ^ d) w) v

/-- A row's scan: blocks of 256 lanes carry forward; the last lane of a full block is the carry (R169). -/
def scanRow {α : Type} (f : α → α → α) (one : α) (xs : List α) : List α :=
  let bs := (chunks 256 xs).map fun b => b ++ List.replicate (256 - b.length) one
  ((bs.foldl (fun (acc : List α × Option α) b =>
    let v := scanBlock f b
    let w := match acc.2 with
      | some c => v.map (f c)
      | none => v
    (acc.1 ++ w, w.getLast?)) ([], none)).1).take xs.length

/-- A scan of one operand. -/
def scanOp (op : Nat) (m : Comb) : VecOp :=
  let p := VecOp.plain 2 op [0] 0 fun s i x c =>
    VRes.rows x.rows fun r =>
      let l := s.leaves i x m r
      s.rowOut i x c r l.2 ((scanRow m.join m.one (l.1.map fun v => v.getD m.one)).map fun v => (v, []))
  { p with o := true, work := fun x => 2 * x.padded }

/-- SCAN_SUM (R169). -/
def execScanSum (i : TileIssue) (s : State) : Host.Outcome State Fault Refusal := issueVec (scanOp 8 combSum) i s

/-- SCAN_MAX (R169). -/
def execScanMax (i : TileIssue) (s : State) : Host.Outcome State Fault Refusal := issueVec (scanOp 9 combMax) i s

/-- SCAN_MIN (R169). -/
def execScanMin (i : TileIssue) (s : State) : Host.Outcome State Fault Refusal := issueVec (scanOp 10 combMin) i s

/-- The operator of SCAN_LIN (R169). -/
def linJoin (p q : Fp × Fp) : Fp × Fp := (round32 (p.1.mul q.1), round32 ((q.1.mul p.2).add q.2))

/-- The row that SCAN_LIN forms (R169). -/
def State.scanLinRow (s : State) (i : TileIssue) (x : VSpec) (c : ConvSpec × Int) (r : Nat) : VRes :=
  let a := s.vRow i.tile x (x.opnd 0) r
  let b := s.vRow i.tile x (x.opnd 1) r
  let one : Fp × Fp := (fpOne, .fin true 0 0)
  let xs := (List.zip (List.zip a.vals b.vals) (s.vPresent i x r)).map fun v => if v.2 then v.1 else one
  let h0 := s.vF32 i.tile ((x.opnd 2).addr + 4 * r)
  s.rowOut i x c r (a.t2 + b.t2) ((scanRow linJoin one xs).map fun v => (round32 ((v.1.mul h0).add v.2), []))

/-- The operation SCAN_LIN (R169). -/
def scanLinOp : VecOp :=
  let p := VecOp.plain 2 11 [0, 1] 0 fun s i x c => VRes.rows x.rows (s.scanLinRow i x c)
  { p with
    o := true, work := fun x => 2 * x.padded, bad := fun _ _ x => (x.opnd 2).addr % 4 ≠ 0
    regIn := fun x _ => x.regions (x.opnd 0) ++ x.regions (x.opnd 1) ++ [plainReg 4 (x.opnd 2).addr (4 * x.rows)]
    reads := fun _ _ x => x.rowRanges (x.opnd 0) ++ x.rowRanges (x.opnd 1) ++ [((x.opnd 2).addr, 4 * x.rows)] }

/-- SCAN_LIN (R169). -/
def execScanLin (i : TileIssue) (s : State) : Host.Outcome State Fault Refusal := issueVec scanLinOp i s

end Sys2Proof.Machine
end

