-- ==== Sys2Proof/Machine/Reduce.lean ====
section
/-! DEFINITION. In-switch reduction and the DIGEST combine (R226 to R230, R284, R304). -/
namespace Sys2Proof.Machine

/-- Elements of a REDUCE cell's 60 data bytes (R227). -/
def redCount (fmt : Nat) : Nat := 480 / fmtWidth fmt

/-- Element codes of a cell's data. -/
def redCodes (fmt : Nat) (c : FCell) : List Nat := (List.range (redCount fmt)).map fun i => elemAt (fmtWidth fmt) c.body.toNat i

/-- Element values of a cell's data. -/
def redValues (fmt : Nat) (c : FCell) : List Fp := (redCodes fmt c).map (valueOf fmt)

/-- What a combine gives of one element: its code, the exact value before the output rounding with its event, and whether an
INT32 sum saturated. -/
structure RedElem where
  code : Nat
  x : Fp
  ev : Option ConvEv
  sat : Bool
deriving DecidableEq, Repr

/-- The sum of inputs in order, each addition but the last rounded to FP32: the exact value before the output rounding
(R227). -/
def redSumFrom (acc : Fp) : List Fp → Fp
  | [] => acc
  | [x] => acc.add x
  | x :: t => redSumFrom (f32 (rne32 (acc.add x))) t

/-- The sum of all inputs. -/
def redSum : List Fp → Fp
  | [] => fpZero
  | x :: t => redSumFrom x t

/-- Combine one element of the inputs, in ascending input order (R227). -/
def redElem (op fmt : Nat) (xs : List Fp) : RedElem :=
  let ints := (xs.map fun x => x.at_ 0).sum
  match op with
  | 0 => let x := redSum xs
         let c := rne fFP32 false x
         ⟨c.code, x, c.ev, false⟩
  | 1 => let x := f32 (rne32 (redSum xs))
         let c := rne fBF16 false x
         ⟨c.code, x, c.ev, false⟩
  | 2 => let y := clampI ints
         ⟨unsgn 32 y, fpInt ints 0, if y = ints then (if y = 0 then some .zero else none) else some .overflow, y ≠ ints⟩
  | 3 => let x := match xs with | [] => fpZero | a :: t => t.foldl Fp.max a
         let c := rne fmt false x
         ⟨c.code, x, c.ev, false⟩
  | 4 => let x := match xs with | [] => fpZero | a :: t => t.foldl Fp.min a
         let c := rne fmt false x
         ⟨c.code, x, c.ev, false⟩
  | _ => ⟨unsgn 2 (if ints > 0 then 1 else if ints < 0 then -1 else 0), fpInt ints 0, none, false⟩
where
  clampI (x : Int) : Int := max (-(2 ^ 31)) (min (2 ^ 31 - 1) x)

/-- The combined elements of a channel's cells. -/
def redCombine (op fmt : Nat) (cs : List FCell) : List RedElem :=
  let vs := cs.map (redValues fmt)
  (List.range (redCount fmt)).map fun i => redElem op fmt (vs.map fun v => v.getD i fpZero)

/-- Fields of a digest (R229). -/
def digestData (sent recv scrc rcrc cause : Nat) : BitVec 480 :=
  BitVec.ofNat 480 (sent + recv * 2 ^ 64 + scrc * 2 ^ 128 + rcrc * 2 ^ 192 + cause % 64 * 2 ^ 256)

/-- The DIGEST combine: counts summed and saturating, CRCs XORed, causes ORed (R229). -/
def digestAdd (a b : BitVec 480) : BitVec 480 :=
  let f := fun (v : BitVec 480) i => bitsOf v.toNat (64 * i + 63) (64 * i)
  let sat := fun x => min x (2 ^ 64 - 1)
  digestData (sat (f a 0 + f b 0)) (sat (f a 1 + f b 1)) (f a 2 ^^^ f b 2) (f a 3 ^^^ f b 3)
    (bitsOf a.toNat 261 256 ||| bitsOf b.toNat 261 256)

/-- Taps of a combine: the module's own partials on mesh edge ports, and the output; of a vote, the reserved codes that it reads are
counted as well (R81, R93, R227, R284, R296, R297). -/
def State.redTaps (s : State) (e : Nat) (t : Phase) (cs : List (Nat × FCell)) (out : List RedElem) (local_ : Bool) : State :=
  let op := ceOp e
  let id := ceHyd e
  if op ≤ 4 then
    let s1 := cs.foldl (fun s c => if c.1 ≥ 16 then s.tap t id (.lsq (redValues (ceFmt e) c.2)) else s) s
    s1.tap t id (convTap (ceFmt e) (out.filterMap RedElem.ev) (out.map RedElem.x) 0 local_)
  else if op = 5 then
    let t2 := (cs.map fun c => t2Reserved fT2 (redCodes fT2 c.2)).sum
    if local_ then s.tap t id (.votes (out.map fun r => r.x.at_ 0) t2)
    else if t2 = 0 then s else s.tap t id (.votes [] t2)
  else s

/-- The result of a combine leaves through one output; a result that loses the contention is dropped with the collision
(R223, R224, R226). -/
def State.sendResult (s : State) (sw : Sw) (c : FCell) (t : Phase) (ds : List (Nat × Goal)) : Bool × State :=
  let lanes := ds.map fun d =>
    if d.1 < 12 && !s.admitted d.1 then some 0 else s.pickLane sw d.1 c.channel t
  match (ds.zip lanes).find? fun x => x.2.isNone with
  | some x => (false, s.collision sw c.channel x.1.1 t)
  | none =>
    let s1 := s.count .swx SWX.REDUCE_CNT
    (true, (ds.zip lanes).foldl (fun s x =>
      let k := x.2.getD 0
      let o : OutPath := ⟨x.1.1, k, x.1.2, false, false⟩
      let s2 := s.displace sw x.1.1 k t
      let s3 := { s2 with fab := { s2.fab with
          taken := (s2.fab.taken.filter fun (y : TakenSlot) => t ≤ y.at_) ++
            [(⟨sw, x.1.1, k, t + swTraverse sw⟩ : TakenSlot)] } }
      let l : Latch := { sw := sw, input := 0, lane := 0, outs := [o], sink := .none, channel := c.channel, be := false,
                         bg := false, low := false, fate := .pass, noChan := false, nextIndex := 0, lastAt := t,
                         period := 0, poison := false, cells := 0, head := 0, body := [] }
      s3.emit l o (t + swTraverse sw) c) s1)

/-- Outputs of a combine's result: OUT, and the local delivery (R215, R226, R230; log 41). -/
def State.resultOuts (s : State) (sw : Sw) (e : Nat) (c : FCell) (t : Phase) : List (Nat × Goal) :=
  let east := swIsEast sw
  let m := smGet 0 s.fab.msgs c.channel.toNat
  let home := ceOut e = 12 || ceCopyLocal e
  let addr := ceAddr e + (m - (if c.index = 0 then 0 else 1)) * ceStride e + 60 * c.index.toNat
  let here := if !home then [] else if ceOp e = opDigest then [(meshPort east 3, Goal.engine (.digest t) 0)]
    else [(meshPort east (ceTile e / 16), Goal.land (if ceMode e = 3 then 0 else ceMode e) (ceTile e) addr none)]
  (if ceOut e = 12 then [] else [(ceOut e, Goal.reduce)]) ++ here

/-- Send a combine's cell, and note what is delivered locally. -/
def State.redSend (s : State) (sw : Sw) (e : Nat) (c : FCell) (t : Phase) : State :=
  let ds := s.resultOuts sw e c t
  let r := s.sendResult sw c t ds
  let s1 := r.2
  let home := ceOut e = 12 || ceCopyLocal e
  if !r.1 || !home then s1
  else if ceOp e ≠ opDigest && c.index = 0 then
    { s1 with fab := { s1.fab with msgs := smSet 0 s1.fab.msgs c.channel.toNat (smGet 0 s1.fab.msgs c.channel.toNat + 1) } }
  else s1

/-- The digest tick of the job that a DIGEST channel belongs to, as a phase (R229, R318). -/
def State.digestFrom (s : State) (ch : BitVec 16) : Phase := if s.chanSecond ch then s.fab.digestAt2 else s.fab.digestAt

/-- The module's own digest joins a combine at a time: offered for the channel, at or after its tick, and before the next one
or, for the last, before STEP_PERIOD (R229). -/
def State.ownDigest (s : State) (ch : BitVec 16) (t : Phase) : Option (BitVec 480) :=
  if s.fab.digestOwed.contains ch.toNat && s.digestFrom ch ≤ t &&
      t < s.sch.startPhase + 4 * s.fld .sch SCH.STEP_PERIOD then
    if s.chanSecond ch then s.fab.digest2 else s.fab.digest
  else none

/-- The digest has been taken, or its first combine has passed. -/
def State.digestTaken (s : State) (ch : BitVec 16) : State :=
  { s with fab := { s.fab with digestOwed := s.fab.digestOwed.filter fun c => c ≠ ch.toNat } }

/-- Flags of a combine: an input missing or carried as missing, and POISON, each with its cause (R228). -/
def State.redFlags (s : State) (ch : BitVec 16) (absent miss poison : Bool) : State :=
  let sec := s.chanSecond ch
  let s1 := if absent then s.tally .swx SWX.MISSING_CNT SWX.EV_MISSING else s
  let s2 := if miss then s1.invalid sec .missing else s1
  if poison then s2.invalid sec .poison else s2

/-- Combine the cells of a channel at a slot edge: one for each input that IN_MASK names (R226 to R229, R304). -/
def State.combine (s : State) (sw : Sw) (ch : BitVec 16) (e : Nat) (t : Phase) (cs : List (Nat × FCell)) : State :=
  let dig := ceOp e = opDigest
  let own := if dig then s.ownDigest ch t else none
  let s0 := if dig && s.digestFrom ch ≤ t then s.digestTaken ch else s
  if cs.isEmpty && own.isNone then s0
  else if !dig && (smGet 0 s0.rack.epoch (ceTensor e)).toNat ≠ ceEpoch e then
    (s0.tally .rack RACK.STALE_RED_CNT RACK.EV_STALE_RED).invalid (s0.chanSecond ch) .staleEpoch
  else
    let absent := ((List.range 32).any fun p => bitOf (ceInMask e) p && !cs.any fun c => c.1 = p) || (dig && own.isNone)
    let miss := absent || cs.any fun c => c.2.missing
    let poison := cs.any fun c => c.2.poison
    let s1 := s0.redFlags ch absent miss poison
    let idx := ((cs.head?).map fun c => c.2.index.toNat).getD 0
    let out := if dig then [] else redCombine (ceOp e) (ceFmt e) (cs.map Prod.snd)
    let digs := cs.map (fun c => c.2.body) ++ own.toList
    let body := if dig then (digs.drop 1).foldl digestAdd (digs.headD 0)
      else BitVec.ofNat 480 (packNat (fmtWidth (ceFmt e)) (out.map RedElem.code))
    let c : FCell := { mkCell kReduce ch idx poison body.toNat with missing := miss }
    let s2 := s1.tallyN .swx SWX.RED_OVERFLOW_CNT (out.countP RedElem.sat) SWX.EV_RED_OVERFLOW
    (if dig then s2 else s2.redTaps e t cs out (ceOut e = 12 || ceCopyLocal e)).redSend sw e c t

/-- One REDUCE cell reaches a combine's edge: it takes part, or is dropped as a second cell of its input, or has no entry that
names its input, or is discarded as deflected (R224, R226). -/
def State.redInput (acc : List (Nat × FCell) × State) (sw : Sw) (e : Nat) (t : Phase) (f : Flight) : List (Nat × FCell) × State :=
  let s := (acc.2.release sw f.input f.lane).received f false false
  if f.cell.deflected then (acc.1, s.tally .swx SWX.DEFLECT_DISCARD_CNT SWX.EV_DEFLECT_DISCARD)
  else if ceKind e ≠ chReduction || !bitOf (ceInMask e) f.input then (acc.1, s.noChannel f.cell.channel)
  else if acc.1.any fun c => c.1 = f.input then (acc.1, s.collision sw f.cell.channel (ceOut e) t)
  else (acc.1 ++ [(f.input, f.cell)], s)

/-- The first slot edge from a time at which a combine without port inputs can send: where its OUT takes a cell (R229). -/
def State.digestEdge (s : State) (sw : Sw) (e : Nat) (c : BitVec 16) (t : Phase) : Option Phase :=
  let out := if ceOut e = 12 then meshPort (swIsEast sw) 3 else ceOut e
  ((List.range 256).map fun i => t + i).find? fun x =>
    (x + swTraverse sw - s.sch.startPhase) % outPeriod out = 0 && (s.pickLane sw out c x).isSome

end Sys2Proof.Machine
end

