-- ==== Sys2Proof/Machine/Schedule.lean ====
section
/-! DEFINITION. The scheduler: commands of SCH_CTRL, step starts, digests, the verdict, the commit and the ends of steps (R15 to
R24, R53, R54, R60 to R64, R73 to R75, R229, R230, R318). -/
namespace Sys2Proof.Machine

/-! ARM, STOP (R54, R60, R61, R64, R361). -/

/-- An ARM is refused (R60). -/
def State.refuseArm (s : State) : State := s.tally .sch SCH.ARM_REFUSED_CNT SCH.EV_ARM_REFUSED

/-- Windows of the declaration before step start (R316, R356). -/
def State.preWindows (s : State) : Nat :=
  match s.declared with
  | some d => d.1
  | none => 0

/-- The earliest tick that an ARM now may name: `run` says that the armed start follows a step (R60, R361; log 63). -/
def State.earliestStart (s : State) (run : Bool) : Nat :=
  if run then max (s.ht + 30000) (s.sch.startTick + s.fld .sch SCH.STEP_PERIOD)
  else
    let held := s.schState = schHeld && s.sch.valid = some false
    max (s.ht + max 30000 (s.preWindows * 1000)) (if held then s.sch.startTick + s.fld .sch SCH.LAST_DIGEST + 3000 else 0)

/-- An ARM from LOADED or HELD takes effect: the rings fill, the zones move to OPMAP, and the module is ARMED (R57, R60, R361,
R362). -/
def State.takeArm (s : State) (next : Nat) (untimed : Bool) : State :=
  let s1 := { s with sch := { s.sch with armed := some (next, false), armPhase := s.clk.phase, next := none, stop := false,
                                          seqDone := 0 } }
  let s2 := s1.fillRings.zonesToOpmap
  (if untimed then s2 else s2.armPower (s2.phaseOfTick next)).enterSch schArmed

/-- A write of 1 to ARM (R54, R60, R74). -/
def State.armWrite (s : State) : State :=
  let next := s.fld .sch SCH.NEXT_START
  let untimed := s.flag .sch SCH.CTRL_UNTIMED
  let st := s.schState
  let afterRun := match s.sch.armed with
    | some a => st = schArmed && a.2
    | none => false
  let inStep : Bool := [schRunning, schVerdict, schCommit].contains st
  let idle : Bool := st = schLoaded || st = schHeld || (st = schArmed && !afterRun)
  match s.sch.img with
  | none => s.refuseArm
  | some m =>
    if m.untimedOnly && !untimed then s.refuseArm
    else if idle then
      if untimed || s.earliestStart false ≤ next then s.takeArm next untimed else s.refuseArm
    else if !untimed && s.earliestStart true ≤ next then
      if afterRun then { s with sch := { s.sch with armed := some (next, true), armPhase := s.clk.phase } }
      else if inStep && s.sch.regime = .timed then
        { s with sch := { s.sch with next := some next, armPhase := s.clk.phase } }
      else s.refuseArm
    else s.refuseArm

/-- LOADED after a step or a STOP: no start is armed, and the ballast takes its HOLD levels (R64, R361). -/
def State.enterLoaded (s : State) : State :=
  ({ s with sch := { s.sch with armed := none, next := none, stop := false, seqDone := 0 } }.enterSch schLoaded).holdBallast

/-- HELD (R61, R62, R74, R361, R392). -/
def State.enterHeld (s : State) : State :=
  (({ s with sch := { s.sch with armed := none, next := none, seqDone := 0 } }.enterSch schHeld).raise .sch
    SCH.EV_HELD).holdBallast

/-- A step ends: reports that wait for the boundary are taken, its record falls due, what the lauter engine holds unfinished is given
up, and outside steps nothing is timed (R64, R234, R251, R254, R289 to R291). -/
def State.endStep (s : State) (committed judge : Bool) : State :=
  let s1 := { s with sch := { s.sch with recordDue := some ⟨s.clk.phase, committed, s.sch.startIndex, s.hyd.selActive⟩ } }
  let s2 := (if judge then s1.watchdog else s1).ltrStepEnd
  { s2.admitPending with sch := { s2.admitPending.sch with
    regime := .none, endPhase := s.clk.phase, uStarted := false,
    prevCut := if s.sch.regime = .timed then s.sch.startTick + s.fld .sch SCH.LAST_DIGEST else s.ht } }

/-- SCH_STEP_INDEX goes up (R62, R63, R279). -/
def State.bumpIndex (s : State) : State := s.setFld .sch SCH.STEP_INDEX (s.fld .sch SCH.STEP_INDEX + 1)

/-- A write of 1 to STOP (R64, R74; log 63). -/
def State.stopWrite (s : State) : State :=
  let st := s.schState
  if s.sch.regime = .untimed then (s.endStep false true).enterLoaded
  else if s.sch.regime = .timed then { s with sch := { s.sch with stop := true } }
  else if st = schArmed || st = schHeld then s.enterLoaded
  else s

/-- What SCH_CTRL does beside CNT_CLR and its stored bits, lower bits first (R52 to R54, R60, R64, R75; log 63). -/
def schCtrl (w : RegW) (s : State) : State :=
  let s1 := onlyIf (wHits w SCH.CTRL_LOAD) (fun s => s.startLoad false) s
  let s2 := onlyIf (wHits w SCH.CTRL_LOAD2) (fun s => s.startLoad true) s1
  let s3 := onlyIf (wHits w SCH.CTRL_ARM) State.armWrite s2
  let s4 := onlyIf (wHits w SCH.CTRL_STOP) State.stopWrite s3
  onlyIf (wHits w SCH.CTRL_UNLOAD) State.unloadImages s4

/-- A write to SCH_CTRL. -/
def schCtrlWrite (w : RegW) (s : State) : State := (ctrlWrite s .sch w (schCtrl w)).watchReady s

/-- LOAD (R52, R53). -/
def execLoad (w : RegW) (s : State) : Host.Outcome State Fault Refusal := .next (schCtrlWrite w s)

/-- LOAD2 (R54, R316). -/
def execLoad2 (w : RegW) (s : State) : Host.Outcome State Fault Refusal := .next (schCtrlWrite w s)

/-- ARM (R60). -/
def execArm (w : RegW) (s : State) : Host.Outcome State Fault Refusal := .next (schCtrlWrite w s)

/-- STOP (R64). -/
def execStop (w : RegW) (s : State) : Host.Outcome State Fault Refusal := .next (schCtrlWrite w s)

/-- UNLOAD (R53, R75). -/
def execUnload (w : RegW) (s : State) : Host.Outcome State Fault Refusal := .next (schCtrlWrite w s)

/-! Step start (R16, R24, R61, R65, R74). -/

/-- Registers that hold something "since step start" or, END flags of the streams, of the current step, by page and offset. -/
def stepReg (p : Page) (off : Nat) : Bool :=
  match p with
  | .sch => off = SCH.FAULT_FIRST.off || off = SCH.FAULT_TIME.off
  | .swx => off = SWX.COLL_FIRST.off
  | .pwr => off = PWR.EXCESS_FIRST.off
  | .zn _ => off = ZN.LIMIT_FIRST.off
  | .mem _ => off = MEM.UE_FIRST.off || off = MEM.MISS_FIRST.off
  | .tctl _ => off = TCTL.STATUS_F_END.off || off = TCTL.FAULT_FIRST.off || off = TCTL.F_PTR.off || off = TCTL.B_PTR.off || off = TCTL.S_PTR.off
  | .tspd _ => off = TSPD.OFF_FIRST.off
  | .tmil _ => off = TMIL.CEIL_FIRST.off
  | .tvec _ => off = TVEC.EVENT_FIRST_DESC.off
  | .lnk _ => off = LNK.TALLY_SENT.off || off = LNK.TALLY_RECV.off
  | _ => false

/-- Whether the register at a BAR0 offset starts again with each step. -/
def stepAddr (a : Nat) : Bool :=
  match pageAt a with
  | some p => stepReg p (a % 0x1000)
  | none => false

/-- What every step start clears or takes over (R202, R205, R217, R229, R242, R245, R267, R294, R309, R327). -/
def State.freshStep (s : State) (start : Phase) : State :=
  let s1 := { s.activateSelections start with regs := smDrop stepAddr (s.activateSelections start).regs }
  let s2 := { s1 with
    mem := { s1.mem with frames := [] },
    fab := { s1.fab with msgs := [], valid := [], sentCrc := [], recvCrc := [], pooled := [], slotFree := [], closed := [],
                         digest := none, digest2 := none, digestOwed := [] } }
  let s3 := (s2.rackStepStart.coopStepStart).quotaSwapAt
  let s4 := (List.range 8).foldl (fun s k => (s.hyperSwapAt k).clearHanded k) s3
  s4.ltrStepStart

/-- The scheduler's own record of a step that starts at a phase, in a regime (R24, R61, R75). -/
def State.openStep (s : State) (timed : Bool) (tick : Nat) (start : Phase) : State :=
  let s1 := { s with sch := { s.sch with
    armed := none, next := none, stop := false, regime := if timed then .timed else .untimed, startTick := tick,
    startPhase := start, startIndex := s.fld .sch SCH.STEP_INDEX, causes := s.sch.causesNext, causesNext := 0, causes2 := s.sch.causes2Next, causes2Next := 0,
    digested := 0, digested2 := 0, results := [], result := none, valid := none,
    verdict2 := timed && s.sch.img2.isSome, uStarted := false, seqDone := 0 } }
  ((s1.enterSch schRunning).setFlds .sch [(SCH.STATUS_TIMED, timed.toNat), (SCH.STATUS_LOCKED, timed.toNat),
    (SCH.STEP_START, tick)]).tally .sch SCH.STEP_CNT SCH.EV_STEP_START

/-- A pass that is not complete by step start, `begun` at a time (R302). -/
def State.seqCheck (s : State) (done : Nat) (begun : Phase) : State :=
  match s.batches[done]? with
  | some b =>
    let s1 := if begun < s.sch.startPhase then s.passReached b else s
    ((s1.tally .rack RACK.SEQ_LATE_CNT RACK.EV_SEQ_LATE).seqFirst done seqLate 0).invalid false .ceiling
  | none => s

/-- STEP_START: at the armed tick, with UNTIMED clear, the conditions of R16 decide between a timed step and HELD (R61). -/
def execStepStart (s : State) : Host.Outcome State Fault Refusal :=
  .next (match s.sch.armed with
    | some (tick, _) =>
      if s.schState ≠ schArmed || s.flag .sch SCH.CTRL_UNTIMED || !s.running then s
      else
        let start := s.phaseOfTick tick
        let s1 := (s.advanceTo start).settleZones
        if s1.timedReady && s1.timedImage then
          ((s1.freshStep start).openStep true tick start).seqCheck s.sch.seqDone (s.batchBegin s.sch.seqDone)
        else { s1 with sch := { s1.sch with valid := none } }.enterHeld
    | none => s)

/-- UNTIMED_STEP_START: with UNTIMED set, when ARM has taken effect and the last sequence pass is complete (R61, R74; log 59). -/
def execUntimedStepStart (s : State) : Host.Outcome State Fault Refusal :=
  .next (if s.schState = schArmed && s.flag .sch SCH.CTRL_UNTIMED && s.running && s.batches.length ≤ s.sch.seqDone &&
        !s.zonesMoving then
      let start := s.clk.phase
      (s.freshStep start).openStep false s.ht start
    else s)

/-! The U streams and the end of an untimed step (R74, R279). -/

/-- Fronts of the U streams. -/
def uFronts : List Nat := (List.range 8).map uFront

/-- Whether every stream but the U streams has ended. -/
def State.streamsEnded (s : State) : Bool := s.fronts.all fun e => (512 ≤ e.1 && e.1 < 520) || e.1 ≥ 1024 || e.2.ended

/-- Whether every U stream has ended. -/
def State.uEnded (s : State) : Bool := uFronts.all fun k => (s.front k).ended

/-- The time by which every tile unit, and every result in hand, is done. -/
def State.tilesDone (s : State) : Phase :=
  max ((s.tiles.busy.map Prod.snd).foldl max 0) (max ((s.tiles.pend.map Pend.till).foldl max 0) s.ltr.busyTill)

/-- The time by which every kiln and rack is done. -/
def State.uDone (s : State) : Phase :=
  max ((s.kln.busy.map Prod.snd).foldl max 0) ((s.rack.busy.map Prod.snd).foldl max 0)

/-- UNTIMED_U_START: every other stream has ended and its transfers are complete (R74). -/
def execUntimedUStart (s : State) : Host.Outcome State Fault Refusal :=
  .next (if s.sch.regime = .untimed && !s.sch.uStarted && s.running && s.streamsEnded && s.fab.be.isEmpty &&
        s.ltr.outQ.isEmpty && s.ltr.retQ.isEmpty then
      let s1 := s.advanceTo s.tilesDone
      { s1 with sch := { s1.sch with uStarted := true } }
    else s)

/-- UNTIMED_STEP_END: every U instruction has ended; the index goes up and the module is HELD (R60, R279, R290; log 63). -/
def execUntimedStepEnd (s : State) : Host.Outcome State Fault Refusal :=
  .next (if s.sch.regime = .untimed && s.sch.uStarted && s.running && s.uEnded then
      (((s.advanceTo s.uDone).endStep true true).bumpIndex).enterHeld
    else s)

/-! Digests and the verdict (R20 to R22, R62, R229, R230, R318). -/

/-- The digest of the module's ports with a job's causes (R229). -/
def State.digestNow (s : State) (second : Bool) : BitVec 480 :=
  let sum := fun (f : Fld) => ((List.range 12).map fun p => s.fld (lnkPage p) f).sum
  let crc := fun (m : SMap Reg) => (List.range 12).foldl (fun c p => c ^^^ (smGet 0 m p).toNat) 0
  digestData (min (sum LNK.TALLY_SENT) (2 ^ 64 - 1)) (min (sum LNK.TALLY_RECV) (2 ^ 64 - 1)) (crc s.fab.sentCrc)
    (crc s.fab.recvCrc) (if second then s.sch.causes2 else s.sch.causes).toNat

/-- The DIGEST channels that the module holds for a job. -/
def State.digestChannels (s : State) (second : Bool) : List Nat :=
  (s.fab.channels.filter fun e =>
    ceKind e.2.toNat = chReduction && ceOp e.2.toNat = opDigest && ceSecond e.2.toNat = second).map Prod.fst

/-- The next digest tick of each job: the second's when it is the earlier (R229, R318). -/
def State.nextDigest (s : State) : Option (Bool × Nat) :=
  let p := s.sch.img.bind fun m => m.ticks[s.sch.digested]?
  let q := s.sch.img2.bind fun m => m.ticks[s.sch.digested2]?
  match p, q with
  | some a, some b => if b < a then some (true, b) else some (false, a)
  | some a, none => some (false, a)
  | none, some b => some (true, b)
  | none, none => none

/-- Offer a digest at its tick; the last one of the primary job leaves the module waiting for the verdict (R75, R229; log 63). -/
def State.offerDigest (s : State) (second : Bool) : State :=
  let d := s.digestNow second
  let owed := (s.fab.digestOwed.filter fun c => s.chanSecond (BitVec.ofNat 16 c) != second) ++ s.digestChannels second
  let f := fun i => bitsOf d.toNat (64 * i + 63) (64 * i)
  let s0 := s.setFlds .swx [(SWX.DIGEST_SENT, f 0), (SWX.DIGEST_RECV, f 1), (SWX.DIGEST_SCRC, f 2), (SWX.DIGEST_RCRC, f 3)]
  if second then
    { s0 with fab := { s.fab with digest2 := some d, digestAt2 := s.clk.phase, digestOwed := owed },
              sch := { s.sch with digested2 := s.sch.digested2 + 1 } }
  else
    let s2 := { s0 with fab := { s.fab with digest := some d, digestAt := s.clk.phase, digestOwed := owed },
                        sch := { s.sch with digested := s.sch.digested + 1 } }
    if s.stepTick = s.fld .sch SCH.LAST_DIGEST && s.schState = schRunning then s2.enterSch schVerdict else s2

/-- DIGEST_TICK (R20, R229). -/
def execDigestTick (s : State) : Host.Outcome State Fault Refusal :=
  .next (if s.sch.regime != .timed || !s.running then s
    else match s.nextDigest with
    | some (second, tick) => (s.advanceTo (s.sch.startPhase + 4 * tick)).offerDigest second
    | none => s)

/-- What a result says: its causes, with a mismatch as cause 0 and MISSING as cause 1, and whether it balances (R230). -/
def DigestRes.judge (r : DigestRes) : Nat × Bool :=
  let f := fun i => bitsOf r.data.toNat (64 * i + 63) (64 * i)
  let balanced := f 0 = f 1 && f 2 = f 3
  (bitsOf r.data.toNat 261 256 ||| (if balanced then 0 else 1) ||| (if r.missing then 2 else 0), balanced)

/-- The verdict of the step is in hand (R62, R75, R230). -/
def State.takeVerdict (s : State) (causes : Nat) : State :=
  let ok : Bool := causes = 0
  let s1 := { s with sch := { s.sch with valid := some ok } }
  let s2 := s1.setFlds .sch [(SCH.VERDICT, causes), (SCH.STATUS_LAST_VALID, ok.toNat)]
  if ok then s2.tally .sch SCH.VALID_CNT SCH.EV_VERDICT_VALID else s2.tally .sch SCH.INVALID_CNT SCH.EV_VERDICT_INVALID

/-- The verdict of second runnings (R318, R320). -/
def State.takeVerdict2 (s : State) (causes : Nat) : State :=
  let ok : Bool := causes = 0
  let s1 := { s with sch := { s.sch with verdict2 := false } }
  let s2 := s1.setFlds .rack [(RACK.VERDICT2, causes % 64 + ok.toNat * 2 ^ 6 + 2 ^ 31), (RACK.STATUS_LAST2_VALID, ok.toNat)]
  if ok then s2 else s2.raise .rack RACK.EV_VERDICT2_INVALID

/-- A result reaches the scheduler: the first of the last digest tick, in time, decides the verdict of its job (R230, R238, R318). -/
def State.takeResult (s : State) (r : DigestRes) : State :=
  let j := r.judge
  let s1 := s.setFld .swx SWX.VERDICT_RESULT (bitsOf r.data.toNat 261 256 + r.missing.toNat * 2 ^ 6 + j.2.toNat * 2 ^ 7 + 2 ^ 31)
  let last := s.lastDigestOf r.second
  if r.second then
    if s.sch.verdict2 && 4 * last ≤ r.edge && r.tick ≤ 4 * (last + 3000) then s1.takeVerdict2 j.1 else s1
  else
    if s.sch.regime = .timed && s.sch.valid.isNone && 4 * last ≤ r.edge && r.tick ≤ 4 * (last + 3000) then
      ({ s1 with sch := { s1.sch with result := some r } }).takeVerdict j.1
    else s1

/-- DIGEST_RESULT: the result that arrives first (R230). -/
def execDigestResult (s : State) : Host.Outcome State Fault Refusal :=
  .next (match takeFirst DigestRes.tick s.sch.results with
    | none => s
    | some (r, rest) =>
      (({ s with sch := { s.sch with results := rest } }).advanceTo (s.sch.startPhase + r.tick)).takeResult r)

/-- The verdict tick that comes next: of the primary job while the step waits for it, or of second runnings (R62, R318). -/
def State.nextVerdict (s : State) : Option (Bool × Nat) :=
  let p := s.fld .sch SCH.LAST_DIGEST + 3000
  let q := s.lastDigestOf true + 3000
  let wait : Bool := s.sch.regime = .timed && (s.schState = schRunning || s.schState = schVerdict)
  if wait && !(s.sch.verdict2 && q < p) then some (false, p)
  else if s.sch.verdict2 then some (true, q) else none

/-- Every U stream is discarded unissued (R62). -/
def State.discardU (s : State) : State :=
  uFronts.foldl (fun s k => s.setFront k { s.front k with ended := true, waiting := [] }) s

/-- DIGEST_LATE: the verdict is taken with cause 1, which makes it an event of class STEP_INVALID (R230, R402). -/
def State.digestLate (s : State) : State :=
  (s.tally .swx SWX.DIGEST_LATE_CNT SWX.EV_DIGEST_LATE).tally .bst BST.STEP_INVALID_CNT BST.EV_STEP_INVALID

/-- The verdict tick of the primary job: without a result the verdict is invalid; then the commit, or HELD (R23, R62, R64,
R230). -/
def State.verdictTick (s : State) : State :=
  let s1 := if s.sch.valid.isNone then s.digestLate.takeVerdict 2 else s
  if s1.sch.valid = some true then s1.enterSch schCommit
  else
    let s2 := (s1.discardU.endStep false false).enterHeld
    if s.sch.stop then s2.enterLoaded else s2

/-- VERDICT_TICK (R62). -/
def execVerdictTick (s : State) : Host.Outcome State Fault Refusal :=
  .next (match s.nextVerdict with
    | none => s
    | some (second, tick) =>
      let s1 := s.advanceTo (s.sch.startPhase + 4 * tick)
      if second then s1.digestLate.takeVerdict2 2 else s1.verdictTick)

/-- After the commit: LOADED, or ARMED for the start of an accepted ARM or of AUTO, for which the rings fill (R57, R64). -/
def State.afterCommit (s : State) : State :=
  let go := fun tick =>
    ({ s with sch := { s.sch with armed := some (tick, true), next := none } }).fillRings.enterSch schArmed
  if s.sch.stop then s.enterLoaded
  else match s.sch.next with
    | some t => go t
    | none => if s.flag .sch SCH.CTRL_AUTO then go (s.sch.startTick + s.fld .sch SCH.STEP_PERIOD) else s.enterLoaded

/-- COMMIT_DONE: the last U occupancy of a valid step has ended (R62 to R64). -/
def execCommitDone (s : State) : Host.Outcome State Fault Refusal :=
  .next (if s.schState = schCommit && s.running && s.uEnded then
      (((s.advanceTo s.uDone).endStep true true).bumpIndex.raise .sch SCH.EV_COMMIT_DONE).afterCommit
    else s)

end Sys2Proof.Machine
end

