-- ==== Sys2Proof/Machine/Reset.lean ====
section
/-! DEFINITION. Reset scopes, FATAL faults and fault cells (R236, R332, R336, R347, R389 to R393, R402 to R404, R417, R418). -/
namespace Sys2Proof.Machine

/-! What each scope clears (R389). -/

/-- Start-up stages below READY that have a rule of their own (R394). -/
def stageAux : Nat := 0
def stageRom : Nat := 1
def stageFirmware : Nat := 2
def stageSelftest : Nat := 3
def stageTraining : Nat := 4

/-- States of a controller (R333). -/
def memOff : Nat := 0
def memTraining : Nat := 1
def memReady : Nat := 2
def memSelfRefresh : Nat := 3
def memFail : Nat := 4

/-- Whether the page of a BAR0 offset is one that a test names. -/
def addrOn (p : Page → Bool) (a : Nat) : Bool :=
  match pageAt a with
  | some q => p q
  | none => false

/-- Every register of the pages that a test names at its reset value. -/
def State.dropPages (s : State) (p : Page → Bool) : State := { s with regs := smDrop (addrOn p) s.regs }

/-- Stacks in one state go to another; a stack that failed training stays so (R332). -/
def State.stacksTo (s : State) (from_ to_ : Nat) : State :=
  (List.range 8).foldl (fun s k =>
    if s.fld (memPage k) MEM.STATUS_STATE = from_ then s.setFld (memPage k) MEM.STATUS_STATE to_ else s) s

/-- Negotiation is open again (R347). -/
def State.reopen (s : State) : State :=
  (s.setFlds .glb [(GLB.FEAT_ACCEPT, 0), (GLB.FEAT_ACTIVE, 0)]).setFld .hif HIF.STATUS_CLOSED 0

/-- No ballast, and nothing of a declaration in force (R360). -/
def State.ballastOff (s : State) : State :=
  ({ s with pwr := { s.pwr with descentAt := none, preFrom := none } }.setBallast 0).setFlds .pwr
    [(PWR.STATUS_SHAPING, 0), (PWR.STATUS_DESCENT, 0)]

/-- What the core reset clears of the fabric: the channel table, the slot-run streams (which are fronts), and what waits at the
tiles, the racks and the engines; the switches and the paths in them go on (R236). -/
def Fabric.coreCleared (f : Fabric) : Fabric :=
  { f with be := [], channels := [], msgs := [], valid := [], pooled := [], digest := none, digest2 := none, digestOwed := [],
           closed := [], slotFree := [], arrived := f.arrived.filter fun m => m.sink = .zhexal }

/-- What a core reset clears; what its units had under way goes with them (R121, R151, R182, R192, R203, R236, R260, R280, R298, R303,
R314, R332, R389, R392; log 84). -/
def State.coreClear (s : State) : State :=
  let s1 := { s with
    due := [], sch := .initial, fronts := [], tiles := .initial, coop := .initial, fab := s.fab.coreCleared, ltr := .initial,
    kln := .initial, rack := .initial, hyd := .initial }
  ((s1.dropPages coreClears).stacksTo memReady memSelfRefresh).ballastOff

/-- A page of the fabric. -/
def fabricPage : Page → Bool
  | .swx | .lnk _ => true
  | _ => false

/-- Events and counters of a page start again; its other registers stay (R236). -/
def State.clearReports (s : State) (p : Page) : State :=
  (s.clearCounters p).setFlds p [(COM.EVENT, 0), (COM.EVENT_FIRST, 0), (COM.EVENT_TIME, 0)]

/-- A fabric reset empties the switches and takes every port DOWN, each an event of R402 whose count is cleared on the port's own page;
the module loses its sources of hall time (R46, R236; log 74). -/
def State.fabricClear (s : State) : State :=
  let s1 := (List.range 12).foldl (fun s p =>
    if s.portState p = portDisabled || s.portState p = portDown then s else s.portFall p) s
  let s2 := { s1 with
    fab := { Fabric.initial with channels := s.fab.channels, valid := s.fab.valid, pooled := s.fab.pooled,
                                 arrived := s.fab.arrived },
    htm := { s1.htm with ports := smMap HtmPort.initial (fun q => { q with heard := false, goodRun := 0 }) s1.htm.ports } }
  let s3 := (List.range 12).foldl (fun s p => s.clearReports (lnkPage p)) (s2.clearReports .swx)
  if s3.htState = htLocked && !s3.isGm then s3.enterHoldover else s3

/-- Registers that lie in the schedule-state memory, which a module reset keeps (R191, R355, R403, R405). -/
def keptRegs : List Nat := [fldAddr .pwr PWR.LAST_STOP, fldAddr .bst BST.LAST_RESET, fldAddr .bst BST.FATAL_LAST]

/-- What a module reset clears; the bonded store, the fuses, the flash and the schedule-state memory stay (R46, R191, R332, R347,
R389). -/
def State.moduleClear (s : State) : State :=
  { s with
    clk := { s.clk with ht := 0, stopped := false }, due := [], regs := smDrop (fun a => !keptRegs.contains a) s.regs,
    htm := .initial, sch := .initial, fronts := [], tiles := .initial, coop := .initial, fab := .initial, ltr := .initial, kln := .initial,
    rack := .initial, hyd := .initial, mem := .initial, host := .initial,
    pwr := { Power.initial with lost := s.pwr.lost, goodSince := s.pwr.goodSince, hardStop := s.pwr.hardStop, down := s.pwr.down,
                                stopAt := s.pwr.stopAt },
    sec := { s.sec with growing := false, fsDigest := 0, zxDigest := 0, handles := [] },
    boot := { Boot.initial with perst := s.boot.perst, powerStart := s.boot.powerStart, coolFirst := s.boot.coolFirst,
                                startAt := s.clk.phase },
    pins := .initial }

/-! Resets as they arrive (R390, R391, R418). -/

/-- Codes of BST_LAST_RESET (R405). -/
def scopeModule : Nat := 1
def scopeCore : Nat := 2
def scopeFabric : Nat := 3
def scopeBoth : Nat := 4
def fromPerst : Nat := 1
def fromGlb : Nat := 2
def fromFlr : Nat := 3
def fromRestart : Nat := 4
def fromLifeCycle : Nat := 5
def fromTamper : Nat := 6

/-- BST_LAST_RESET records a reset that begins, with HT before it (R405). -/
def State.recordReset (s : State) (scope source : Nat) : State :=
  s.setFld .bst BST.LAST_RESET (scope + source * 2 ^ 4 + 2 ^ 15 + s.ht % 2 ^ 48 * 2 ^ 16)

/-- SEC_LC_NONCE takes a fresh random value (R378; log 5). -/
def State.freshNonce (s : State) : State := s.draw.2.setFld .sec SEC.LC_NONCE s.draw.1.toNat

/-- Whether a power-on reset is still in progress: its start-up has reached neither READY nor RECOVERY (R390, R391). -/
def State.powerOning (s : State) : Bool := s.boot.powerStart && s.stage < stageReady

/-- The module enters module reset, before the first stage of start-up (R389 to R391). -/
def State.moduleReset (s : State) (source : Nat) : State := ((s.recordReset scopeModule source).moduleClear).freshNonce

/-- A module reset that host software, PERST# or the security controller asks for ends a hard stop, whose start-up then waits until
the die is cool (R354); while a power-on reset runs it is absorbed (R391). -/
def State.askModuleReset (s : State) (source : Nat) : State :=
  if s.powerOning && !s.pwr.hardStop then s
  else
    let s1 := s.moduleReset source
    { s1 with pwr := { s1.pwr with hardStop := false },
              boot := { s1.boot with powerStart := false, coolFirst := s1.boot.coolFirst || s.pwr.hardStop } }

/-- A power-on reset loses the bonded store and the schedule-state memory too (R380, R389). -/
def State.powerOn (s : State) : State :=
  let s1 := s.moduleClear
  ({ s1 with regs := [], sec := { s1.sec with bonded := .initial }, pwr := .initial,
             boot := { s1.boot with powerStart := true, coolFirst := false } }).freshNonce

/-- A core reset begins, or begins again; inside a wider reset, and in the shutdown self-test, it is not taken (R391, R392, R395,
R418). -/
def State.coreReset (s : State) (scope source : Nat) (flr : Bool) : State :=
  if s.stage ≠ stageReady then s
  else
    let s1 := (s.recordReset scope source).coreClear
    { s1 with boot := { s1.boot with coreBusy := true, coreByFlr := flr } }

/-- A fabric reset begins, or begins again; a step in progress ends with the scheduler in HELD (R391, R392, R395, R418). -/
def State.fabricReset (s : State) (scope source : Nat) : State :=
  if s.stage ≠ stageReady then s
  else
    let s1 := (s.recordReset scope source).fabricClear
    let s2 := if s1.sch.regime = .none then s1 else
      let s2 := (s1.discardU.endStep false false).enterHeld
      { s2 with sch := { s2.sch with valid := none, verdict2 := false } }
    { s2 with boot := { s2.boot with fabricBusy := true } }

/-- POWER_ON: the input rises through 40.0 V after it was below 20.0 V (R390). -/
def execPowerOn (s : State) : Host.Outcome State Fault Refusal := .next s.powerOn

/-- PERST_ASSERT: PERST# has been low for 1 µs; the module stays in module reset (R390, R391; log 74). -/
def execPerstAssert (s : State) : Host.Outcome State Fault Refusal :=
  .next (
    let s1 := if s.powerOning then s.moduleClear.freshNonce else s.askModuleReset fromPerst
    { s1 with boot := { s1.boot with perst := true } })

/-- PERST_RELEASE: start-up runs from its first stage (R390). -/
def execPerstRelease (s : State) : Host.Outcome State Fault Refusal :=
  .next (if s.boot.perst then { s with boot := { s.boot with perst := false, startAt := s.clk.phase } } else s)

/-- A write to GLB_CTRL: CNT_CLR, then a module reset alone, or core and fabric resets together (R417, R418). -/
def glbCtrlWrite (w : RegW) (s : State) : State :=
  if !s.answers .glb || s.deaf then s
  else
    let s1 := onlyIf (wHits w COM.CNT_CLR) (fun s => s.clearCounters .glb) s
    let core := wHits w GLB.CTRL_CORE_RESET
    let fabric := wHits w GLB.CTRL_FABRIC_RESET
    if wHits w GLB.CTRL_MODULE_RESET then s1.askModuleReset fromGlb
    else
      let s2 := if core then s1.coreReset scopeCore fromGlb false else s1
      let s3 := if fabric then s2.fabricReset (if core then scopeBoth else scopeFabric) fromGlb else s2
      s3.watchReady s

/-- MODULE_RESET (R390). -/
def execModuleReset (w : RegW) (s : State) : Host.Outcome State Fault Refusal := .next (glbCtrlWrite w s)

/-- CORE_RESET (R390). -/
def execCoreReset (w : RegW) (s : State) : Host.Outcome State Fault Refusal := .next (glbCtrlWrite w s)

/-- FABRIC_RESET (R390). -/
def execFabricReset (w : RegW) (s : State) : Host.Outcome State Fault Refusal := .next (glbCtrlWrite w s)

/-- Every loader queue is disabled; what it was doing is abandoned (R336). -/
def State.queuesOff (s : State) : State :=
  let s1 := { s with host := { s.host with lq := [], lqNext := 0 } }
  (List.range 16).foldl (fun s q => s.setFld .hif (HIF.LQ_CTRL_ENABLE q) 0) (s1.setFld .hif HIF.STATUS_LQ_ACTIVE 0)

/-- FLR: a core reset, the loader queues, and the negotiation (R336, R347). -/
def execFlr (s : State) : Host.Outcome State Fault Refusal :=
  .next (if s.stage ≠ stageReady then s
    else ((s.coreReset scopeCore fromFlr true).queuesOff.reopen).watchReady s)

/-- CORE_DONE: the core reset completes: stacks leave self-refresh, and the tiles get ready from now (R192, R332, R390). -/
def execCoreDone (s : State) : Host.Outcome State Fault Refusal :=
  .next (if s.boot.coreBusy then
      let s1 := { s with boot := { s.boot with coreBusy := false, coreByFlr := false },
                         tiles := { s.tiles with readyAt := some s.clk.phase } }
      let s2 := (s1.stacksTo memSelfRefresh memReady).tally .bst BST.CORE_RESET_CNT BST.EV_CORE_DONE
      if s.boot.coreByFlr then s2.raise .hif HIF.EV_FLR else s2
    else s)

/-- Every port whose ENABLE is set starts training, and any other is DISABLED (R236). -/
def State.trainPorts (s : State) : State :=
  (List.range 12).foldl (fun s p =>
    if s.flag (lnkPage p) LNK.CTRL_ENABLE then s.portTrain p else s.portDisable p) s

/-- FABRIC_DONE: the switches are ready, the ports train at once and the core goes on (R236, R390). -/
def execFabricDone (s : State) : Host.Outcome State Fault Refusal :=
  .next (if s.boot.fabricBusy then
      ({ s with boot := { s.boot with fabricBusy := false } }.trainPorts).tally .bst BST.FABRIC_RESET_CNT BST.EV_FABRIC_DONE
    else s)

/-! FATAL faults (R353, R354, R402 to R404). -/

/-- Codes of BST_FATAL_LAST (R369, R404). -/
def fatalTamper : Nat := 7
def fatalWipe : Nat := 8

/-- The fault cell of a port (R404). -/
def State.faultCell (s : State) (cause p : Nat) : FCell :=
  let data := s.hallId + p * 2 ^ 16 + cause % 16 * 2 ^ 24 + s.ht % 2 ^ 64 * 2 ^ 32
  mkCell kBeHead 0 0 false (s.fld (lnkPage p) LNK.PEER % 2 ^ 16 + 0x80 * 2 ^ 16 + data * 2 ^ 160)

/-- One fault cell on each ADMITTED port (R404). -/
def State.sendFaultCells (s : State) (cause : Nat) : State :=
  ((List.range 12).filter fun p => s.portState p = portAdmitted).foldl (fun t p => t.send (.faultCell p (s.faultCell cause p))) s

/-- A FATAL fault: fault cells, BST_FATAL_LAST, the module held in module reset, with a nonce never shown before, and ALERT# low until the
reset that follows (R353, R378, R403, R404). -/
def State.fatal (s : State) (cause : Nat) : State :=
  let s1 := ((s.sendFaultCells cause).setFld .bst BST.FATAL_LAST (cause + 2 ^ 15 + s.ht % 2 ^ 48 * 2 ^ 16)).moduleClear.freshNonce
  { s1 with pins := { s1.pins with fatalAlert := true }, boot := { s1.boot with powerStart := false } }

/-- PWR_LAST_STOP, written in full (R355, R369). -/
def State.lastStop (s : State) (cause unit ht : Nat) : State :=
  s.setFld .pwr PWR.LAST_STOP (cause + unit * 2 ^ 4 + 2 ^ 15 + ht % 2 ^ 48 * 2 ^ 16)

/-- A cause of R353 or R354 stops the module; of several causes in one SCLK cycle PWR_LAST_STOP keeps the first in the order of
their codes; a module whose wipe has failed stays as it is (R353 to R355, R381). -/
def State.stopFor (s : State) (cause unit : Nat) : State :=
  if s.deaf then s
  else if s.pwr.down || s.pwr.hardStop then
    if s.pwr.stopAt = s.sclk && cause < s.fld .pwr PWR.LAST_STOP_CAUSE then
      let ht := s.fld .pwr PWR.LAST_STOP_HT
      let s1 := (s.lastStop cause unit ht).setFld .bst BST.FATAL_LAST (cause + 2 ^ 15 + ht * 2 ^ 16)
      if cause ≤ 2 then { s1 with pwr := { s1.pwr with down := true, hardStop := false } } else s1
    else s
  else
    let s1 := (s.lastStop cause unit s.ht).fatal cause
    { s1 with pwr := { s1.pwr with down := cause ≤ 2, hardStop := cause > 2, stopAt := s.sclk } }

/-- Code and place of a cause of R354 (R369). -/
def StopCause.code : StopCause → Nat × Nat
  | .inputCurrent => (3, 0)
  | .zoneCurrent z => (4, z.val)
  | .dieTemp _ => (5, 0)
  | .stackTemp k => (6, k.val)

/-- HARD_STOP (R354, R355). -/
def execHardStop (c : StopCause) (s : State) : Host.Outcome State Fault Refusal :=
  .next (s.stopFor (StopCause.code c).1 (StopCause.code c).2)

/-- The first message that waits for Zhexal is taken. -/
def State.takeZhexal (s : State) : State :=
  match findIdx (fun (m : Msg) => m.sink == .zhexal) s.fab.arrived with
  | some r => { s with fab := { s.fab with arrived := s.fab.arrived.eraseIdx r.1 } }
  | none => s

/-- FAULT_CELL_RX: a peer's fault cell, which Zhexal records when it holds none (R404). -/
def execFaultCellRx (p : Fin 12) (data : BitVec 320) (s : State) : Host.Outcome State Fault Refusal :=
  .next (if s.stage < stageFirmware || s.stage = stageRecovery then s
    else
      let d := data.toNat
      let s1 := s.takeZhexal.tally .bst BST.PEER_FAULT_CNT BST.EV_PEER_FAULT
      if s.flag .bst BST.PEER_FAULT_VALID then s1 else
        s1.setFlds .bst [(BST.PEER_FAULT_SRC_HALL, d % 2 ^ 16), (BST.PEER_FAULT_PORT, bitsOf d 19 16),
          (BST.PEER_FAULT_LOCAL_PORT, p.val), (BST.PEER_FAULT_CAUSE, bitsOf d 27 24), (BST.PEER_FAULT_VALID, 1)])

/-- Whether ALERT# is driven low (R403). -/
def State.alertLow (s : State) : Bool :=
  s.pins.fatalAlert || (s.flag .bst BST.CTRL_ALERT_DEGRADED && bitOf (s.fld .bst COM.EVENT) BST.EV_DEGRADED)

end Sys2Proof.Machine
end

