-- ==== Sys2Proof/Machine/Boot.lean ====
section
/-! DEFINITION. Start-up, the shutdown self-test and its record (R332, R348, R375, R383 to R385, R394 to R401, R405, R429). -/
namespace Sys2Proof.Machine

/-! Flash (R373, R398). -/

/-- A byte of flash. -/
def State.flashByte (s : State) (a : Nat) : Byte := smGet (Config.factoryFlash a) s.sec.flash a

/-- `n` bytes of flash. -/
def State.flashGet (s : State) (a n : Nat) : List Byte := (List.range n).map fun i => s.flashByte (a + i)

/-- A little-endian number in flash. -/
def State.flashNat (s : State) (a n : Nat) : Nat := leNat (s.flashGet a n)

/-- Bytes put into flash. -/
def flashPut (m : SMap Byte) (a : Nat) : List Byte → SMap Byte
  | [] => m
  | b :: t => flashPut (smPut m a b) (a + 1) t

/-- Store bytes to flash. -/
def State.flashSet (s : State) (a : Nat) (data : List Byte) : State :=
  { s with sec := { s.sec with flash := flashPut s.sec.flash a data } }

/-! Firmware (R374, R375, R383). -/

/-- Length of a signature block and of a firmware header (R373, R374). -/
def sigLen : Nat := 3080
def headerLen : Nat := 4096

/-- Where a slot begins. -/
def slotBase (slot : Nat) : Nat := slot * 0x0100_0000

/-- Bytes of an image in flash: header and body. -/
def State.imageBytes (s : State) (a : Nat) : List Byte := s.flashGet a (headerLen + s.flashNat (a + 8) 4)

/-- Most bytes of a body (R374). -/
def bodyLimit : Nat := 16773120

/-- Whether flash holds the header of an image of a stage: its MAGIC, STAGE, SVN and LENGTH are in range and its other bytes 0 (R374). -/
def State.headerOk (s : State) (stage a : Nat) : Bool :=
  s.flashNat a 4 = 0x4C58_485A && s.flashNat (a + 4) 1 = stage && s.flashNat (a + 5) 1 ≤ 64 && s.flashNat (a + 8) 4 ≤ bodyLimit &&
  s.flashNat (a + 12) 4 = 0 && (s.flashGet (a + 0xC48) 0x3B8).all fun b => b = 0

/-- Whether an image of a stage at a flash address passes the test of R375; with 64 bits of SVN programmed only SVN 64 does (R376). -/
def State.firmwareOk (s : State) (stage a : Nat) : Bool :=
  s.headerOk stage a &&
  sigVerifies Config.trellekEcdsa Config.trellekLms (s.flashGet (a + 0x40) sigLen) (s.flashGet a 0x40) &&
  s.flashGet (a + 0x10) 48 = digestBytes (sha384 ((s.imageBytes a).drop headerLen)) &&
  s.sec.otp.svn.val ≤ s.flashNat (a + 5) 1 && bitOf (s.flashNat (a + 6) 2) s.sec.otp.lc

/-- Where a slot holds its Zhexal image (log 65). -/
def State.zhexalAt (s : State) (slot : Nat) : Nat := slotBase slot + Config.zhexalPlace (s.flashNat (slotBase slot + 8) 4)

/-- Whether a slot passes, first stage and Zhexal (R375); SCRAPPED permits RECOVERY only (R377). -/
def State.slotOk (s : State) (slot : Nat) : Bool :=
  s.sec.otp.lc < lcScrapped && s.firmwareOk 1 (slotBase slot) && s.firmwareOk 2 (s.zhexalAt slot)

/-- A slot's firmware runs: its measurements, and the DICE secrets that follow from them (R383). -/
def State.runSlot (s : State) (slot : Nat) : State :=
  let fs := sha384 (s.imageBytes (slotBase slot))
  let cdi0 := hmac384 Config.uds (digestBytes Config.romMeasure ++ [BitVec.ofNat 8 s.sec.otp.lc])
  let s1 := { s with sec := { s.sec with
    fsDigest := fs, zxDigest := sha384 (s.imageBytes (s.zhexalAt slot)),
    bonded := { s.sec.bonded with cdi0 := cdi0, cdi1 := Config.nextCdi cdi0 fs } } }
  (s1.setFlds .sec [(SEC.STATUS_SLOT, slot), (SEC.SVN_RUNNING, s.flashNat (slotBase slot + 5) 1)]).setFld .bst BST.STATUS_STAGE
    stageFirmware

/-- Whether something holds the module before the first stage of start-up (R353, R354, R381, R382, R390). -/
def State.startHeld (s : State) : Bool :=
  s.boot.perst || s.pwr.down || s.pwr.hardStop || s.boot.coolFirst || s.flag .sec SEC.STATUS_TAMPER_HOLD || s.deaf

/-- AUX_RAILS_UP: the straps are sampled and verification begins (R394, R429). -/
def execAuxRailsUp (addr0 addr1 addr2 : Fin 3) (s : State) : Host.Outcome State Fault Refusal :=
  .next (if s.stage ≠ stageAux || s.startHeld then s
    else ({ s with boot := { s.boot with straps := addr0.val + 3 * addr1.val + 9 * addr2.val, trySlot := 0 } }).setFld .bst
      BST.STATUS_STAGE stageRom)

/-- The 7-bit SMBus address (R429). -/
def State.smbusAddr (s : State) : Nat := if s.boot.straps < 16 then 0x40 + s.boot.straps else 0x50

/-- BOOT_VERIFY: the verification of a slot completes (R375). -/
def execBootVerify (s : State) : Host.Outcome State Fault Refusal :=
  .next (if s.stage ≠ stageRom then s
    else
      let slot := s.boot.trySlot
      if s.slotOk slot then s.runSlot slot
      else
        let s1 := s.tally .sec SEC.BOOT_FAIL_CNT SEC.EV_BOOT_FAIL
        if slot = 0 then { s1 with boot := { s1.boot with trySlot := 1 } }
        else (s1.setFld .sec SEC.STATUS_RECOVERY 1).setFld .bst BST.STATUS_STAGE stageRecovery)

/-! The record of the self-test (R398, R399). -/

/-- The sector of the record. -/
def recordAt : Nat := 0x0300_0000

/-- MAGIC of the record. -/
def recordMagic : Nat := 0x5453_5442

/-- The sector reads 0xFF throughout. -/
def State.recordErased (s : State) : Bool := (s.flashGet recordAt 4096).all fun b => b = 0xFF

/-- The MAC of a record over its first 0x70 bytes, CONSUMED read as 0xFF. -/
def State.recordMac (s : State) (b : List Byte) : List Byte :=
  digestBytes (hmac384 (Config.recordKey s.sec.bonded.cdi0) (b.take 5 ++ [0xFF] ++ (b.drop 6).take 0x6A))

/-- Whether the sector holds a valid record (R399). -/
def State.recordValid (s : State) : Bool :=
  let b := s.flashGet recordAt 0xA0
  imNat b 0 4 = recordMagic && imNat b 4 1 = 1 && imNat b 5 1 = 0xFF && imNat b 8 8 = Config.serial.toNat &&
  (b.drop 0x18).take 48 = digestBytes s.sec.zxDigest && (b.drop 0x70).take 48 = s.recordMac b

/-- CONSUMED of the record is programmed to 0 (R400). -/
def State.consumeRecord (s : State) : State := s.flashSet (recordAt + 5) [0]

/-! Results (R397, R401, R402). -/

/-- The result bit of a block: a set bit sets FAILED and is a DEGRADED event (R397, R401, R402). -/
def State.blockResult (s : State) (b : Nat) (failed : Bool) : State :=
  let f := BST.RESULT (b / 64)
  let v := s.fld .bst f
  let s1 := s.setFld .bst f (v - (bitOf v (b % 64)).toNat * 2 ^ (b % 64) + failed.toNat * 2 ^ (b % 64))
  if failed then (s1.setFld .bst BST.STATUS_FAILED 1).degraded else s1

/-- RESULT bits 0 to 141 of a record are taken over (R400). -/
def State.takeResults (s : State) (result : Nat) : State :=
  (List.range 142).foldl (fun s b => if bitOf result b then s.blockResult b true else s) s

/-! Stage 2 (R394, R400, R403). -/

/-- Level-1 indices of the LMS identity (R384). -/
def lms1Size : Nat := 4096

/-- A start without a level-2 tree takes the next level-1 index and generates one (R384, R385). -/
def State.coldBoot (s : State) : State :=
  if s.sec.bonded.leaf.isSome then s
  else if s.sec.otp.lms1 = lms1Size then (s.setFld .sec SEC.STATUS_LMS_EXHAUSTED 1).degraded
  else { s with sec := { s.sec with otp := { s.sec.otp with lms1 := s.sec.otp.lms1 + 1 }, growing := true } }

/-- LMS1_LOW at each start with fewer than 64 bits left (R385). -/
def State.lmsLow (s : State) : State :=
  if lms1Size - s.sec.otp.lms1 < 64 then (s.raise .sec SEC.EV_LMS1_LOW).degraded else s

/-- Stage 4 begins: the stacks and the ports train (R236, R332, R394). -/
def State.enterTraining (s : State) : State :=
  State.setFld ((List.range 8).foldl (fun (s : State) k => s.setFld (memPage k) MEM.STATUS_STATE memTraining)
    ({ s with boot := { s.boot with trained := [] } }.trainPorts)) .bst BST.STATUS_STAGE stageTraining

/-- Every zone goes to a point at once, within the stage (R394, R396). -/
def State.zonesTo (s : State) (op : Nat) : State := (s.moveZones fun _ => op).settleZones

/-- The blocks are tested from the first on (R396, R400). -/
def State.startBlocks (s : State) : State :=
  ({ s with boot := { s.boot with nextBlock := 0, testAt := s.clk.phase } }.zonesTo 1).setFld .bst BST.STATUS_BLOCK 0

/-- FIRMWARE_START: Zhexal runs and judges the record (R384, R385, R394, R399, R400, R403). -/
def execFirmwareStart (s : State) : Host.Outcome State Fault Refusal :=
  .next (if s.stage ≠ stageFirmware then s
    else
      let s1 := s.coldBoot.lmsLow
      let s2 := if s1.flag .bst BST.FATAL_LAST_VALID then s1.raise .bst BST.EV_FATAL_LOGGED else s1
      if s2.recordValid then
        let s3 := (s2.takeResults (s2.flashNat (recordAt + 0x48) 24)).setFlds .bst
          [(BST.STATUS_RECORD_USED, 1), (BST.RECORD, s2.flashNat (recordAt + 0x10) 8)]
        s3.consumeRecord.enterTraining
      else
        let s3 := if s2.recordErased then s2 else s2.tally .bst BST.RECORD_BAD_CNT BST.EV_RECORD_BAD
        (s3.setFlds .bst [(BST.STATUS_TEST_AT_START, 1), (BST.STATUS_STAGE, stageSelftest)]).startBlocks)

/-! The blocks (R396, R397). -/

/-- Number of blocks that the self-test tests. -/
def testBlocks : Nat := 142

/-- Keys of a tile in the stores of the tiles. -/
def State.clearTile (s : State) (t : Nat) : State :=
  let own : Nat → Nat → Bool := fun n key => key / n = t
  let x := s.tiles
  let y : Tiles := ⟨smDrop (own spadSize) x.spad, smDrop (own spadSize) x.spadPoison, smDrop (own 4096) x.desc,
    smDrop (own 2048) x.acc, smDrop (own 1) x.arr, smDrop (own 16) x.busy, x.pend, smDrop (own 2) x.drainEnd,
    smDrop (own 16) x.banks, smDrop (own 16) x.bankWait, x.readyAt, x.waking⟩
  let front : Nat → Bool := fun key => key < 512 && key / 4 = t
  let s1 := { s with tiles := y, fronts := smDrop front s.fronts }
  s1.dropPages fun p =>
    match p with
    | .tctl q | .tarr q | .tvec q | .tmil q | .tspd q => q.val = t
    | _ => false

/-- A kiln and its rack are as a core reset leaves them. -/
def State.clearKiln (s : State) (k : Nat) : State :=
  let own : Nat → Nat → Bool := fun n key => key / n = k
  let x := s.kln
  let r := s.rack
  let y : Kilns := ⟨smDrop (own 4096) x.shard, smDrop (own 4096) x.hyper, smDrop (own 4096) x.hyperActive,
    smDrop (own 4096) x.handed, x.ctrlQ, smDrop (own 1) x.busy, x.updated⟩
  let z : Racks := ⟨r.epoch, smDrop (own 64) r.tab, r.drain, smDrop (own 64) r.open_,
    smDrop (fun key => key / 2 ^ 32 / 64 = k) r.chunks, r.queue, r.bumped, smDrop (own 1) r.busy⟩
  let s1 := { s with kln := y, rack := z }
  s1.dropPages fun p =>
    match p with
    | .kln q => q.val = k
    | _ => false

/-- The ports of an edge switch go DOWN and stay DISABLED (R396). -/
def State.testPorts (s : State) (east : Bool) : State :=
  ((List.range 12).filter fun p => portEast p = east).foldl (fun s p =>
    (if s.portState p = portDisabled then s else s.portFall p).portDisable p) s

/-- A page of one block beside the tiles and kilns. -/
def blockPage (b : Nat) (p : Page) : Bool := (b = 136 && p = .ltr) || (b = 137 && p = .coop) || (b = 138 && p = .hyd)

/-- A block is initialised again after its test, as a core or fabric reset would (R396, R397); the test of block 141 leaves the time
unit DISABLED, and in the shutdown self-test HT stopped. -/
def State.initBlock (s : State) (b : Nat) : State :=
  if b < 128 then s.clearTile b
  else if b < 136 then s.clearKiln (b - 128)
  else if b = 136 then ({ s with ltr := .initial }).dropPages (blockPage b)
  else if b = 137 then ({ s with coop := .initial }).dropPages (blockPage b)
  else if b = 138 then ({ s with hyd := .initial }).dropPages (blockPage b)
  else if b = 139 then s.testPorts false
  else if b = 140 then s.testPorts true
  else
    let s1 := (htmStop s).setFld .htm HTM.CTRL_ENABLE 0
    { s1 with clk := { s1.clk with stopped := s.stage = stageShutdown } }

/-- Milliseconds between two phases. -/
def msBetween (a b : Phase) : Nat := (b - a) / 4000000

/-- SELFTEST_BLOCK_DONE: the block under test is done, at a start or in the shutdown self-test (R396, R397, R400, R401). -/
def execSelftestBlockDone (r : TestResult) (s : State) : Host.Outcome State Fault Refusal :=
  .next (if !((s.stage = stageSelftest || s.stage = stageShutdown) && s.boot.nextBlock < testBlocks) then s
    else
      let b := s.boot.nextBlock
      let s1 := (s.initBlock b).blockResult b (r = .fail)
      let s2 := ({ s1 with boot := { s1.boot with nextBlock := b + 1 } }).setFld .bst BST.STATUS_BLOCK (min (b + 1) (testBlocks - 1))
      let s3 := if b + 1 = testBlocks && s.stage = stageSelftest then
          ((s2.zonesTo 0).setFlds .bst [(BST.START_TIME_SELFTEST_MS, min 65535 (msBetween s.boot.testAt s.clk.phase)),
            (BST.STATUS_BLOCK, 0)]).enterTraining
        else s2
      s3.watchReady s)

/-! Training and READY (R332, R347, R348, R394). -/

/-- HBM_TRAINING_DONE: a stack's training completes or fails (R332). -/
def execHbmTrainingDone (k : Fin 8) (r : TestResult) (s : State) : Host.Outcome State Fault Refusal :=
  .next (if s.fld (.mem k) MEM.STATUS_STATE ≠ memTraining then s
    else
      let s1 := { s with boot := { s.boot with trained := s.boot.trained ++ [k.val] } }
      match r with
      | .pass => s1.setFld (.mem k) MEM.STATUS_STATE memReady
      | .fail => (((s1.setFld (.mem k) MEM.STATUS_STATE memFail).raise (.mem k) MEM.EV_TRAIN_FAIL).degraded).blockResult
          (142 + k.val) true)

/-- The features that the module offers (R348). -/
def State.offer (s : State) : Nat :=
  0xFFFF - (if s.flag .bst BST.STATUS_FAILED then 1 else 0) - (if s.ownerOn || s.signedForced then 0 else 2 ^ 13)

/-- READY: every stack has trained or failed; the module reset is complete, the tiles get ready from now (R192, R347, R348, R390,
R394; log 74). -/
def execReady (s : State) : Host.Outcome State Fault Refusal :=
  .next (if !(s.stage = stageTraining && s.boot.trained.length = 8) then s
    else
      let s1 := { s with boot := { s.boot with powerStart := false }, tiles := { s.tiles with readyAt := some s.clk.phase } }
      ((s1.setFlds .bst [(BST.STATUS_STAGE, stageReady),
        (BST.START_TIME_READY_MS, min 65535 (msBetween s.boot.startAt s.clk.phase))]).setFld .glb GLB.FEAT_OFFER s1.offer).raise
        .bst BST.EV_READY)

/-! The shutdown self-test (R395, R396, R398). -/

/-- The halt of the shutdown self-test: stacks in self-refresh, zones at OP1, the record sector erased (R396; log 64). -/
def State.halt (s : State) : State :=
  let prev := if s.flashNat recordAt 4 = recordMagic then s.flashNat (recordAt + 0x10) 8 else 0
  let s1 := (s.ballastOff.stacksTo memReady memSelfRefresh).flashSet recordAt (List.replicate 4096 0xFF)
  ({ s1 with boot := { s1.boot with prevSeq := prev } }.setFld .bst BST.STATUS_STAGE stageShutdown).startBlocks

/-- A write of 1 to SHUTDOWN (R395; log 64). -/
def State.shutdown (s : State) : State :=
  if s.stage = stageReady && [schEmpty, schLoaded, schHeld].contains s.schState then s.halt
  else s.tally .bst BST.CMD_IGNORED_CNT BST.EV_CMD_IGNORED

/-- A write of 1 to RETEST (R400). -/
def State.retest (s : State) : State := if s.stage = stageReady && s.recordValid then s.consumeRecord else s

/-- What BST_CTRL does beside CNT_CLR and its stored bit (R395, R400). -/
def bstCtrl (w : RegW) (s : State) : State :=
  onlyIf (wHits w BST.CTRL_RETEST) State.retest (onlyIf (wHits w BST.CTRL_SHUTDOWN) State.shutdown s)

/-- A write to BST_CTRL. -/
def bstCtrlWrite (w : RegW) (s : State) : State := ctrlWrite s .bst w (bstCtrl w)

/-- SHUTDOWN (R395). -/
def execShutdown (w : RegW) (s : State) : Host.Outcome State Fault Refusal := .next (bstCtrlWrite w s)

/-- RETEST (R400). -/
def execRetest (w : RegW) (s : State) : Host.Outcome State Fault Refusal := .next (bstCtrlWrite w s)

/-- The record of a test (R398). -/
def State.recordBytes (s : State) : List Byte :=
  let result := (s.fld .bst (BST.RESULT 0)) + s.fld .bst (BST.RESULT 1) * 2 ^ 64 + s.fld .bst (BST.RESULT 2) * 2 ^ 128
  let b := leBytes 4 recordMagic ++ [1, 0xFF, 0, 0] ++ leBytes 8 Config.serial.toNat ++ leBytes 8 (s.boot.prevSeq + 1) ++
    digestBytes s.sec.zxDigest ++ leBytes 24 (result % 2 ^ 150) ++ leBytes 4 (msBetween s.boot.testAt s.clk.phase) ++
    List.replicate 12 0
  b ++ s.recordMac b

/-- SELFTEST_RECORD_WRITE: after the last block the record is written and the module stays halted (R396, R398). -/
def execSelftestRecordWrite (s : State) : Host.Outcome State Fault Refusal :=
  .next (if !(s.stage = stageShutdown && s.boot.nextBlock = testBlocks) then s
    else ((s.flashSet recordAt s.recordBytes).setFlds .bst
      [(BST.STATUS_STAGE, stageDone), (BST.RECORD, s.boot.prevSeq + 1), (BST.STATUS_BLOCK, 0)]).raise .bst BST.EV_SHUTDOWN_DONE)

end Sys2Proof.Machine
end

