-- ==== Sys2Proof/Machine/Power.lean ====
section
/-! DEFINITION. The input, the zone rails, temperature, and telemetry over PMBus (R351 to R355, R358, R363 to R371). -/
namespace Sys2Proof.Machine

/-! The input (R351 to R355). -/

/-- Phases in a microsecond and in a millisecond. -/
def usPhases : Nat := 4000
def msPhases : Nat := 4000000

/-- Whether the module is held in module reset by a stop of R353 or R354. -/
def State.stopped (s : State) : Bool := s.pwr.down || s.pwr.hardStop

/-- The under-voltage warning begins: below 39.0 V (R352). -/
def State.uvBegin (s : State) (v : Nat) : State :=
  let s1 := { s with pwr := { s.pwr with dipFrom := some (s.clk.phase, v) }, pins := { s.pins with uvSeen := true } }
  ((s1.setFld .pwr PWR.STATUS_UV_WARN 1).raise .pwr PWR.EV_UV_WARN).degraded

/-- The under-voltage warning ends at 40.0 V: the dip is counted and recorded (R352). -/
def State.uvEnd (s : State) : State :=
  let d := s.pwr.dipFrom.getD (s.clk.phase, 0)
  let s1 := { s with pwr := { s.pwr with dipFrom := none } }
  ((s1.setFld .pwr PWR.STATUS_UV_WARN 0).setFlds .pwr [(PWR.DIP_LAST_DURATION, (s.clk.phase - d.1) / usPhases),
    (PWR.DIP_LAST_MIN, d.2), (PWR.DIP_LAST_VALID, 1)]).tally .pwr PWR.DIP_CNT PWR.EV_DIP_END

/-- The over-voltage warning begins: above 58.0 V (R352). -/
def State.ovBegin (s : State) : State :=
  (({ s with pins := { s.pins with ovSeen := true } }.setFld .pwr PWR.STATUS_OV_WARN 1).tally .pwr PWR.OV_WARN_CNT
    PWR.EV_OV_WARN).degraded

/-- The warnings of R352 at a sample. -/
def State.inputWarn (s : State) (v : Nat) : State :=
  let s1 :=
    if s.flag .pwr PWR.STATUS_UV_WARN then
      if 4000 ≤ v then s.uvEnd
      else { s with pwr := { s.pwr with dipFrom := s.pwr.dipFrom.map fun d => (d.1, min d.2 v) } }
    else if v < 3900 then s.uvBegin v else s
  if s1.flag .pwr PWR.STATUS_OV_WARN then if v ≤ 5700 then s1.setFld .pwr PWR.STATUS_OV_WARN 0 else s1
  else if 5800 < v then s1.ovBegin else s1

/-- Input current above 63.0 A for more than 20 µs (R354). -/
def State.inputCurrent (s : State) (i : Nat) : State :=
  if i ≤ 6300 then { s with pwr := { s.pwr with inOverFrom := none } }
  else
    let t := s.pwr.inOverFrom.getD s.clk.phase
    let s1 := { s with pwr := { s.pwr with inOverFrom := some t } }
    if s.clk.phase > t + 20 * usPhases then s1.stopFor 3 0 else s1

/-- INPUT_SAMPLE: a sample of the input, in 10 mV and 10 mA (R351 to R354; log 67). -/
def execInputSample (v : BitVec 16) (i : BitVec 16) (s : State) : Host.Outcome State Fault Refusal :=
  .next (
    let n := v.toNat
    let good := 4000 ≤ n && n ≤ 5600
    let s1 := { s with pwr := { s.pwr with
      lost := s.pwr.lost || n < 2000, goodSince := if good then some (s.pwr.goodSince.getD s.clk.phase) else none } }
    let s2 := s1.setFlds .pwr [(PWR.VIN, n), (PWR.IIN, i.toNat)]
    let s3 := if n < 3500 then s2.stopFor 1 0 else if 6000 < n then s2.stopFor 2 0 else s2
    let s4 := s3.inputCurrent i.toNat
    if s.deaf then s1 else if s4.stopped then s4 else s4.inputWarn n)

/-- Whether PWR_WARN# is driven low (R352). -/
def State.warnLow (s : State) : Bool := s.flag .pwr PWR.STATUS_UV_WARN || s.flag .pwr PWR.STATUS_OV_WARN

/-- POWER_RESTART: the input has stayed within 40.0 to 56.0 V for 100 ms: start-up runs as after a module reset, or as a power-on
reset when the input was below 20.0 V (R353, R390). -/
def execPowerRestart (s : State) : Host.Outcome State Fault Refusal :=
  let rested := match s.pwr.goodSince with
    | some t => t + 100 * msPhases ≤ s.clk.phase
    | none => false
  .next (if !(s.pwr.down && rested) then s
    else if s.pwr.lost then s.powerOn
    else
      let s1 := { s with pwr := { s.pwr with down := false }, pins := { s.pins with fatalAlert := false },
                         boot := { s.boot with startAt := s.clk.phase } }
      (s1.recordReset scopeModule fromRestart).freshNonce)

/-! Zone limits (R358, R363, R364). -/

/-- Nominal rail of a point in mV (R12). -/
def railNominal : Nat → Nat
  | 0 => 750 | 1 => 620 | 2 => 550 | _ => 0

/-- Difference of two numbers. -/
def gap (a b : Nat) : Nat := max a b - min a b

/-- A limit of a zone is exceeded: ZONE_LIMIT is entered, and the time for R364's 1 ms starts again. -/
def State.zoneLimit (s : State) (z kind neighbour : Nat) : State :=
  let p := znPage z
  let s1 := { s with pwr := { s.pwr with limitAt := smSet 0 s.pwr.limitAt z s.clk.phase } }
  let s2 := if s1.flag p ZN.LIMIT_FIRST_VALID then s1 else
    s1.setFld p ZN.LIMIT_FIRST (kind + neighbour * 2 ^ 4 + 2 ^ 15 + s.ht % 2 ^ 48 * 2 ^ 16)
  if s2.flag p ZN.STATUS_LIMIT then s2
  else ((s2.setFld p ZN.STATUS_LIMIT 1).tally p ZN.LIMIT_CNT ZN.EV_ZONE_LIMIT).degraded

/-- Adjacent powered zones between which a measure exceeds a limit both have the fault (R363, R364). -/
def State.pairLimit (s : State) (kind : Nat) (bad : Nat → Nat → Bool) : State :=
  zonePairs.foldl (fun s (q : Nat × Nat) =>
    if s.zoneOp q.1 ≠ 3 && s.zoneOp q.2 ≠ 3 && bad q.1 q.2 then (s.zoneLimit q.1 kind q.2).zoneLimit q.2 kind q.1 else s) s

/-- Whether the zone limits are sensed: not while a self-test runs (R396). -/
def State.sensing (s : State) : Bool := s.stage ≠ stageSelftest && !s.testing

/-- A zone's rail against its nominal value: outside ±10 mV for 10 µs is a fault; a zone that is OFF or in transition is not held
to one (R362 to R364; log 67). -/
def State.railCheck (s : State) (z mv : Nat) : State :=
  let nom := railNominal (s.zoneOp z)
  let bad : Bool := s.sensing && s.zoneOp z ≠ 3 && !s.flag (znPage z) ZN.STATUS_TRANS && gap mv nom > 10
  let t := smGet (s.clk.phase + 1) s.pwr.railBadFrom z
  if !bad then { s with pwr := { s.pwr with railBadFrom := smDel s.pwr.railBadFrom z } }
  else
    let from_ := min t s.clk.phase
    let s1 := { s with pwr := { s.pwr with railBadFrom := smPut s.pwr.railBadFrom z from_ } }
    if s.clk.phase ≥ from_ + 10 * usPhases then s1.zoneLimit z 0 0 else s1

/-- A zone's current: above twice its limit for more than 5 µs stops the module (R354, R358). -/
def State.currentCheck (s : State) (z da : Nat) : State :=
  let bad : Bool := s.zoneOp z ≠ 3 && da > 2 * peakLimit (s.zoneOp z)
  if !bad then { s with pwr := { s.pwr with railOverFrom := smDel s.pwr.railOverFrom z } }
  else
    let from_ := min (smGet (s.clk.phase + 1) s.pwr.railOverFrom z) s.clk.phase
    let s1 := { s with pwr := { s.pwr with railOverFrom := smPut s.pwr.railOverFrom z from_ } }
    if s.clk.phase > from_ + 5 * usPhases then s1.stopFor 4 z else s1

/-- ZONE_RAIL_SAMPLE: a sample of every zone rail, in mV and 0.1 A (R354, R364, R371). -/
def execZoneRailSample (mv : List Nat) (da : List Nat) (s : State) : Host.Outcome State Fault Refusal :=
  .next (
    let s1 := (List.range 8).foldl (fun s z =>
      (s.setFld (znPage z) ZN.STATUS_RAIL (mv.getD z 0)).setFld (znPage z) ZN.IRAIL (da.getD z 0)) s
    let s2 := (List.range 8).foldl (fun s z => s.railCheck z (mv.getD z 0)) s1
    let far := fun a b => s.sensing && gap (mv.getD a 0) (mv.getD b 0) > 150
    let s3 := s2.pairLimit 1 far
    ((List.range 8).foldl (fun s z => s.currentCheck z (da.getD z 0)) s3).watchReady s)

/-- ZONE_LIMIT_CLEAR: 1 ms has passed with no limit exceeded (R364). -/
def execZoneLimitClear (z : Fin 8) (s : State) : Host.Outcome State Fault Refusal :=
  .next (if s.flag (.zn z) ZN.STATUS_LIMIT && s.clk.phase ≥ smGet 0 s.pwr.limitAt z.val + msPhases then
      s.setFld (.zn z) ZN.STATUS_LIMIT 0
    else s)

/-! Temperature, in 1/16 °C (R354, R364 to R367, R370). -/

/-- A temperature in whole degrees. -/
def deg (n : Int) : Int := 16 * n

/-- The highest of some readings. -/
def hottest (xs : List Int) : Int := xs.foldl max (xs.headD 0)

/-- HOT is set and cleared (R366). -/
def State.hotCheck (s : State) (die stks : List Int) : State :=
  let s1 := s.setFld .thm THM.STATUS_STACK_HOT (stks.any fun t => t ≥ deg 90).toNat
  if s1.flag .thm THM.STATUS_HOT then
    if (die.all fun t => t ≤ deg 95) && (stks.all fun t => t ≤ deg 85) then
      (s1.setFld .thm THM.STATUS_HOT 0).raise .thm THM.EV_HOT_CLEAR
    else s1
  else if (die.any fun t => t ≥ deg 100) || (stks.any fun t => t ≥ deg 90) then
    ((({ s1 with pins := { s1.pins with hotSeen := true } }).setFld .thm THM.STATUS_HOT 1).tally .thm THM.HOT_CNT
      THM.EV_HOT).degraded
  else s1

/-- The registers that a sample of the sensors fills (R333, R365, R370, R371). -/
def State.showTemps (s : State) (die stks : List Int) (coolant : Int) : State :=
  let at_ := fun i => die.getD i 0
  let zone := fun z => hottest ((List.range 8).map fun i => at_ (8 * z + i))
  let s1 := (List.range 16).foldl (fun s k =>
    s.setFld .thm (THM.SENSOR k) ((List.range 4).map fun j => unsgn 16 (at_ (4 * k + j)) * 2 ^ (16 * j)).sum) s
  let top := hottest ((List.range 64).map at_)
  let who := ((List.range 64).find? fun i => at_ i = top).getD 0
  let s2 := s1.setFlds .thm [(THM.MAX_TEMP, unsgn 16 top), (THM.MAX_SENSOR, who), (THM.COOLANT, unsgn 16 coolant)]
  let s3 := (List.range 8).foldl (fun s z => s.setFld (znPage z) ZN.STATUS_TEMP (unsgn 16 (zone z))) s2
  (List.range 8).foldl (fun s k => s.setFld (memPage k) MEM.TEMP (unsgn 8 (stks.getD k 0 / 16))) s3

/-- The coolant inlet: the time since which it is above 40.0 °C (R367). -/
def State.coolantCheck (s : State) (coolant : Int) : State :=
  if coolant > deg 40 then
    { s with pwr := { s.pwr with coolHotFrom := some (s.pwr.coolHotFrom.getD s.clk.phase) } }
  else { s with pwr := { s.pwr with coolHotFrom := none } }.setFld .thm THM.STATUS_COOLANT_HIGH 0

/-- Die and stack temperatures that stop the module (R354, R355). -/
def State.tempStop (s : State) (die stks : List Int) : State :=
  if die.any fun t => t ≥ deg 110 then s.stopFor 5 0
  else match findIdx (fun t => (t ≥ deg 100 : Bool)) stks with
    | some r => s.stopFor 6 r.1
    | none => s

/-- SENSOR_SAMPLE: 64 die sensors, 8 stacks and the coolant inlet (R354, R364 to R367). -/
def execSensorSample (die : List Int) (stks : List Int) (coolant : Int) (s : State) : Host.Outcome State Fault Refusal :=
  .next (
    let cool := die.all fun t => t ≤ deg 90
    let s0 := { s with boot := { s.boot with coolFirst := s.boot.coolFirst && !cool } }
    let s1 := ((s0.showTemps die stks coolant).hotCheck die stks).coolantCheck coolant
    let zone := fun z => sgn 16 (s1.fld (znPage z) ZN.STATUS_TEMP)
    let s2 := s1.pairLimit 2 fun a b => s.sensing && (zone a - zone b).natAbs > 400
    (s2.tempStop die stks).watchReady s)

/-- COOLANT_HIGH: the inlet has stayed above 40.0 °C for 1 s (R367). -/
def execCoolantHigh (s : State) : Host.Outcome State Fault Refusal :=
  .next (match s.pwr.coolHotFrom with
    | some t =>
      if s.clk.phase ≥ t + 1000 * msPhases && !s.flag .thm THM.STATUS_COOLANT_HIGH then
        ((s.setFld .thm THM.STATUS_COOLANT_HIGH 1).raise .thm THM.EV_COOLANT_HIGH).degraded
      else s
    | none => s)

/-! PMBus (R368; log 68). -/

/-- A number n / d to the nearest integer, half away from zero. -/
def roundDiv (n d : Int) : Int := if n < 0 then -((2 * -n + d) / (2 * d)) else (2 * n + d) / (2 * d)

/-- LINEAR11 of n / d: the least exponent from −16 up at which the mantissa fits (log 68). -/
def linear11 (n : Int) (d : Nat) : Nat :=
  let man := fun (k : Nat) => roundDiv (n * 2 ^ 16) ((d : Int) * 2 ^ k)
  let k := ((List.range 32).find? fun k => -1024 ≤ man k && man k ≤ 1023).getD 31
  unsgn 5 ((k : Int) - 16) * 2 ^ 11 + unsgn 11 (man k)

/-- Answer a command with bytes. -/
def State.pmAnswer (s : State) (data : List Byte) : State := s.send (.pmbus data)

/-- Answer a word, on the pages that a command serves; elsewhere a NACK. -/
def State.pmWord (s : State) (lo hi : Nat) (v : Nat → Nat) : State :=
  let p := s.pins.pmbusPage.toNat
  if lo ≤ p && p ≤ hi && !s.deaf then s.pmAnswer (leBytes 2 (v p)) else s.send .nack

/-- Answer a byte on page 0. -/
def State.pmByte (s : State) (v : Nat) : State :=
  if s.pins.pmbusPage = 0 && !s.deaf then s.pmAnswer (leBytes 1 v) else s.send .nack

/-- PMBUS_PAGE: page 0 the input, 1 to 8 the zones, 9 the mesh rail (R368). -/
def execPmbusPage (page : BitVec 8) (s : State) : Host.Outcome State Fault Refusal :=
  .next (if page.toNat ≤ 9 && !s.deaf then { s with pins := { s.pins with pmbusPage := page } } else s.send .nack)

/-- CLEAR_FAULTS: a latched warning whose cause is gone clears (R368; log 68). -/
def execClearFaults (s : State) : Host.Outcome State Fault Refusal :=
  .next (if s.deaf then s.send .nack
    else { s with pins := { s.pins with uvSeen := s.flag .pwr PWR.STATUS_UV_WARN, ovSeen := s.flag .pwr PWR.STATUS_OV_WARN,
                                        hotSeen := s.flag .thm THM.STATUS_HOT } })

/-- STATUS_WORD: bit 13 input and bit 2 temperature on page 0, bit 15 output on a zone's page (log 68). -/
def execStatusWord (s : State) : Host.Outcome State Fault Refusal :=
  .next (s.pmWord 0 9 fun p =>
    if p = 0 then (s.pins.uvSeen || s.pins.ovSeen).toNat * 2 ^ 13 + s.pins.hotSeen.toNat * 2 ^ 2
    else if p ≤ 8 then (s.flag (znPage (p - 1)) ZN.STATUS_LIMIT).toNat * 2 ^ 15 else 0)

/-- STATUS_INPUT: bit 6 over-voltage warning, bit 5 under-voltage warning (log 68). -/
def execStatusInput (s : State) : Host.Outcome State Fault Refusal :=
  .next (s.pmByte (s.pins.ovSeen.toNat * 2 ^ 6 + s.pins.uvSeen.toNat * 2 ^ 5))

/-- STATUS_TEMPERATURE: bit 6 over-temperature warning (log 68). -/
def execStatusTemperature (s : State) : Host.Outcome State Fault Refusal := .next (s.pmByte (s.pins.hotSeen.toNat * 2 ^ 6))

/-- READ_VIN: LINEAR16 with exponent −9 (R368). -/
def execReadVin (s : State) : Host.Outcome State Fault Refusal :=
  .next (s.pmWord 0 0 fun _ => (roundDiv (s.fld .pwr PWR.VIN * 512 : Nat) 100).toNat % 2 ^ 16)

/-- READ_IIN (R368). -/
def execReadIin (s : State) : Host.Outcome State Fault Refusal :=
  .next (s.pmWord 0 0 fun _ => linear11 (s.fld .pwr PWR.IIN : Nat) 100)

/-- READ_VOUT: a zone's rail; no register holds the mesh rail, whose reading is free (R368; log 68). -/
def execReadVout (s : State) : Host.Outcome State Fault Refusal :=
  .next (s.draw.2.pmWord 1 9 fun p =>
    if p ≤ 8 then linear11 (s.fld (znPage (p - 1)) ZN.STATUS_RAIL : Nat) 1000 else s.draw.1.toNat)

/-- READ_IOUT: a zone's rail current; that of the mesh rail is free (R368; log 68). -/
def execReadIout (s : State) : Host.Outcome State Fault Refusal :=
  .next (s.draw.2.pmWord 1 9 fun p =>
    if p ≤ 8 then linear11 (s.fld (znPage (p - 1)) ZN.IRAIL : Nat) 10 else s.draw.1.toNat)

/-- READ_TEMPERATURE_1: the highest die sensor, or a zone's temperature (R368). -/
def execReadTemperature1 (s : State) : Host.Outcome State Fault Refusal :=
  .next (s.pmWord 0 8 fun p =>
    linear11 (sgn 16 (if p = 0 then s.fld .thm THM.MAX_TEMP else s.fld (znPage (p - 1)) ZN.STATUS_TEMP)) 16)

/-- READ_TEMPERATURE_2: the coolant inlet (R368). -/
def execReadTemperature2 (s : State) : Host.Outcome State Fault Refusal :=
  .next (s.pmWord 0 0 fun _ => linear11 (sgn 16 (s.fld .thm THM.COOLANT)) 16)

/-- READ_PIN, in W (R368). -/
def execReadPin (s : State) : Host.Outcome State Fault Refusal :=
  .next (s.pmWord 0 0 fun _ => linear11 (s.fld .pwr PWR.PIN : Nat) 1000)

/-- PMBUS_REVISION: 1.3 in both parts (R368; log 68). -/
def execPmbusRevision (s : State) : Host.Outcome State Fault Refusal := .next (s.pmByte 0x33)

/-- MFR_ID (R368; log 68). -/
def execMfrId (s : State) : Host.Outcome State Fault Refusal :=
  .next (if s.pins.pmbusPage = 0 && !s.deaf then s.pmAnswer Config.mfrId else s.send .nack)

/-- PMBUS_UNSUPPORTED: any other command, and any write beside PAGE and CLEAR_FAULTS, is answered with a NACK and changes nothing
(R368). -/
def execPmbusUnsupported (_code : BitVec 8) (_isWrite : Bool) (s : State) : Host.Outcome State Fault Refusal := .next (s.send .nack)

end Sys2Proof.Machine
end

