-- ==== Sys2Proof/Machine/Security.lean ====
section
/-! DEFINITION. Life-cycle tokens, the fuses, the wipe and tamper, recovery writes, and attestation (R372, R376 to R388). -/
namespace Sys2Proof.Machine

/-! The wipe (R381). -/

/-- A wipe of the bonded store: whether its third pass failed, and the state after it (R381; log 66). -/
def State.wipe (s : State) : Bool × State :=
  let failed := Config.wipeFails s.fresh
  let s1 := { s with fresh := s.fresh + 1, sec := { s.sec with growing := false } }
  if failed then (true, s1)
  else (false, ({ s1 with sec := { s1.sec with bonded := .initial } }).raise .sec SEC.EV_WIPE_DONE)

/-- A wipe has failed: a FATAL fault, after which the module is deaf (R381). -/
def State.wipeFailed (s : State) : State := (s.fatal fatalWipe).setFld .sec SEC.STATUS_WIPE_FAIL 1

/-! Tokens (R377 to R379). -/

/-- Length of a token's body, and its MAGIC. -/
def tokenLen : Nat := 128
def tokenMagic : Nat := 0x4B4F_544C

/-- Whether a block verifies for Trellek, or for the owner (R373). -/
def trellekSigned (block body : List Byte) : Bool := sigVerifies Config.trellekEcdsa Config.trellekLms block body
def State.ownerSigned (s : State) (block body : List Byte) : Bool :=
  sigVerifies s.sec.otp.ownerEcdsa s.sec.otp.ownerLms block body

/-- Whether the signer that the state asks of a transition has signed it (R377). -/
def State.leaveSigned (s : State) (block body : List Byte) : Bool :=
  match s.sec.otp.lc with
  | 2 => trellekSigned block body || (s.sec.otp.ownerValid && s.ownerSigned block body)
  | 3 => if s.sec.otp.ownerValid then s.ownerSigned block body else trellekSigned block body
  | lc => lc < lcScrapped && trellekSigned block body

/-- Whether programming a hash would have to clear a fuse (R378). -/
def fuseClash (old new : BitVec 384) : Bool := old &&& ~~~new != 0

/-- Whether a token is accepted (R378; log 66). -/
def State.tokenOk (s : State) (v : Nat) (body block : List Byte) : Bool :=
  let kind := bitsOf v 39 32
  let target := bitsOf v 47 40
  let lc := s.sec.otp.lc
  v % 2 ^ 32 = tokenMagic && bitsOf v 63 48 = 0 && bitsOf v 127 64 = Config.serial.toNat &&
  bitsOf v 191 128 = s.fld .sec SEC.LC_NONCE &&
  ((kind = 1 && bitsOf v 1023 192 = 0 && target = lc + 1 && s.leaveSigned block body) ||
    (kind = 2 && bitsOf v 1023 961 = 0 && target = lc && lc = lcProvisioned && !s.sec.otp.ownerValid &&
      trellekSigned block body && !fuseClash s.sec.otp.ownerEcdsa (BitVec.ofNat 384 (bitsOf v 575 192)) &&
      !fuseClash s.sec.otp.ownerLms (BitVec.ofNat 384 (bitsOf v 959 576))))

/-- The fuses after an accepted token: the next LC pair, or the owner (R379; log 66). -/
def Otp.take (o : Otp) (v : Nat) : Otp :=
  if bitsOf v 39 32 = 1 then
    { o with lcPairs := o.lcPairs ||| BitVec.ofNat 10 (3 * 4 ^ ((List.range 5).find? fun i => !o.pair i).getD 5) }
  else { o with ownerEcdsa := o.ownerEcdsa ||| BitVec.ofNat 384 (bitsOf v 575 192),
                ownerLms := o.ownerLms ||| BitVec.ofNat 384 (bitsOf v 959 576),
                forceSigned := o.forceSigned || bitOf v 960, ownerValid := true }

/-- SEC_TOKEN_ADDR as a byte address. -/
def State.tokenAddr (s : State) : Nat := s.fld .sec SEC.TOKEN_ADDR * 64

/-- A token is applied or refused (R378, R379). -/
def State.applyToken (s : State) : State :=
  let r := s.readMem false 0 .inter [] s.tokenAddr (tokenLen + sigLen)
  let body := r.1.data.take tokenLen
  let v := leNat body
  let s1 := r.2
  if r.1.poison || !s1.tokenOk v body (r.1.data.drop tokenLen) then
    (s1.tally .sec SEC.TOKEN_BAD_CNT SEC.EV_TOKEN_BAD).freshNonce
  else
    let s2 := { s1 with sec := { s1.sec with otp := s1.sec.otp.take v } }
    if bitsOf v 39 32 = 1 then
      let x := s2.wipe
      if x.1 then x.2.wipeFailed else x.2.moduleReset fromLifeCycle
    else s2.moduleReset fromLifeCycle

/-- SVN_COMMIT: the thermometer advances to the SVN of the running first stage (R376). -/
def State.commitSvn (s : State) : State :=
  let n := s.fld .sec SEC.SVN_RUNNING
  if s.sec.otp.svn.val < n then
    ({ s with sec := { s.sec with otp := { s.sec.otp with svn := ⟨min n 64, by omega⟩ } } }).raise .sec SEC.EV_SVN_DONE
  else s

/-- REC_WRITE: in RECOVERY, an image is copied to a slot (R375, R388). -/
def State.recoverSlot (s : State) : State :=
  if s.stage ≠ stageRecovery then s
  else
    let n := min (s.fld .sec SEC.REC_LEN) (2 ^ 24)
    let r := s.readMem false 0 .inter [] s.tokenAddr n
    r.2.flashSet (slotBase (s.fld .sec SEC.REC_SLOT)) r.1.data

/-- A command of SEC_CTRL, ignored while a step is armed or runs (R379). -/
def State.secCommand (act : State → State) (s : State) : State :=
  if [schArmed, schRunning, schVerdict, schCommit].contains s.schState then
    s.tally .sec SEC.CMD_IGNORED_CNT SEC.EV_CMD_IGNORED
  else act s

/-- What SEC_CTRL does beside CNT_CLR, lower bits first (R376, R378, R388). -/
def secCtrl (w : RegW) (s : State) : State :=
  let s1 := onlyIf (wHits w SEC.CTRL_LC_APPLY) (State.secCommand State.applyToken) s
  let s2 := onlyIf (wHits w SEC.CTRL_SVN_COMMIT) (State.secCommand State.commitSvn) s1
  onlyIf (wHits w SEC.CTRL_REC_WRITE) (State.secCommand State.recoverSlot) s2

/-- A write to SEC_CTRL. -/
def secCtrlWrite (w : RegW) (s : State) : State := ctrlWrite s .sec w (secCtrl w)

/-- LC_APPLY (R378, R379). -/
def execLcApply (w : RegW) (s : State) : Host.Outcome State Fault Refusal := .next (secCtrlWrite w s)

/-- SVN_COMMIT (R376). -/
def execSvnCommit (w : RegW) (s : State) : Host.Outcome State Fault Refusal := .next (secCtrlWrite w s)

/-- REC_WRITE (R375, R388). -/
def execRecWrite (w : RegW) (s : State) : Host.Outcome State Fault Refusal := .next (secCtrlWrite w s)

/-! Tamper (R382). -/

/-- SEC_TAMPER_FIRST.SOURCE (R388). -/
def TamperSource.code : TamperSource → Nat
  | .pin => 0 | .coreRail => 1 | .secureRail => 2 | .clock => 3 | .cold => 4 | .hot => 5

/-- Whether the detector of a source is armed: those of the rails are not while the rails are off (R382). -/
def State.detects (s : State) (c : TamperSource) : Bool :=
  match c with
  | .coreRail | .secureRail => s.stage ≠ stageAux && s.stage ≠ stageRom
  | _ => true

/-- TAMPER: a wipe, a FATAL fault, and the record of its source; the module stays in module reset (R381, R382; log 66). -/
def execTamper (c : TamperSource) (s : State) : Host.Outcome State Fault Refusal :=
  .next (if s.deaf || !s.detects c then s
    else
      let held := s.flag .sec SEC.STATUS_TAMPER_HOLD
      let count := if held then s.fld .sec SEC.TAMPER_CNT else 0
      let first := if held then s.fld .sec SEC.TAMPER_FIRST
        else TamperSource.code c + 2 ^ 15 + s.ht % 2 ^ 48 * 2 ^ 16
      let x := s.wipe
      let s1 := if x.1 then x.2.wipeFailed else (x.2.fatal fatalTamper).raise .sec SEC.EV_WIPE_DONE
      (s1.setFlds .sec [(SEC.STATUS_TAMPER_HOLD, 1), (SEC.TAMPER_CNT, count), (SEC.TAMPER_FIRST, first)]).tally .sec
        SEC.TAMPER_CNT SEC.EV_TAMPER)

/-- TAMPER_END: no source persists; start-up runs as after a module reset (R382, R390). -/
def execTamperEnd (s : State) : Host.Outcome State Fault Refusal :=
  .next (if !s.flag .sec SEC.STATUS_TAMPER_HOLD || s.deaf then s
    else
      let s1 := { s with pins := { s.pins with fatalAlert := false }, boot := { s.boot with startAt := s.clk.phase } }
      ((s1.setFld .sec SEC.STATUS_TAMPER_HOLD 0).recordReset scopeModule fromTamper).freshNonce)

/-- Exactly `n` bytes. -/
def fitBytes (n : Nat) (b : List Byte) : List Byte := (b ++ List.replicate n 0).take n

/-- Lengths of an LMS signature of level 1, a public key, and a signature of level 2 (R384). -/
def lms1Len : Nat := 2572
def lmsKeyLen : Nat := 56
def lms2Len : Nat := 2700

/-- The level-2 tree of a seed, its key signed by the level-1 leaf of an index (R384). -/
def idTree (cdi0 : BitVec 384) (index : Nat) (seed : BitVec 256) : IdTree :=
  let key := fitBytes lmsKeyLen (Config.lms2Key seed)
  ⟨seed, key, fitBytes lms1Len (Config.lms1Sign cdi0 index key)⟩

/-- An HSS signature: one signed key, the level-1 signature of it, the key, and the level-2 signature of the message (R384). -/
def hssSignature (x : IdTree) (leaf : Nat) (msg : List Byte) : List Byte :=
  beBytes 4 1 ++ x.signed ++ x.key ++ fitBytes lms2Len (Config.lms2Sign x.seed leaf msg)

/-- LMS_TREE_GENERATED: a level-2 tree of fresh randomness is in the bonded store (R384; log 5). -/
def execLmsTreeGenerated (s : State) : Host.Outcome State Fault Refusal :=
  .next (if s.sec.growing then
      let a := s.draw
      let b := a.2.draw
      let c := b.2.draw
      let d := c.2.draw
      let x := idTree s.sec.bonded.cdi0 (s.sec.otp.lms1 - 1) (a.1 ++ b.1 ++ c.1 ++ d.1)
      { d.2 with sec := { d.2.sec with growing := false, bonded := { d.2.sec.bonded with tree := some x, leaf := some 0 } } }
    else s)

/-! Attestation (R386, R387; log 69). -/

/-- Whether Zhexal runs. -/
def State.zhexalRuns (s : State) : Bool := stageFirmware ≤ s.stage && s.stage ≤ stageDone && !s.deaf

/-- Answer a request while Zhexal runs. -/
def State.spdm (s : State) (r : SpdmReply) : State := if s.zhexalRuns then s.send (.spdm r) else s

/-- A digest that the registers of a page hold, least significant word first, as bytes. -/
def State.digestRegs (s : State) (p : Page) (f : Nat → Fld) : List Byte :=
  digestBytes (BitVec.ofNat 384 ((List.range 6).map fun i => s.fld p (f i) * 2 ^ (64 * i)).sum)

/-- Measurement blocks 1 to 8 (R387). -/
def State.measurements (s : State) : List (List Byte) :=
  let o := s.sec.otp
  [digestBytes Config.romMeasure, digestBytes s.sec.fsDigest, digestBytes s.sec.zxDigest,
    [BitVec.ofNat 8 o.lc, BitVec.ofNat 8 o.ownerValid.toNat, BitVec.ofNat 8 o.forceSigned.toNat, BitVec.ofNat 8 o.svn.val],
    if s.schState = schEmpty then List.replicate 48 0 else s.digestRegs .sch SCH.IMG_DIGEST,
    if s.flag .sch SCH.STATUS_IMG2_LOADED then s.digestRegs .sch SCH.IMG2_DIGEST else List.replicate 48 0,
    leBytes 8 (s.fld .glb GLB.FEAT_ACTIVE), leBytes 8 (s.fld .swx SWX.HALL_ID)]

/-- Leaves of a level-2 tree (R384). -/
def lms2Leaves : Nat := 65536

/-- Handles that the module keeps (R386). -/
def handleCount : Nat := 16

/-- The leaf index advances before a signature leaves; the last leaf ends the tree, which is a cold boot (R384). -/
def State.useLeaf (s : State) (leaf : Nat) : State :=
  let b := if leaf + 1 < lms2Leaves then { s.sec.bonded with leaf := some (leaf + 1) }
    else { s.sec.bonded with tree := none, leaf := none }
  { s with sec := { s.sec with bonded := b } }.coldBoot

/-- A signed answer: both signatures, the HSS signature under a fresh handle (R384 to R386). -/
def State.signedReply (s : State) (nonce : BitVec 256) (blocks : List (List Byte)) : State :=
  if !s.zhexalRuns then s
  else match s.sec.bonded.tree, s.sec.bonded.leaf with
    | some x, some leaf =>
      let msg := leBytes 32 nonce.toNat ++ blocks.flatten
      let hss := hssSignature x leaf msg
      let a := s.draw
      let b := a.2.draw
      let handle := a.1 ++ b.1
      let s1 := (b.2.useLeaf leaf).count .sec SEC.SIGN_CNT
      let s2 := { s1 with sec := { s1.sec with handles := ((handle, hss) :: s1.sec.handles).take handleCount } }
      s2.send (.spdm (.signed blocks (Config.ecdsaSign (Config.aliasKey s.sec.bonded.cdi1) msg) handle (sha384 hss)))
    | _, _ => s.spdm (if s.flag .sec SEC.STATUS_LMS_EXHAUSTED then .error else .notReady)

/-- GET_VERSION (R386). -/
def execGetVersion (s : State) : Host.Outcome State Fault Refusal := .next (s.spdm .version)

/-- GET_CAPABILITIES (R386). -/
def execGetCapabilities (s : State) : Host.Outcome State Fault Refusal := .next (s.spdm .capabilities)

/-- NEGOTIATE_ALGORITHMS: ECDSA P-384 and SHA-384 (R386). -/
def execNegotiateAlgorithms (s : State) : Host.Outcome State Fault Refusal := .next (s.spdm .algorithms)

/-- Where flash holds the certificate of the DeviceID key (R383). -/
def deviceCertAt : Nat := 0x0200_0000

/-- The chain of slot 0: the certificate of the DeviceID key, and the Alias certificate, which that key signs (R383, R386). -/
def State.chain (s : State) : List Byte :=
  s.flashGet deviceCertAt Config.deviceCertLen ++
    Config.issueCert (Config.deviceKey s.sec.bonded.cdi0) (Config.aliasKey s.sec.bonded.cdi1)

/-- GET_DIGESTS (R386). -/
def execGetDigests (s : State) : Host.Outcome State Fault Refusal := .next (s.spdm (.digests (sha384 s.chain)))

/-- GET_CERTIFICATE: a part of the chain of slot 0, and how much of it is left (R386). -/
def execGetCertificate (offset length : BitVec 16) (s : State) : Host.Outcome State Fault Refusal :=
  .next (s.spdm (.certificate ((s.chain.drop offset.toNat).take length.toNat)
    (s.chain.length - offset.toNat - length.toNat)))

/-- CHALLENGE (R386). -/
def execChallenge (nonce : BitVec 256) (s : State) : Host.Outcome State Fault Refusal := .next (s.signedReply nonce [])

/-- GET_MEASUREMENTS (R386, R387). -/
def execGetMeasurements (nonce : BitVec 256) (s : State) : Host.Outcome State Fault Refusal :=
  .next (s.signedReply nonce s.measurements)

/-- VENDOR_DEFINED_REQUEST: the signature of a handle that the module still keeps (R386). -/
def execVendorDefinedRequest (handle : BitVec 128) (s : State) : Host.Outcome State Fault Refusal :=
  .next (s.spdm (match s.sec.handles.find? fun h => h.1 = handle with
    | some h => .signature h.2
    | none => .error))

end Sys2Proof.Machine
end

