-- ==== Sys2Proof/Machine/Service.lean ====
section
/-! DEFINITION. The SERVICE requesters of the host: the BAR2 window, its write buffer, and the bytes of the loader queues (R326, R331,
R339, R340, R342). -/
namespace Sys2Proof.Machine

/-- Bytes of the write buffer (R340). -/
def wbufSize : Nat := 262144

/-- The stack of an interleaved address; none beyond the window. -/
def stackOf (a : Nat) : Option Nat := (interGran a).map granStack

/-- Whether a controller serves requests: in RECOVERY too, where host software brings an image to HBM (R375; log 65). -/
def State.memServes (s : State) (k : Nat) : Bool := s.fld (memPage k) MEM.STATUS_STATE = memReady || s.stage = stageRecovery

/-- Store bytes of one granule, in order, with their mark: a clean write of all 256 takes POISON away (R329; log 14). -/
def State.storeGran (s : State) (g : Nat) (bs : List (Nat × Byte)) : State :=
  let full := (List.range 256).all fun i => bs.any fun b => b.1 % 256 = i
  let s1 := s.count (memPage (granStack g)) MEM.WR_GRAN_CNT
  { s1 with mem := { s1.mem with
      hbm := bs.foldl (fun m b => smSet (0 : Byte) m (g * 256 + b.1 % 256) b.2) s1.mem.hbm,
      poison := smSet false s1.mem.poison g (smGet false s1.mem.poison g && !full) } }

/-- What a controller serves at once: with a limit, at most that many granules of each pseudo-channel, by those it has moved; the errors
that its reads meet, and the number of the next one read (R327, R329). -/
structure Serving where
  limit : Option Nat
  moved : SMap Nat
  ecc : List EccErr
  next : Nat
deriving DecidableEq, Repr

/-- Whether there is room for a granule. -/
def Serving.room (v : Serving) (g : Nat) : Bool :=
  match v.limit with
  | none => true
  | some n => smGet 0 v.moved (granPc g) < n

/-- A granule is moved. -/
def Serving.move (v : Serving) (g : Nat) : Serving :=
  { v with moved := smSet 0 v.moved (granPc g) (smGet 0 v.moved (granPc g) + 1) }

/-- The granules, in order of their first byte, that a controller writes now (R327). -/
def Serving.grans (v : Serving) (k : Nat) (bs : List (Nat × Byte)) : List Nat × Serving :=
  ((bs.filterMap fun b => interGran b.1).eraseDups.filter fun g => granStack g = k).foldl
    (fun acc g => if acc.2.room g then (acc.1 ++ [g], acc.2.move g) else acc) (([] : List Nat), v)

/-- Whether a byte lies in one of some granules. -/
def inGrans (gs : List Nat) (b : Nat × Byte) : Bool :=
  match interGran b.1 with
  | some g => gs.contains g
  | none => false

/-- Write what a list of bytes holds for some granules. -/
def State.storeAll (s : State) (gs : List Nat) (bs : List (Nat × Byte)) : State :=
  gs.foldl (fun s g => s.storeGran g (bs.filter fun b => interGran b.1 = some g)) s

/-- A controller drains its part of the write buffer (R340). -/
def State.drainWrites (s : State) (v : Serving) (k : Nat) : Serving × State :=
  let x := v.grans k s.mem.wbuf
  let s1 := s.storeAll x.1 s.mem.wbuf
  (x.2, { s1 with mem := { s1.mem with wbuf := s.mem.wbuf.filter fun b => !inGrans x.1 b } })

/-- A loader queue. -/
def State.queue (s : State) (q : Nat) : Lq := smGet Lq.initial s.host.lq q

/-- Replace a loader queue. -/
def State.setQueue (s : State) (q : Nat) (l : Lq) : State :=
  { s with host := { s.host with lq := smSet Lq.initial s.host.lq q l } }

/-- A controller takes its part of a queue's bytes; with the last one the data is visible (R342). -/
def State.drainQueue (s : State) (v : Serving) (k q : Nat) : Serving × State :=
  let l := s.queue q
  let x := v.grans k l.todo
  let rest := l.todo.filter fun b => !inGrans x.1 b
  let s1 := (s.storeAll x.1 l.todo).countN .hif HIF.LQ_BYTES_CNT (l.todo.length - rest.length)
  (x.2, s1.setQueue q { l with todo := rest, visibleAt := if rest.isEmpty && !l.todo.isEmpty then s.ht else l.visibleAt })

/-- A controller reads one piece that it owes a read, where there is room (R327, R329, R340). -/
def State.readOwed (v : Serving) (k : Nat) (r : SvcRead) (p : Nat × Nat) (s : State) : (Serving × SvcRead) × State :=
  match interGran p.1 with
  | some g =>
    if granStack g ≠ k || !v.room g then ((v, { r with owed := r.owed ++ [p] }), s)
    else
      let x := s.readGran false .inter v.ecc v.next p.1 p.2
      let y := if x.1.poison then x.2.count .hif HIF.POISON_RD_CNT else x.2
      (({ v.move g with next := v.next + 1 },
        { r with got := memSet r.got (p.1 - r.addr) x.1.data, poison := r.poison || x.1.poison }), y)
  | none => ((v, r), s)

/-- The pieces of a read that a controller owes, read by it. -/
def State.readPart (s : State) (v : Serving) (k : Nat) (r : SvcRead) : (Serving × SvcRead) × State :=
  r.owed.foldl (fun acc p => State.readOwed acc.1.1 k acc.1.2 p acc.2) ((v, { r with owed := [] }), s)

/-- A BAR2 read completes; a poisoned one sets EP and logs an advisory error (R340). -/
def State.readDone (s : State) (r : SvcRead) : State :=
  let s1 := s.send (.bar2Data r.addr (memGet r.got 0 r.len) r.poison)
  if r.poison then (s1.aerCorrected aerAdvisory).send .aerAdvisory else s1

/-- A controller serves its part of every waiting read, in their order. -/
def State.serveReads (s : State) (v : Serving) (k : Nat) : Serving × State :=
  s.mem.reads.foldl (fun acc r =>
    let x := acc.2.readPart acc.1 k r
    (x.1.1, if x.1.2.owed.isEmpty then x.2.readDone x.1.2
      else { x.2 with mem := { x.2.mem with reads := x.2.mem.reads ++ [x.1.2] } })) (v, { s with mem := { s.mem with reads := [] } })

/-- A controller serves its SERVICE requesters that wait here, in ascending unit ID: the BAR2 window, whose reads follow the writes before
them, then the loader queues (R200, R331, R340; log 70). -/
def State.serveHost (s : State) (v : Serving) (k : Nat) : State :=
  if s.memServes k then
    let w := s.drainWrites v k
    let r := w.2.serveReads w.1 k
    ((List.range 16).foldl (fun (acc : Serving × State) q => acc.2.drainQueue acc.1 k q) r).2
  else s

/-- Service without a limit, that meets some errors. -/
def Serving.free (ecc : List EccErr) : Serving := ⟨none, [], ecc, 0⟩

/-- The hydrometer's step records and the sequence passes that fall due by a time, which go before the other SERVICE requesters (R326). -/
def State.serviceFirst (s : State) (by_ : Phase) : State :=
  let s1 := match s.sch.recordDue with
    | some d => if s.recordTime d ≤ by_ then s.recordsWritten d else s
    | none => s
  (List.range (s1.batches.length - s1.sch.seqDone)).foldl (fun s _ =>
    if s.seqEnd s.sch.seqDone ≤ by_ then s.seqNext else s) s1

/-- What other windows have moved of each pseudo-channel in the frames of a window (R327; log 70). -/
def State.windowMoved (s : State) (w : MemWin) : SMap Nat :=
  (s.mem.frames.filter fun f => w.start / 16 ≤ f.1 / 512 && f.1 / 512 < (w.start + w.len + 15) / 16).foldl
    (fun v f => smSet 0 v (f.1 % 512) (smGet 0 v (f.1 % 512) + f.2)) []

/-- A controller's SERVICE requesters are served by a window: of each pseudo-channel three granules in each 16 ns, less what other
windows have moved in them (R326, R327). -/
def State.serveWindow (s : State) (w : MemWin) (ecc : List EccErr) (k : Nat) : State :=
  s.serveHost ⟨some (3 * w.len / 16), s.windowMoved w, ecc, 0⟩ k

/-- SERVICE_WINDOW: the next SERVICE window of a controller runs to its END (R326, R327, R340; log 70). -/
def execServiceWindow (k : MemPart) (s : State) : Host.Outcome State Fault Refusal :=
  .next (if s.sch.regime != .timed then s
    else match s.nextWindow k.k.val winService 0 with
    | none => s
    | some w =>
      let tick := w.start + w.len
      ((s.serviceFirst (s.sch.startPhase + 4 * tick)).toTick tick).serveWindow w k.ecc k.k.val)

/-- MEM_REQUEST_SERVE: outside timed steps a controller serves what waits for it: the lauter engine's records, then the SERVICE
requesters in their order (R326, R331). -/
def execMemRequestServe (k : MemPart) (s : State) : Host.Outcome State Fault Refusal :=
  .next (if s.sch.regime = .timed then s
    else (if s.memServes k.k.val then s.showRecords k.k.val s.clk.phase else s).serveHost (.free k.ecc) k.k.val)

/-- Every controller serves, when no timed step runs. -/
def State.serveNow (s : State) : State :=
  if s.sch.regime = .timed then s else (List.range 8).foldl (fun s k => s.serveHost (.free []) k) s

/-- Whether the function answers requests to BAR2: in RECOVERY too, where only pages fall silent (R335, R375; log 65). -/
def State.bar2Open (s : State) : Bool := (s.stage = stageReady || s.stage = stageRecovery) && !s.host.d3hot && !s.deaf

/-- Size of BAR2 (R339). -/
def State.bar2Size (s : State) : Nat := 2 ^ (30 + s.fld .hif HIF.STATUS_BAR2_SIZE)

/-- Interleaved-window address of a BAR2 offset (R339). -/
def State.bar2Addr (s : State) (off : Nat) : Nat := s.fld .hif HIF.BAR2_BASE * 2 ^ 30 + off

/-- BAR2_READ: waits for every controller that it touches; a part beyond the window is zeros marked POISON (R324, R339, R340). -/
def execBar2Read (off : BitVec 36) (len : Nat) (s : State) : Host.Outcome State Fault Refusal :=
  .next (if !s.bar2Open || len = 0 || s.bar2Size < off.toNat + len then s
    else
      let a := s.bar2Addr off.toNat
      let ps := pieces a len
      let out := ps.any fun p => (interGran p.1).isNone
      let s1 := if out then s.addrRange 0 else s
      let s2 := if out && s.sch.regime = .timed then s1.invalid false .poison else s1
      let r : SvcRead := ⟨a, len, ps.filter fun p => (interGran p.1).isSome, [], out⟩
      if r.owed.isEmpty then s2.readDone r
      else ({ s2 with mem := { s2.mem with reads := s2.mem.reads ++ [r] } }).serveNow)

/-- BAR2_WRITE: posted into the write buffer; a write that finds it full stays with the host (R324, R339, R340; log 70). -/
def execBar2Write (off : BitVec 36) (data : List Byte) (s : State) : Host.Outcome State Fault Refusal :=
  .next (if !s.bar2Open || s.bar2Size < off.toNat + data.length then s
    else
      let a := s.bar2Addr off.toNat
      let bs := data.zipIdx.map fun x => (a + x.2, x.1)
      let keep := bs.filter fun b => (interGran b.1).isSome
      let s0 := if wbufSize < s.mem.wbuf.length + keep.length then s.serveNow else s
      if wbufSize < s0.mem.wbuf.length + keep.length then s0
      else
        let s1 := if keep.length < bs.length then s0.addrRange 0 else s0
        { s1 with mem := { s1.mem with wbuf := s1.mem.wbuf ++ keep } })

end Sys2Proof.Machine
end

