-- ==== Sys2Proof/Machine/Queues.lean ====
section
/-! DEFINITION. Loader queues, power states, the link, negotiation, DOE and management messages (R334, R335, R339, R341 to R348). -/
namespace Sys2Proof.Machine

/-! Doorbells and the state of a queue (R343, R345). -/

/-- Entries of a queue's rings. -/
def State.sqSize (s : State) (q : Nat) : Nat := 2 ^ s.fld .hif (HIF.LQ_CTRL_SQ_LOG q)
def State.cqSize (s : State) (q : Nat) : Nat := 2 ^ s.fld .hif (HIF.LQ_CTRL_CQ_LOG q)

/-- Whether a queue is enabled, as LQ_ACTIVE shows it. -/
def State.queueOn (s : State) (q : Nat) : Bool := bitOf (s.fld .hif HIF.STATUS_LQ_ACTIVE) q

/-- Show a queue enabled or not. -/
def State.showQueue (s : State) (q : Nat) (on : Bool) : State := s.setFldBit .hif HIF.STATUS_LQ_ACTIVE q on

/-- What arrived before this tick takes effect: doorbells, and a disable (R343, R345). -/
def State.settleQueue (s : State) (q : Nat) : State :=
  let l := s.queue q
  let s1 := match l.tailAt with
    | some (v, t) =>
      if t < s.ht then (s.setFld .hif (HIF.LQ_SQ_TAIL q) v.toNat).setQueue q { l with tailAt := none } else s
    | none => s
  let l1 := s1.queue q
  let s2 := match l1.headAt with
    | some (v, t) =>
      if t < s.ht then (s1.setFld .hif (HIF.LQ_CQ_HEAD q) v.toNat).setQueue q { l1 with headAt := none } else s1
    | none => s1
  let l2 := s2.queue q
  match l2.offAt with
  | some t => if t < s.ht then (s2.showQueue q false).setQueue q { l2 with offAt := none, aborting := true } else s2
  | none => s2

/-- A doorbell write: a value at or beyond the ring size is ignored and counted; of several within one tick the last governs
(R343). -/
def State.doorbell (s0 : State) (q v size : Nat) (put : Lq → Lq) : State :=
  let s := s0.settleQueue q
  if size ≤ v then s.count .hif HIF.DOORBELL_BAD_CNT else s.setQueue q (put (s.queue q))

/-- A write to LQ_SQ_TAIL. -/
def sqTailWrite (q : Fin 16) (w : RegW) (s : State) : State :=
  lowWrite s .hif (HIF.LQ_SQ_TAIL q).off w fun s =>
    let v := wData w % 2 ^ 16
    s.doorbell q.val v (s.sqSize q.val) fun l => { l with tailAt := some (BitVec.ofNat 16 v, s.ht) }

/-- A write to LQ_CQ_HEAD. -/
def cqHeadWrite (q : Fin 16) (w : RegW) (s : State) : State :=
  lowWrite s .hif (HIF.LQ_CQ_HEAD q).off w fun s =>
    let v := wData w % 2 ^ 16
    s.doorbell q.val v (s.cqSize q.val) fun l => { l with headAt := some (BitVec.ofNat 16 v, s.ht) }

/-- LQ_SQ_TAIL (R343). -/
def execLqSqTail (q : Fin 16) (w : RegW) (s : State) : Host.Outcome State Fault Refusal := .next (sqTailWrite q w s)

/-- LQ_CQ_HEAD (R343). -/
def execLqCqHead (q : Fin 16) (w : RegW) (s : State) : Host.Outcome State Fault Refusal := .next (cqHeadWrite q w s)

/-- A queue is enabled, with its heads and tails at 0 and PHASE at 1 (R345). -/
def State.queueStart (s : State) (q : Nat) : State :=
  ((s.setQueue q .initial).setFlds .hif [(HIF.LQ_SQ_TAIL q, 0), (HIF.LQ_SQ_HEAD q, 0), (HIF.LQ_CQ_HEAD q, 0),
    (HIF.LQ_CQ_TAIL q, 0)]).showQueue q true

/-- A write to LQ_CTRL: ENABLE going to 1 starts the queue, going to 0 takes effect at the next tick (R345). -/
def lqCtrlWrite (q : Fin 16) (w : RegW) (s : State) : State :=
  if !s.reaches .hif then s
  else
    let f := HIF.LQ_CTRL_ENABLE q
    let s1 := (s.settleQueue q.val).store .hif f.off w
    let was := s.flag .hif f
    let on := s1.flag .hif f
    if on && !was then s1.queueStart q.val
    else if was && !on then s1.setQueue q.val { s1.queue q.val with offAt := some s.ht }
    else s1

/-- LQ_ENABLE (R345). -/
def execLqEnable (q : Fin 16) (w : RegW) (s : State) : Host.Outcome State Fault Refusal := .next (lqCtrlWrite q w s)

/-- LQ_DISABLE (R345). -/
def execLqDisable (q : Fin 16) (w : RegW) (s : State) : Host.Outcome State Fault Refusal := .next (lqCtrlWrite q w s)

/-! Descriptors (R341, R342). -/

/-- Codes of a completion's STATUS (R341). -/
def lqOk : Nat := 0
def lqHostErr : Nat := 1
def lqRange : Nat := 2
def lqLate : Nat := 3
def lqBad : Nat := 4
def lqAborted : Nat := 5

/-- Fields of a submission entry (R341). -/
def deHost (e : Nat) : Nat := bitsOf e 63 0
def deHbm (e : Nat) : Nat := bitsOf e 103 64
def deLen (e : Nat) : Nat := bitsOf e 154 128
def deTag (e : Nat) : Nat := bitsOf e 175 160
def deIrq (e : Nat) : Bool := bitOf e 176
def deNeedBy (e : Nat) : Nat := bitsOf e 255 192

/-- The status that a descriptor has before any host data comes (R342; log 71). -/
def descStatus (aborting : Bool) (e : Nat) : Nat :=
  if aborting then lqAborted
  else if bitsOf e 127 104 ≠ 0 || bitsOf e 159 155 ≠ 0 || bitsOf e 191 177 ≠ 0 || deLen e = 0 || 2 ^ 26 < deLen e then lqBad
  else if 384 * 2 ^ 30 < deHbm e + deLen e then lqRange
  else lqOk

/-- The bytes that the host has returned, and whether the read ended well. -/
def HostRead.bytes : HostRead → List Byte
  | .ok d => d
  | .bad d => d
def HostRead.failed : HostRead → Bool
  | .ok _ => false
  | .bad _ => true

/-- What the function presents of itself (R334). -/
structure PcieFunction where
  classCode : BitVec 24
  vendor : BitVec 16
  device : BitVec 16
  lanes : Nat
  maxPayload : Nat
  maxRead : Nat
  tagBits : Nat
  noSoftReset : Bool
  capabilities : List String

/-- The module's one physical function (R334). -/
def pcieFunction : PcieFunction :=
  { classCode := 0x120000, vendor := Config.vendorId, device := 0x9440, lanes := 8, maxPayload := 512, maxRead := 4096, tagBits := 14,
    noSoftReset := true,
    capabilities := ["PCI Express", "power management", "MSI-X", "AER", "DOE", "PTM requester", "resizable BAR", "Device Serial Number",
      "Physical Layer 16.0 GT/s", "Physical Layer 32.0 GT/s", "Physical Layer 64.0 GT/s", "Lane Margining at the Receiver",
      "Data Link Feature"] }

/-- Bytes of host data that a queue moves in its turn (R342): one read request of the greatest size (R334). -/
def lqTurnBytes : Nat := pcieFunction.maxRead

/-- The queue whose turn it is among those that wait for host data: the first from the last turn's on, in ascending number (R342). -/
def State.lqTurn (s : State) : Option Nat :=
  ((List.range 16).map fun i => (s.host.lqNext + i) % 16).find? fun q => (s.queue q).reading

/-- Host data comes for the descriptor in progress of a queue whose turn it is: as much as a turn takes while another queue waits (R342). -/
def State.hostData (s : State) (q e : Nat) (host : HostRead) : State :=
  if s.lqTurn ≠ some q then s else
    let l := s.queue q
    let alone := (List.range 16).all fun p => p = q || !(s.queue p).reading
    let d := (HostRead.bytes host).take (if alone then deLen e - l.got else min lqTurnBytes (deLen e - l.got))
    let n := l.got + d.length
    let bs := d.zipIdx.map fun x => (deHbm e + l.got + x.2, x.1)
    let bad := HostRead.failed host
    let s1 := s.setQueue q { l with got := n, reading := !bad && n < deLen e, readAt := s.clk.phase, todo := l.todo ++ bs,
                                    status := if bad then lqHostErr else l.status }
    ({ s1 with host := { s1.host with lqNext := (q + 1) % 16 } }).serveNow

/-- Whether a queue may read its next descriptor (R343, R345). -/
def State.queueReady (s : State) (q : Nat) : Bool :=
  let l := s.queue q
  (s.queueOn q || l.aborting) && l.inFlight.isNone && s.fld .hif (HIF.LQ_SQ_HEAD q) ≠ s.fld .hif (HIF.LQ_SQ_TAIL q) &&
  (s.fld .hif (HIF.LQ_CQ_TAIL q) + 1) % s.cqSize q ≠ s.fld .hif (HIF.LQ_CQ_HEAD q)

/-- A queue reads its next descriptor. -/
def State.takeDescriptor (s : State) (q : Nat) (entry : BitVec 256) (host : HostRead) : State :=
  let head := s.fld .hif (HIF.LQ_SQ_HEAD q)
  let st := descStatus (s.queue q).aborting entry.toNat
  let s1 := (s.send (.descriptorRead (BitVec.ofNat 64 (s.fld .hif (HIF.LQ_SQ_BASE q) * 4096 + 32 * head)))).setFld .hif
    (HIF.LQ_SQ_HEAD q) ((head + 1) % s.sqSize q)
  let s2 := s1.setQueue q { s1.queue q with inFlight := some entry, status := st, got := 0, reading := st = lqOk, todo := [],
                                            visibleAt := s.ht, readAt := s.clk.phase }
  if st = lqOk then s2.hostData q entry.toNat host else s2

/-- LQ_DESCRIPTOR: a queue reads its next descriptor and what the host returns for it; while host data is due, more of it (R341,
R342; log 71). -/
def execLqDescriptor (q : Fin 16) (entry : BitVec 256) (host : HostRead) (s : State) : Host.Outcome State Fault Refusal :=
  .next (
    let s1 := s.settleQueue q.val
    let l := s1.queue q.val
    if s.stage ≠ stageReady then s
    else match l.inFlight with
      | some e => if l.reading then s1.hostData q.val e.toNat host else s1
      | none => if s1.queueReady q.val then s1.takeDescriptor q.val entry host else s1)

/-- Phases that a host read may take (R342, R350). -/
def State.cplTimeout (s : State) : Nat := s.fld .hif HIF.CPL_TIMEOUT * 4000

/-- HIF_CPL_TIMEOUT: a host read that has returned nothing for longer than HIF_CPL_TIMEOUT ends its descriptor, and AER reports it (R342,
R346). -/
def execHifCplTimeout (q : Fin 16) (s : State) : Host.Outcome State Fault Refusal :=
  let l := s.queue q.val
  .next (if l.inFlight.isSome && l.reading && l.readAt + s.cplTimeout < s.clk.phase then
      (s.setQueue q.val { l with reading := false, status := lqHostErr }).aerError aerTimeout
    else s)

/-- The poisoned-data cause of a step, this one or the next, an event of class STEP_INVALID (R24, R402). -/
def State.poisonCause (s : State) (next : Bool) : State :=
  let m : BitVec 6 := BitVec.ofNat 6 (2 ^ Cause.poison.bit)
  let s1 := if next then { s with sch := { s.sch with causesNext := s.sch.causesNext ||| m } }
    else { s with sch := { s.sch with causes := s.sch.causes ||| m } }
  s1.tally .bst BST.STEP_INVALID_CNT BST.EV_STEP_INVALID

/-- A LATE descriptor sets the poisoned-data cause of the timed step that contains its NEED_BY: the one in progress, up to its last
digest tick; the next one, after it; an earlier or an untimed step takes none (R24, R344; log 71). -/
def State.lateCause (s : State) (needBy : Nat) : State :=
  if s.sch.regime = .untimed || needBy ≤ s.sch.prevCut then s
  else s.poisonCause (s.sch.regime = .none || s.sch.startTick + s.fld .sch SCH.LAST_DIGEST < needBy)

/-- A completion is written (R341, R342, R344 to R346). -/
def State.complete (s : State) (q e : Nat) : State :=
  let l := s.queue q
  let late := l.status = lqOk && deNeedBy e ≠ 0 && deNeedBy e < l.visibleAt
  let st := if late then lqLate else l.status
  let head := s.fld .hif (HIF.LQ_SQ_HEAD q)
  let tail := s.fld .hif (HIF.LQ_CQ_TAIL q)
  let next := (tail + 1) % s.cqSize q
  let v := deTag e + st * 2 ^ 16 + l.pass.toNat * 2 ^ 19 + head * 2 ^ 20 + l.visibleAt * 2 ^ 64
  let s1 := s.send (.completion (BitVec.ofNat 64 (s.fld .hif (HIF.LQ_CQ_BASE q) * 4096 + 16 * tail)) (BitVec.ofNat 128 v))
  let rest : Bool := l.aborting && head ≠ s.fld .hif (HIF.LQ_SQ_TAIL q)
  let s2 := ((s1.setFld .hif (HIF.LQ_CQ_TAIL q) next).setQueue q
    { l with inFlight := none, pass := if next = 0 then !l.pass else l.pass, aborting := rest }).count .hif HIF.LQ_DESC_CNT
  let s3 := if st = lqOk then s2
    else if st = lqLate then (s2.tally .hif HIF.LQ_LATE_CNT HIF.EV_LQ_LATE).lateCause (deNeedBy e)
    else s2.tally .hif HIF.LQ_ERR_CNT HIF.EV_LQ_ERROR
  if deIrq e then s3.queueMessage (s.fld .hif (HIF.LQ_CTRL_VECTOR q)) else s3

/-- LQ_COMPLETION: once every byte is visible (R342). -/
def execLqCompletion (q : Fin 16) (s : State) : Host.Outcome State Fault Refusal :=
  .next (
    let s1 := s.settleQueue q.val
    let l := s1.queue q.val
    match l.inFlight with
    | some e => if l.reading || !l.todo.isEmpty then s1 else s1.complete q.val e.toNat
    | none => s1)

/-! The function (R334, R335, R339, R346). -/

/-- POWER_STATE_CHANGE (R335). -/
def execPowerStateChange (d3hot : Bool) (s : State) : Host.Outcome State Fault Refusal :=
  .next { s with host := { s.host with d3hot := d3hot } }

/-- Code of a speed in HIF_STATUS (R350). -/
def LinkSpeed.code : LinkSpeed → Nat
  | .gt8 => 3 | .gt16 => 4 | .gt32 => 5 | .gt64 => 6

/-- Lanes of a width. -/
def LinkWidth.lanes : LinkWidth → Nat
  | .x1 => 1 | .x2 => 2 | .x4 => 4 | .x8 => 8

/-- PCIE_LINK_UP: the link has trained, and enumeration leaves its settings (R334; log 6). -/
def execPcieLinkUp (speed : LinkSpeed) (width : LinkWidth) (flit : Bool) (cfg : PcieCfg) (s : State) :
    Host.Outcome State Fault Refusal :=
  .next (if s.deaf then s else
    let s1 := ({ s with host := { s.host with linkUp := true, cfg := cfg } }).setFlds .hif
      [(HIF.STATUS_SPEED, LinkSpeed.code speed), (HIF.STATUS_WIDTH, LinkWidth.lanes width), (HIF.STATUS_FLIT, flit.toNat)]
    if speed = .gt64 && LinkWidth.lanes width = pcieFunction.lanes then s1 else (s1.raise .hif HIF.EV_LINK_DOWNGRADE).degraded)

/-- BAR2_RESIZE: log2 of the size in GiB (R339); a part whose wipe has failed answers nothing (R381). -/
def execBar2Resize (log2GiB : Fin 7) (s : State) : Host.Outcome State Fault Refusal :=
  .next (if s.deaf then s else s.setFld .hif HIF.STATUS_BAR2_SIZE log2GiB.val)

/-- DOE_DISCOVERY: object types 0, DOE Discovery, and 1, CMA/SPDM, of vendor 1; any other index has none (R346; log 72). -/
def execDoeDiscovery (index : BitVec 8) (s : State) : Host.Outcome State Fault Refusal :=
  .next (if !s.zhexalRuns then s
    else s.send (match index.toNat with
      | 0 => .doe 0 1 0 1
      | 1 => .doe 1 1 1 0
      | n => .doe n 0xFFFF 0 0))

/-! Negotiation (R347). -/

/-- A negotiation write after close (R347). -/
def State.featIgnored (s : State) : State := s.tally .hif HIF.FEAT_IGNORED_CNT HIF.EV_FEAT_IGNORED

/-- GLB_FEAT_ACTIVE as the close computes it (R347). -/
def State.activeFeatures (s : State) : Nat :=
  let a := s.fld .glb GLB.FEAT_OFFER &&& s.fld .glb GLB.FEAT_ACCEPT
  let b := if bitOf a 0 then a else mergeBits a 0 0x4132
  let c := if s.host.cfg.ptmEnable then b else mergeBits b 0 0x400
  if s.signedForced then c ||| 0x2000 else c

/-- A write to GLB_FEAT_ACCEPT; any write after CLOSE is ignored and counted (R347). -/
def featAcceptWrite (w : RegW) (s : State) : State :=
  if !s.reaches .glb then s
  else if s.flag .hif HIF.STATUS_CLOSED then s.featIgnored
  else if w.half = .high then s
  else s.setFld .glb GLB.FEAT_ACCEPT (wData w)

/-- A write to GLB_FEAT_CLOSE; any write after CLOSE is ignored and counted (R347). -/
def featCloseWrite (w : RegW) (s : State) : State :=
  if !s.reaches .glb then s
  else if s.flag .hif HIF.STATUS_CLOSED then s.featIgnored
  else if !wHits w GLB.FEAT_CLOSE then s
  else ((s.setFld .glb GLB.FEAT_ACTIVE s.activeFeatures).setFld .hif HIF.STATUS_CLOSED 1).raise .glb GLB.EV_FEAT_CLOSED

/-- FEAT_ACCEPT (R347). -/
def execFeatAccept (w : RegW) (s : State) : Host.Outcome State Fault Refusal := .next (featAcceptWrite w s)

/-- FEAT_CLOSE (R347). -/
def execFeatClose (w : RegW) (s : State) : Host.Outcome State Fault Refusal := .next (featCloseWrite w s)

/-! Management messages (R213). -/

/-- MANAGEMENT_REQUEST: Zhexal answers by a best-effort message of one cell; the spec gives neither what the management window
holds nor where a request names its sender, so both are free (R213; log 73). -/
def execManagementRequest (_c : FCell) (s : State) : Host.Outcome State Fault Refusal :=
  .next (if !s.zhexalRuns then s
    else
      let a := s.takeZhexal.draw
      let d := a.2.drawBytes 40
      let hall : BitVec 16 := a.1.setWidth 16
      d.2.send (.manage hall (mkCell kBeHead 0 0 false (hall.toNat + leNat d.1 * 2 ^ 160))))

end Sys2Proof.Machine
end

