-- ==== Sys2Proof/Machine/Bus.lean ====
section
/-! DEFINITION. The register bus: what a BAR0 write does at each register, and what a read gives (R3, R337, R393, R406 to R414,
R417). -/
namespace Sys2Proof.Machine

/-! Writes. -/

/-- A write to the CTRL register of a page (R410). BUSY_CNT holds an occupancy from its start, and reads the cycles that have passed
(R183): clearing it leaves the cycles to come. -/
def ctrlPageWrite (p : Page) (w : RegW) (s : State) : State :=
  match p with
  | .glb => glbCtrlWrite w s
  | .htm => htmCtrlWrite w s
  | .sch => schCtrlWrite w s
  | .sec => secCtrlWrite w s
  | .bst => bstCtrlWrite w s
  | .ltr => ctrlWrite s .ltr w (ltrCtrl w)
  | .zn z => znCtrlWrite z w s
  | .kln k => ctrlWrite s (klnPage k.val) w (klnCtrl k.val w)
  | .lnk q => lnkCtrlWrite q w s
  | .tvec t => ctrlWrite s (.tvec t) w (onlyIf (wHits w COM.CNT_CLR) fun s => s.setFld (.tvec t) TVEC.BUSY_CNT (s.busyLeft t .vec))
  | .tarr t => ctrlWrite s (.tarr t) w (onlyIf (wHits w COM.CNT_CLR) fun s => s.setFld (.tarr t) TARR.BUSY_CNT (s.busyLeft t .arrStream))
  | p => ctrlWrite s p w id

/-- CNT_CLR: a write of 1 to CTRL.CNT_CLR of a page (R413). -/
def execCntClr (p : Page) (w : RegW) (s : State) : Host.Outcome State Fault Refusal :=
  .next (ctrlPageWrite p w (s.pageNow p))

/-- A write that stores its bits and does nothing else. -/
def plainWrite (p : Page) (off : Nat) (w : RegW) (s : State) : State := onlyIf (s.reaches p) (fun s => s.store p off w) s

/-- A write to a record that host software empties: only a write of 0 to the bits that it takes changes it (R3, R299, R355, R369, R405;
log 76). -/
def emptyWrite (p : Page) (off : Nat) (w : RegW) (s : State) : State := if wData w &&& takenBits s (regRow p off) w = 0 then plainWrite p off w s else s

/-- A write to the MSI-X table: a vector that it unmasks sends what pends (R346, R420). -/
def msixTableWrite (off : Nat) (w : RegW) (s : State) : State :=
  onlyIf (s.reaches .hif) (fun s => (s.store .hif off w).flushPending) s

/-- A write to PWR_SLEW_MAX; a value outside 2 to 100 leaves it as it is (R369). -/
def slewMaxWrite (w : RegW) (s : State) : State :=
  let v := bitsOf (wData w) 6 0
  if s.locked || !wCovers w PWR.SLEW_MAX || (2 ≤ v && v ≤ 100) then plainWrite .pwr PWR.SLEW_MAX.off w s else s

/-- A write to the registers of a loader queue (R343, R345, R350). -/
def queueRegWrite (q : Fin 16) (r off : Nat) (w : RegW) (s : State) : State :=
  if r = 0x00 then lqCtrlWrite q w s
  else if r = 0x18 then sqTailWrite q w s
  else if r = 0x28 then cqHeadWrite q w s
  else plainWrite .hif off w s

/-- A write to a block-specific register (R409, R410). -/
def blockWrite (p : Page) (off : Nat) (w : RegW) (s : State) : State :=
  match p with
  | .glb =>
    if off = GLB.FEAT_ACCEPT.off then featAcceptWrite w s
    else if off = GLB.FEAT_CLOSE.off then featCloseWrite w s else plainWrite p off w s
  | .hif =>
    if 0x200 ≤ off ∧ off < 0x600 then queueRegWrite ⟨(off - 0x200) / 0x40 % 16, Nat.mod_lt _ (by decide)⟩ ((off - 0x200) % 0x40) off w s
    else if 0x800 ≤ off ∧ off < 0xC00 then msixTableWrite off w s else plainWrite p off w s
  | .htm => if off = HTM.TOD_SET.off then todWrite w s else plainWrite p off w s
  | .swx => if off = SWX.HALL_ID.off then hallIdWrite w s else plainWrite p off w s
  | .pwr =>
    if off = PWR.SLEW_MAX.off then slewMaxWrite w s
    else if off = PWR.LAST_STOP.off then emptyWrite p off w s else plainWrite p off w s
  | .bst =>
    if off = BST.FATAL_LAST.off ∨ off = BST.PEER_FAULT.off then emptyWrite p off w s else plainWrite p off w s
  | .hyd =>
    if off = HYD.TAB_DATA.off then hydTabStore w s
    else if off = HYD.SILENT_FIRST.off then emptyWrite p off w s else plainWrite p off w s
  | .ltr => if off = (LTR.TAB_DATA 3).off then commitWrite s p off w ltrCommit else plainWrite p off w s
  | .rack => if off = (RACK.TAB_DATA 3).off then commitWrite s p off w rackCommit else plainWrite p off w s
  | .kln k => if off = (KLN.TAB_DATA 7).off then commitWrite s p off w (klnCommit k.val) else plainWrite p off w s
  | .tspd t =>
    if off = TSPD.BANK_PWR.off then
      s.bankPwrWrite t ((List.range 16).filter fun b => wCovers w ⟨off, 2 * b + 1, 2 * b⟩) (wData w)
    else plainWrite p off w s
  | p => plainWrite p off w s

/-- A write that reaches a page. -/
def pageWrite (p : Page) (off : Nat) (w : RegW) (s : State) : State :=
  if off = 0x010 then ctrlPageWrite p w (s.pageNow p)
  else if off = 0x020 then onlyIf ((s.pageNow p).reaches p) (fun s => s.clearEvents p (wData w)) (s.pageNow p)
  else if off = 0x028 then onlyIf (s.reaches p) (fun s => s.writeEnable p w) s
  else blockWrite p off w s

/-- An access of another size or alignment (R337, R393). -/
def State.badAccess (s : State) : State := onlyIf (s.reaches .hif) (fun s => s.tally .hif HIF.BAD_ACCESS_CNT HIF.EV_BAD_ACCESS) s

/-- The part of a register that an aligned access of 4 or 8 bytes covers (R337, R406). -/
def accessHalf (off size : Nat) : Option Half :=
  if size = 8 ∧ off % 8 = 0 then some .whole
  else if size = 4 ∧ off % 8 = 0 then some .low
  else if size = 4 ∧ off % 8 = 4 then some .high
  else none

/-- REGISTER_WRITE: a BAR0 write of `size` bytes (R3, R337, R406, R407, R409). -/
def execRegisterWrite (off : BitVec 26) (size : Nat) (val : Reg) (s : State) : Host.Outcome State Fault Refusal :=
  .next (match accessHalf off.toNat size with
    | none => s.badAccess
    | some h => match pageAt off.toNat with
      | none => s
      | some p => pageWrite p (off.toNat % 0x1000 / 8 * 8) ⟨h, val⟩ s)

/-! Reads. -/

/-- The chip pages in the order of their page index (R415). -/
def chipPages : List Page :=
  [.glb, .hif, .irq, .htm, .sch, .pwr, .thm, .sec, .bst, .hyd, .ltr, .coop, .swx, .rack] ++ (List.finRange 8).map .zn ++
    (List.finRange 8).map .kln ++ (List.finRange 8).map .mem ++ (List.finRange 12).map .lnk

/-- The five pages of a tile (R416). -/
def tilePages (t : Fin 128) : List Page := [.tctl t, .tarr t, .tvec t, .tmil t, .tspd t]

/-- A word with bit `i` set where the `i`-th test holds. -/
def bitWord (bs : List Bool) : Nat := (bs.zipIdx.map fun b => b.1.toNat * 2 ^ b.2).sum

/-- The stored bits of a register of a page. -/
def State.stored (s : State) (p : Page) (off : Nat) : Nat := (s.reg (pageBase p + off)).toNat

/-- GLB_STATUS, the event summaries, and the rest of the page as stored (R417). -/
def State.glbView (s : State) (off : Nat) : Nat :=
  let tiles := fun (lo : Nat) => bitWord (((List.finRange 128).drop lo |>.take 64).map fun t =>
    (tilePages t).any fun p => s.fld p COM.EVENT != 0)
  if off = 0x018 then
    bitWord [s.stage = stageReady, s.flag .hif HIF.STATUS_CLOSED, s.timedReadyNow, s.alertLow,
      s.boot.coreBusy || s.boot.fabricBusy]
  else if off = GLB.EVENT_SUM.off then bitWord (chipPages.map fun p => s.fld p COM.EVENT != 0)
  else if off = GLB.TILE_SUM0.off then tiles 0
  else if off = GLB.TILE_SUM1.off then tiles 64
  else s.stored .glb off

/-- The HIF page; a doorbell or a disable that has arrived before this tick shows (R343, R345). -/
def State.hifView (s : State) (off : Nat) : Nat :=
  ((List.range 16).foldl (fun s q => s.settleQueue q) s).stored .hif off

/-- IRQ_STATUS (R421). -/
def State.irqView (s : State) (off : Nat) : Nat :=
  if off = 0x018 then bitWord [s.host.cfg.msixEnable, s.host.cfg.functionMask, s.host.cfg.busMaster] else s.stored .irq off

/-- HTM_TIME (R49). -/
def State.htmView (s : State) (off : Nat) : Nat :=
  if off = HTM.TIME.off then s.ht % 2 ^ 64
  else if off = 0x018 then s.stored .htm off ||| (s.contributing.map fun p => 2 ^ (16 + p)).sum
  else s.stored .htm off

/-- What the SEC page shows of the fuses and of the level-2 tree (R388). -/
def State.secView (s : State) (off : Nat) : Nat :=
  let o := s.sec.otp
  if off = 0x018 then
    mergeBits (s.stored .sec off) (o.lc + o.ownerValid.toNat * 2 ^ 5 + o.forceSigned.toNat * 2 ^ 6 +
      s.sec.bonded.leaf.isSome.toNat * 2 ^ 7) 0xE7
  else if off = SEC.SVN.off then s.stored .sec off + o.svn.val
  else if off = SEC.LMS.off then o.lms1 % 2 ^ 13 + (s.sec.bonded.leaf.getD 0) % 2 ^ 16 * 2 ^ 16
  else s.stored .sec off

/-- BST_STATUS.ALERT (R405). -/
def State.bstView (s : State) (off : Nat) : Nat :=
  if off = 0x018 then mergeBits (s.stored .bst off) (s.alertLow.toNat * 2 ^ BST.STATUS_ALERT.lo) (2 ^ BST.STATUS_ALERT.lo)
  else s.stored .bst off

/-- Whether a snapshot is being written (R292, R299). -/
def State.snapBusy (s : State) : Bool :=
  let n := s.hyd.config.countP fun e => hAuto e.2 || hNoise e.2
  s.sch.regime != .none && s.hyd.snapped && s.stepTick < s.fld .hyd HYD.SNAP_TICK + 1000 + 16 * n

/-- HYD_STATUS and the entry that HYD_TAB_SEL selects (R299). -/
def State.hydView (s : State) (off : Nat) : Nat :=
  if off = 0x018 then
    bitWord [s.snapBusy, s.hyd.readDone.any fun t => s.clk.phase < t, !s.hyd.selPending.isEmpty]
  else if off = HYD.TAB_DATA.off then s.hydTabData.toNat
  else s.stored .hyd off

/-- One 64-bit word of an entry. -/
def entryWord (v i : Nat) : Nat := v / 2 ^ (64 * i) % 2 ^ 64

/-- LTR_STATUS and the entry that LTR_TAB_SEL selects (R261). -/
def State.ltrView (s : State) (off : Nat) : Nat :=
  let self := s.selfMember
  if off = 0x018 then
    (s.clk.phase < s.ltr.busyTill : Bool).toNat + s.fld .ltr LTR.STATUS_SWAP_PEND * 2 + self.isSome.toNat * 4 +
      (self.getD 0) % 16 * 2 ^ 4 + min 65535 s.ltr.outQ.length * 2 ^ 16 + min 65535 s.ltr.retQ.length * 2 ^ 32
  else if (LTR.TAB_DATA 0).off ≤ off ∧ off ≤ (LTR.TAB_DATA 3).off then entryWord s.ltrTabEntry ((off - (LTR.TAB_DATA 0).off) / 8)
  else s.stored .ltr off

/-- COOP_STATUS.LIVE, COOP_QUERY, and the free buffers of the pools (R205). -/
def State.coopView (s : State) (off : Nat) : Nat :=
  let free := fun (i : Nat) (cs : List Nat) => match s.pool i with
    | some p => (cs.zipIdx.map fun c => min 65535 (s.freeCount p c.1) * 2 ^ (16 * c.2)).sum
    | none => 0
  if off = 0x018 then s.fld .coop COOP.STATUS_POOL_EN + s.liveCount * 2 ^ 32
  else if off = COOP.QUERY.off then s.coopQuery (s.fld .coop COOP.QUERY_ID)
  else if 0x200 ≤ off ∧ off < 0x400 ∧ off % 0x20 = 0x00 then free ((off - 0x200) / 0x20) [0, 1, 2, 3]
  else if 0x200 ≤ off ∧ off < 0x400 ∧ off % 0x20 = 0x08 then free ((off - 0x200) / 0x20) [4, 5]
  else s.stored .coop off

/-- Whether the pass of R301 is running. -/
def State.seqBusy (s : State) : Bool :=
  s.nextStart.isSome && s.sch.img.isSome && s.sch.seqDone < s.batches.length && s.seqBegin ≤ s.clk.phase

/-- RACK_STATUS and the entry that RACK_TAB_SEL selects (R320). -/
def State.rackView (s : State) (off : Nat) : Nat :=
  if off = 0x018 then
    bitWord ((List.range 8).map fun k => (List.range 64).any fun e => (s.rackOpen k e).isOpen) + s.seqBusy.toNat * 2 ^ 8 +
      s.fld .rack RACK.STATUS_LAST2_VALID * 2 ^ 9
  else if (RACK.TAB_DATA 0).off ≤ off ∧ off ≤ (RACK.TAB_DATA 3).off then entryWord s.rackTabEntry ((off - (RACK.TAB_DATA 0).off) / 8)
  else s.stored .rack off

/-- KLN_STATUS.BUSY and the entry that KLN_TAB_SEL selects (R281). -/
def State.klnView (s : State) (k : Fin 8) (off : Nat) : Nat :=
  if off = 0x018 then mergeBits (s.stored (.kln k) off) (s.clk.phase < smGet 0 s.kln.busy k.val : Bool).toNat 1
  else if (KLN.TAB_DATA 0).off ≤ off ∧ off ≤ (KLN.TAB_DATA 7).off then
    entryWord (s.klnTabEntry k.val) ((off - (KLN.TAB_DATA 0).off) / 8)
  else s.stored (.kln k) off

/-- MEM_STATUS, and the index of the next window (R333). -/
def State.memView (s : State) (k : Fin 8) (off : Nat) : Nat :=
  let timed := s.sch.regime = .timed
  let ws := s.windows k.val
  let tick := s.stepTick
  if off = 0x018 then
    s.fld (.mem k) MEM.STATUS_STATE + (timed : Bool).toNat * 2 ^ 3 +
      (timed && ws.any fun w => w.kind = winU && w.holds tick).toNat * 2 ^ 4
  else if off = MEM.WIN_PTR.off then if timed then ws.countP fun w => w.start ≤ tick else 0
  else s.stored (.mem k) off

/-- IDLE_CNT, and the index of the next run (R237). -/
def State.lnkView (s : State) (q : Fin 12) (off : Nat) : Nat :=
  if off = LNK.IDLE_CNT.off then min (2 ^ 64 - 1) (s.stored (.lnk q) off + s.idleSlots q.val)
  else if off = LNK.RUN_PTR.off then
    if s.sch.regime = .timed then
      (List.range (s.runCount q.val)).countP fun i => (s.run q.val i).start * outPeriod q.val ≤ s.stepPhase
    else 0
  else s.stored (.lnk q) off

/-- The tile that a pending region lies in. -/
def Region.tile : Region → Nat
  | .granule t _ | .shadow t | .active t | .half t _ => t

/-- TCTL_STATUS: the zone's point, and whether a region of the tile is pending (R124). -/
def State.tctlView (s : State) (t : Fin 128) (off : Nat) : Nat :=
  if off = 0x018 then
    mergeBits (s.stored (.tctl t) off) (s.fld (.zn (zoneOf t.val)) ZN.STATUS_OP +
      (s.tiles.pend.any fun r => Region.tile r.region = t.val && s.clk.phase < r.till).toNat * 2 ^ 12) 0x1003
  else s.stored (.tctl t) off

/-- Whether a row of an accumulator half carries POISON (R125). -/
def State.halfPoison (s : State) (t : Fin 128) (b : Bool) : Bool :=
  s.tiles.acc.any fun e => e.1 / 1024 = 2 * t.val + b.toNat && e.2.poison

/-- A descriptor register of the stationary buffers (R125). -/
def blockDesc : Option Block → Nat
  | some b => b.desc.toNat + 2 ^ 15
  | none => 0

/-- TARR_STATUS and the descriptors of the two buffers (R125). -/
def State.tarrView (s : State) (t : Fin 128) (off : Nat) : Nat :=
  let a := s.arr t
  let now := s.clk.phase
  let sh := a.candidate
  if off = 0x018 then
    (match sh with | none => 0 | some b => if b.fullAt ≤ now then 2 else 1) +
      (match a.active with
        | none => 0
        | some b => 2 ^ 2 + b.sparse.toNat * 2 ^ 3 + b.fmt.toNat * 2 ^ 4 + b.poison.toNat * 2 ^ 13) +
      (s.pendingAt [.half t.val false] now).toNat * 2 ^ 8 + (s.pendingAt [.half t.val true] now).toNat * 2 ^ 9 +
      (s.halfPoison t false).toNat * 2 ^ 10 + (s.halfPoison t true).toNat * 2 ^ 11 +
      (sh.any fun b => b.poison).toNat * 2 ^ 12
  else if off = TARR.BUSY_CNT.off then s.stored (.tarr t) off - s.busyLeft t .arrStream
  else if off = TARR.ACTIVE_DESC.off then blockDesc a.active
  else if off = TARR.SHADOW_DESC.off then blockDesc sh
  else s.stored (.tarr t) off

/-- BUSY in bit 0 of the STATUS of a tile unit, and the vector engine's cycles within occupancy so far (R152, R183). -/
def State.busyView (s : State) (p : Page) (t : Fin 128) (u : Unit_) (off : Nat) : Nat :=
  if off = 0x018 then mergeBits (s.stored p off) (s.clk.phase < s.busyTill t.val u : Bool).toNat 1
  else if u = .vec ∧ off = TVEC.BUSY_CNT.off then s.stored p off - s.busyLeft t u
  else s.stored p off

/-- What a register of a page that answers reads at this instant. -/
def State.liveReg (s : State) (p : Page) (off : Nat) : Nat :=
  if off = 0 then pageId p
  else if off = 0x008 then s.fld .glb GLB.FEAT_ACTIVE &&& pageFeatMask p
  else match p with
  | .glb => s.coopNow.glbView off
  | .hif => s.hifView off
  | .irq => s.irqView off
  | .htm => s.htmView off
  | .sec => s.secView off
  | .bst => s.bstView off
  | .hyd => s.hydView off
  | .ltr => s.ltrView off
  | .coop => s.coopNow.coopView off
  | .rack => s.rackView off
  | .kln k => s.klnView k off
  | .mem k => s.memView k off
  | .lnk q => s.lnkView q off
  | .tctl t => s.tctlView t off
  | .tarr t => s.tarrView t off
  | .tvec t => s.busyView p t .vec off
  | .tmil t => s.busyView p t .mill off
  | p => s.stored p off

/-- What a register reads: a page that a core reset clears reads its reset values until CORE_DONE, and any other page that does
not answer reads 0 (R393, R407). -/
def State.readReg (s : State) (p : Page) (off : Nat) : Nat :=
  if s.answers p then s.liveReg p off
  else if s.stage = stageReady && !s.host.d3hot && s.boot.coreBusy && coreClears p then pageReset p off
  else 0

/-- Whether every bit of a register that its page's table defines is RO (R414). -/
def isRo (p : Page) (off : Nat) : Bool :=
  let r := regRow p off
  (pageRegs p).any (fun x => x.off = off) && r.rw ||| r.rwl ||| r.w1c ||| r.wo == 0

/-- The latch of a page, and the register of the page's last low-half read; none before the first (R414). -/
def State.latchOf (s : State) (p : Page) : BitVec 32 × Nat := smGet (0, 1) s.host.latch (pageBase p)

/-- A 32-bit read of the low half: an RO register latches its high half, and HTM_TIME its fraction (R49, R414). -/
def State.readLow (s : State) (p : Page) (off : Nat) : State :=
  let v := s.readReg p off
  let hi := if isRo p off then BitVec.ofNat 32 (v / 2 ^ 32) else (s.latchOf p).1
  let s1 := { s with host := { s.host with latch := smSet (0, 1) s.host.latch (pageBase p) (hi, off) } }
  if p = .htm ∧ off = HTM.TIME.off then s1.setFld .htm HTM.TIME_FRAC (s.clk.ht.toNat % 65536) else s1

/-- What a 32-bit read of the high half returns: the latch, where the page's last low-half read was of this register (R414). -/
def State.readHigh (s : State) (p : Page) (off : Nat) : Nat :=
  if isRo p off && (s.latchOf p).2 == off then (s.latchOf p).1.toNat else s.readReg p off / 2 ^ 32

/-- LOW_HALF_READ: a read of the low half of a register; at an offset of 4 modulo 8 the later read of its high half; of
8 bytes, which leaves the latch; any other is no register access (R337, R393, R407, R414; log 77).  In D3hot the function answers
configuration requests only: AER reports the request, and nothing comes back (R335, R346). -/
def execLowHalfRead (r : BarRead) (s : State) : Host.Outcome State Fault Refusal :=
  .next (
    let o := r.off.toNat
    let reg := o % 0x1000 / 8 * 8
    if s.stage = stageReady && s.host.d3hot then s.aerError aerUnsupported
    else match accessHalf o r.size, pageAt o with
    | none, _ => s.badAccess.send (.readData o 0)
    | some .whole, some p => s.send (.readData o (BitVec.ofNat 64 (s.readReg p reg)))
    | some .high, some p =>
      s.send (.readData o (BitVec.ofNat 64 ((if s.answers p then s.readHigh p reg else s.readReg p reg / 2 ^ 32) % 2 ^ 32)))
    | some .low, some p =>
      (onlyIf (s.answers p) (fun s => s.readLow p reg) s).send (.readData o (BitVec.ofNat 64 (s.readReg p reg % 2 ^ 32)))
    | some _, none => s.send (.readData o 0))

end Sys2Proof.Machine
end

