-- ==== Sys2Proof/Machine/Irq.lean ====
section
/-! DEFINITION. Events, enables and MSI-X messages (R412, R419, R420). -/
namespace Sys2Proof.Machine

/-- EVENT_CLEAR (R412). -/
def execEventClear (p : Page) (w : RegW) (s0 : State) : Host.Outcome State Fault Refusal :=
  let s := s0.pageNow p
  .next (if s.reaches p then s.clearEvents p (wData w) else s)

/-- EVENT_ENABLE_WRITE (R419). -/
def execEventEnableWrite (p : Page) (w : RegW) (s : State) : Host.Outcome State Fault Refusal :=
  .next (if s.reaches p then s.writeEnable p w else s)

/-- MSIX_SEND: the first message in the order of R420 is sent, pended or dropped; with none asked for, nothing happens. -/
def execMsixSend (s : State) : Host.Outcome State Fault Refusal :=
  .next (match s.host.irqQ with
    | [] => s
    | r :: t => ({ s with host := { s.host with irqQ := t } }).message r.vector)

/-- MSIX_UNMASK: clearing a vector's mask bit or the Function Mask sends what is pending (R420). -/
def execMsixUnmask (u : Unmask) (s : State) : Host.Outcome State Fault Refusal :=
  .next (match u with
    | .vector v =>
      if !s.reaches .hif then s else
      let f := HIF.MSIX_TABLE (2 * v.val + 1)
      (s.setFld .hif f (mergeBits (s.fld .hif f) 0 (2 ^ 32))).flushPending
    | .function => ({ s with host := { s.host with cfg := { s.host.cfg with functionMask := false } } }).flushPending)

end Sys2Proof.Machine
end

