-- ==== Sys2Proof/Machine/Slots.lean ====
section
/-! DEFINITION. The order of the cells of a slot, and the commands that take them at a switch (R222, R223, R226, R229). -/
namespace Sys2Proof.Machine

/-- Whether two flights name the same slot of an input lane. -/
def Flight.same (f g : Flight) : Bool := f.sw = g.sw && f.input = g.input && f.lane = g.lane && f.at_ = g.at_

/-- Whether a cell is a REDUCE cell at an edge switch. -/
def Flight.combines (f : Flight) : Bool := f.cell.kind = 3 && !f.lost && !swIsRouter f.sw

/-- Whether two cells belong to one combine (R226). -/
def Flight.joins (f g : Flight) : Bool :=
  f.combines && g.combines && f.sw = g.sw && f.at_ = g.at_ && f.cell.channel = g.cell.channel

/-- Whether a head belongs to a BACKGROUND channel (R215, R223). -/
def State.bgHead (s : State) (f : Flight) : Bool :=
  s.isBackground f.sw f.cell.channel f.at_ (match f.sw with
    | .router t => s.routerAsk t.val f.input f.cell f.goal
    | sw => (s.edgeAsk (swIsEast sw) f.input f.cell f.goal).1).wants

/-- The lowest input of the cells that a combine takes with a cell; any other cell's own input (R223). -/
def State.leadInput (s : State) (f : Flight) : Nat := ((s.fab.flight.filter f.joins).map Flight.input).foldl min f.input

/-- Place of a cell in the order of its slot: bodies, then scheduled heads and combines by input, then best-effort heads by HOP and
input (R223). -/
def State.slotRank (s : State) (f : Flight) : Nat :=
  if f.lost || f.cell.kind = 1 then 16 * f.input + f.lane
  else if f.cell.kind = 2 || (f.cell.kind = 0 && s.bgHead f) then 2 ^ 21 + (31 - f.cell.hop.toNat) * 2 ^ 10 + 16 * f.input + f.lane
  else 2 ^ 20 + 16 * s.leadInput f + f.lane

/-- Place of a cell in the order of its switch: by slot, then within the slot. -/
def State.switchRank (s : State) (f : Flight) : Nat := f.at_ * 2 ^ 22 + s.slotRank f

/-- The REDUCE cells of a channel at a slot edge of an edge switch are combined (R226).  Reductions run only in the timed regime
(R228): outside it the cells are discarded (log 41). -/
def State.combineAt (s0 : State) (sw : Sw) (ch : BitVec 16) (t : Phase) : State :=
  let e := s0.chanEntry ch
  let s := s0.advanceTo t
  let mine := fun (f : Flight) => f.combines && f.sw = sw && f.cell.channel = ch && f.at_ = t
  let s1 := { s with fab := { s.fab with flight := s.fab.flight.filter fun f => !mine f } }
  let r := (sortOn Flight.input (s.fab.flight.filter mine)).foldl (fun acc f => State.redInput acc sw e t f) ([], s1.settle t)
  if r.1.isEmpty || s.sch.regime != .timed then r.2 else r.2.combine sw ch e t r.1

/-- A switch takes the cell of a slot, at its time; with a REDUCE cell at an edge switch, all of its combine. -/
def State.takeCell (s0 : State) (f : Flight) (loss : Nat) : State :=
  let s := s0.advanceTo f.at_
  match s.fab.flight.find? f.same with
  | none => s0
  | some g =>
    let s1 := { s with fab := { s.fab with flight := s.fab.flight.filter fun x => !f.same x } }
    if g.combines then s.combineAt g.sw g.cell.channel g.at_
    else if g.lost || g.cell.kind = 1 then s1.bodyAt g loss
    else if g.cell.kind = 2 then s1.beHeadAt g loss
    else s1.headAt g loss

/-- Cells of a switch, in its order. -/
def State.takeCells (s : State) (fs : List Flight) : State :=
  (sortOn s.switchRank fs).foldl (fun s g => s.takeCell g 0) s

/-- The cells of a switch that a cell comes after: those of earlier slots, and those before it in its own (R223). -/
def State.cellsBefore (s : State) (f : Flight) : List Flight :=
  s.fab.flight.filter fun g => g.sw = f.sw && !f.joins g && s.switchRank g < s.switchRank f

/-- A switch takes a cell after those that come before it, which lose no bank conflict (R223; log 19). -/
def State.takeInOrder (s : State) (f : Flight) (loss : Nat) : State := (s.takeCells (s.cellsBefore f)).takeCell f loss

/-- The earliest cell on its way that a test accepts. -/
def State.firstFlight (s : State) (p : Flight → Bool) : Option Flight :=
  (takeFirst Flight.at_ (s.fab.flight.filter p)).map Prod.fst

/-- The first cell that a test accepts is taken in the order of its switch. -/
def State.switchTakes (s : State) (p : Flight → Bool) (loss : Nat) : State :=
  match s.firstFlight p with
  | some f => s.takeInOrder f loss
  | none => s

/-- Whether a cell stands at a switch input. -/
def Flight.isAt (f : Flight) (sw : Sw) (input : Fin 32) : Bool := f.sw = sw && f.input = input.val

/-- Whether a cell is a scheduled head: a HEAD, or a REDUCE cell at a router (R218, R223). -/
def Flight.isHead (f : Flight) : Bool := !f.lost && (f.cell.kind = 0 || (f.cell.kind = 3 && swIsRouter f.sw))

/-- Whether a slot carries a BODY cell, or one that failed its CRC (R209). -/
def Flight.isBody (f : Flight) : Bool := f.lost || f.cell.kind = 1

/-- Whether a cell is a best-effort head. -/
def Flight.isBeHead (f : Flight) : Bool := !f.lost && f.cell.kind = 2

/-- HEAD_CELL: the first scheduled head at a switch input (R223). -/
def execHeadCell (sw : Sw) (input : Fin 32) (loss : Nat) (s : State) : Host.Outcome State Fault Refusal :=
  .next (s.switchTakes (fun f => f.isAt sw input && f.isHead) loss)

/-- BODY_CELL: the first body cell, or failed cell, at a switch input (R209, R222). -/
def execBodyCell (sw : Sw) (input : Fin 32) (loss : Nat) (s : State) : Host.Outcome State Fault Refusal :=
  .next (s.switchTakes (fun f => f.isAt sw input && f.isBody) loss)

/-- BE_HEAD_CELL: the first best-effort head at a switch input (R225). -/
def execBeHeadCell (sw : Sw) (input : Fin 32) (loss : Nat) (s : State) : Host.Outcome State Fault Refusal :=
  .next (s.switchTakes (fun f => f.isAt sw input && f.isBeHead) loss)

/-- Whether a DIGEST channel's entry names no port, and its own digest still waits for its combine at a switch (R229). -/
def State.digestAlone (s : State) (sw : Sw) (ch : BitVec 16) : Bool :=
  let e := s.chanEntry ch
  s.sch.regime = .timed && ceKind e = chReduction && ceOp e = opDigest && ceInMask e = 0 && s.fab.digestOwed.contains ch.toNat &&
    sw = edgeSw (combineEast e)

/-- A combine of the own digest alone, at the first edge at which its OUT takes a cell; it comes after every input (R223, R229). -/
def State.combineAlone (s0 : State) (sw : Sw) (ch : BitVec 16) : State :=
  let till := fun (s : State) (t : Phase) => s.takeCells (s.fab.flight.filter fun f => f.sw = sw && f.at_ ≤ t)
  let s := till s0 (max s0.clk.phase (s0.digestFrom ch))
  match s.digestEdge sw (s.chanEntry ch) ch (max s.clk.phase (s.digestFrom ch)) with
  | some t => ((till s t).advanceTo t).combine sw ch (s.chanEntry ch) t []
  | none => s0

/-- REDUCE_COMBINE: the REDUCE cells of a channel at a switch's next slot edge (R226, R228). -/
def execReduceCombine (sw : Sw) (channel : BitVec 16) (s : State) : Host.Outcome State Fault Refusal :=
  .next (match s.firstFlight fun f => f.combines && f.sw = sw && f.cell.channel = channel with
    | some f => s.takeInOrder f 0
    | none => if s.digestAlone sw channel then s.combineAlone sw channel else s)

end Sys2Proof.Machine
end

