-- ==== Sys2Proof/Machine/VecRows.lean ====
section
/-! DEFINITION. Vector operations of classes 3 to 8: softmax, norms, top-k, sorting, gather and scatter, random numbers, and
SPD_INVERSE (R170 to R181, R144). -/
namespace Sys2Proof.Machine

/-! Softmax states (R171). -/

/-- The form of a softmax row or state (R171). -/
inductive SmForm where
  | nan
  | inf (k : Nat)
  | empty
  | finite (m s : Fp)
deriving DecidableEq, Repr

/-- Canonical NaN of FP32, and the code of an infinity. -/
def nan32 : Nat := 0x7FC0_0000
def inf32 (s : Bool) : Nat := if s then 0xFF80_0000 else 0x7F80_0000

/-- The 16 bytes of a state (R171). -/
def SmForm.bytes : SmForm → List Byte
  | .nan => leBytes 4 nan32 ++ leBytes 4 nan32 ++ leBytes 4 0 ++ leBytes 4 4
  | .inf k => leBytes 4 (inf32 false) ++ leBytes 4 0 ++ leBytes 4 k ++ leBytes 4 2
  | .empty => leBytes 4 (inf32 true) ++ leBytes 4 0 ++ leBytes 4 0 ++ leBytes 4 1
  | .finite m s => leBytes 4 (rne32 m).toNat ++ leBytes 4 (rne32 s).toNat ++ leBytes 8 0

/-- The form that a state's fields give; one that matches none reads as NAN and counts BAD_STATE (R171; log 31). -/
def smRead (v : Nat) : SmForm × Bool :=
  let m := valueOf fFP32 (elemAt 32 v 0)
  let s := valueOf fFP32 (elemAt 32 v 1)
  let k := sgn 32 (elemAt 32 v 2)
  let zero := s == fpZero || (s.isZero && !s.sign)
  if m.isNan && s.isNan && k = 0 then (.nan, false)
  else if m == .inf false && zero && k ≥ 1 then (.inf k.toNat, false)
  else if m == .inf true && zero && k = 0 then (.empty, false)
  else if m.isFin && s.isFin && fpOne.le s && k = 0 then (.finite m s, false)
  else (.nan, true)

/-- The state at an address, with the event that reading it counts. -/
def State.smState (s : State) (t : Fin 128) (a : Nat) : SmForm × List Nat :=
  let r := smRead (s.vWord t a 16)
  (r.1, if r.2 then [TVEC.EV_BAD_STATE] else [])

/-- EXP2 core at (x − m) × C_LOG2E (R170). -/
def expDiff (x m : Fp) : Fp := exp2Core ((x.sub m).mul cLog2e)

/-- The form of a row of x_i, masked and absent ones given as none (R170). -/
def smForm (xs : List (Option Fp)) : SmForm :=
  let ps := xs.filterMap id
  let k := ps.countP (· == .inf false)
  if ps.any Fp.isNan then .nan
  else if k ≥ 1 then .inf k
  else if !ps.any Fp.isFin then .empty
  else
    let m := ps.foldl Fp.max (.inf true)
    .finite m (rowCombine combSum (xs.map fun x => x.map fun v => expDiff v m))

/-- The x_i of a row (R170). -/
def State.smRow (s : State) (i : TileIssue) (x : VSpec) (r : Nat) : List (Option Fp) × Nat :=
  let a := s.vRow i.tile x (x.opnd 0) r
  ((List.zip a.vals (s.vPresent i x r)).map fun v => if v.2 then some (round32 (x.p0.mul v.1)) else none, a.t2)

/-- The probabilities of a row, normalised or not (R170, R172). -/
def smOut (f : SmForm) (norm : Bool) (x : Option Fp) : Fp :=
  match f, x with
  | .nan, _ => .nan
  | .inf k, some v => if v == .inf false then (if norm then fpOne.div (fpInt k 0) else fpOne) else fpZero
  | .finite m t, some v => if norm then (expDiff v m).div t else expDiff v m
  | _, _ => fpZero

/-- The row event of a form (R170, R174). -/
def SmForm.event : SmForm → List Nat
  | .nan => [TVEC.EV_NAN_ROW] | .inf _ => [TVEC.EV_INF_ROW] | .empty => [TVEC.EV_EMPTY_ROW] | .finite _ _ => []

/-- A row of SOFTMAX or SM_STATE; a row whose every element is absent leaves an EMPTY state and counts nothing (R159, R170, R172). -/
def State.smRowRes (s : State) (i : TileIssue) (x : VSpec) (c : ConvSpec × Int) (norm state : Bool) (r : Nat) : VRes :=
  let l := s.smRow i x r
  let f := smForm l.1
  let gone := allAbsent (s.vAbsent i x r)
  let o := s.rowOut i x c r l.2 (l.1.map fun v => (smOut f norm v, []))
  let o1 := if state then o.append (.bytes [(x.aux + 16 * r, f.bytes)]) else o
  if norm && !gone then o1.tick f.event else o1

/-- The operation SOFTMAX (R170). -/
def softmaxOp (i : TileIssue) : VecOp :=
  let state := i.word.uspec.getLsbD 0
  let p := VecOp.plain 3 0 [0] vP0 fun s i x c => VRes.rows x.rows (s.smRowRes i x c true state)
  let side := fun (x : VSpec) => if state then [(x.aux, 16 * x.rows)] else []
  { p with
    o := true, uspec := 1, work := fun x => 3 * x.padded
    regOut := fun x _ => x.regions (x.opnd 3) ++ (side x).map fun r => plainReg 16 r.1 r.2
    writes := fun _ _ x => x.rowRanges (x.opnd 3) ++ side x }

/-- SOFTMAX (R170). -/
def execSoftmax (i : TileIssue) (s : State) : Host.Outcome State Fault Refusal := issueVec (softmaxOp i) i s

/-- The operation SM_STATE (R172). -/
def smStateOp : VecOp :=
  let p := VecOp.plain 3 1 [0] vP0 fun s i x c => VRes.rows x.rows (s.smRowRes i x c false true)
  { p with
    o := true, work := fun x => 3 * x.padded
    regOut := fun x _ => x.regions (x.opnd 3) ++ [plainReg 16 x.aux (16 * x.rows)]
    writes := fun _ _ x => x.rowRanges (x.opnd 3) ++ sideRanges x 16 }

/-- SM_STATE (R172). -/
def execSmState (i : TileIssue) (s : State) : Host.Outcome State Fault Refusal := issueVec smStateOp i s

/-- A merged state with its two factors (R173). -/
def smMerge : SmForm → SmForm → SmForm × Fp × Fp
  | .nan, _ => (.nan, .nan, .nan)
  | _, .nan => (.nan, .nan, .nan)
  | .inf j, .inf k => (.inf (min (j + k) (2 ^ 31 - 1)), fpOne, fpOne)
  | .inf j, _ => (.inf j, fpOne, fpZero)
  | _, .inf k => (.inf k, fpZero, fpOne)
  | .empty, .empty => (.empty, fpZero, fpZero)
  | .finite m t, .empty => let f := expDiff m m; (.finite m (round32 ((t.mul f).add (fpZero.mul fpZero))), f, fpZero)
  | .empty, .finite m t => let f := expDiff m m; (.finite m (round32 ((fpZero.mul fpZero).add (t.mul f))), fpZero, f)
  | .finite a p, .finite b q =>
    let m := Fp.max a b
    let f := expDiff a m
    let g := expDiff b m
    (.finite m (round32 ((p.mul f).add (q.mul g))), f, g)

/-- SM_MERGE of state pair j (R173). -/
def State.smMergeOne (s : State) (i : TileIssue) (x : VSpec) (ab : List Bool) (j : Nat) : VRes :=
  if ab.getD j false then
    (if x.wzero then .bytes [((x.opnd 3).addr + 16 * j, List.replicate 16 0)] else .empty)
  else
    let a := s.smState i.tile ((x.opnd 0).addr + 16 * j)
    let b := s.smState i.tile ((x.opnd 1).addr + 16 * j)
    let m := smMerge a.1 b.1
    (VRes.bytes [((x.opnd 3).addr + 16 * j, m.1.bytes),
      (x.aux + 8 * j, leBytes 4 (rne32 m.2.1).toNat ++ leBytes 4 (rne32 m.2.2).toNat)]).tick (a.2 ++ b.2)

/-- A region of states, identical with another one of the same place. -/
def stateReg (a n : Nat) : VReg := plainReg 16 a (16 * n)

/-- The operation SM_MERGE (R173). -/
def smMergeOp : VecOp :=
  let p := VecOp.plain 3 2 [] 0 fun s i x _ => VRes.rows x.n0 (s.smMergeOne i x (s.vAbsent i x 0))
  { p with
    w := false, converts := false, work := fun x => 4 * x.n0
    bad := fun _ _ x => vDims x.d ≠ 1 || (List.range 4).any fun o => o ≠ 2 && (x.opnd o).addr % 4 ≠ 0
    regIn := fun x _ => [stateReg (x.opnd 0).addr x.n0, stateReg (x.opnd 1).addr x.n0]
    regOut := fun x _ => [stateReg (x.opnd 3).addr x.n0, plainReg 8 x.aux (8 * x.n0)]
    reads := fun _ _ x => [((x.opnd 0).addr, 16 * x.n0), ((x.opnd 1).addr, 16 * x.n0)]
    writes := fun _ _ x => [((x.opnd 3).addr, 16 * x.n0), (x.aux, 8 * x.n0)] }

/-- SM_MERGE (R173). -/
def execSmMerge (i : TileIssue) (s : State) : Host.Outcome State Fault Refusal := issueVec smMergeOp i s

/-- A row of SM_RESCALE (R174). -/
def State.smRescaleRow (s : State) (i : TileIssue) (x : VSpec) (c : ConvSpec × Int) (r : Nat) : VRes :=
  let a := s.vRow i.tile x (x.opnd 0) r
  let b := s.vRow i.tile x (x.opnd 1) r
  let f := s.vF32 i.tile ((x.opnd 2).addr + 8 * r)
  let g := s.vF32 i.tile ((x.opnd 2).addr + 8 * r + 4)
  s.rowOut i x c r (a.t2 + b.t2) ((List.zip a.vals b.vals).map fun v => ((v.1.mul f).add (v.2.mul g), []))

/-- The operation SM_RESCALE (R174). -/
def smRescaleOp : VecOp :=
  let p := VecOp.plain 3 3 [0, 1] 0 fun s i x c => VRes.rows x.rows (s.smRescaleRow i x c)
  { p with
    bad := fun _ _ x => (x.opnd 2).addr % 4 ≠ 0
    regIn := fun x _ => x.regions (x.opnd 0) ++ x.regions (x.opnd 1) ++ [plainReg 8 (x.opnd 2).addr (8 * x.rows)]
    reads := fun _ _ x => x.rowRanges (x.opnd 0) ++ x.rowRanges (x.opnd 1) ++ [((x.opnd 2).addr, 8 * x.rows)] }

/-- SM_RESCALE (R174). -/
def execSmRescale (i : TileIssue) (s : State) : Host.Outcome State Fault Refusal := issueVec smRescaleOp i s

/-- An element of SM_FINAL (R174). -/
def smFinal : SmForm → Fp → Fp
  | .finite _ t, v => v.div t
  | .inf k, v => v.div (fpInt k 0)
  | .empty, _ => fpZero
  | .nan, _ => .nan

/-- The log-sum-exp of a state (R174). -/
def smLse : SmForm → Nat
  | .finite m t => (rne32 (lse32 m t)).toNat
  | .inf _ => inf32 false
  | .empty => inf32 true
  | .nan => nan32

/-- A row of SM_FINAL (R174). -/
def State.smFinalRow (s : State) (i : TileIssue) (x : VSpec) (c : ConvSpec × Int) (lse : Bool) (r : Nat) : VRes :=
  let a := s.vRow i.tile x (x.opnd 0) r
  let f := s.smState i.tile ((x.opnd 1).addr + 16 * r)
  let o := s.rowOut i x c r a.t2 (a.vals.map fun v => (smFinal f.1 v, []))
  if allAbsent (s.vAbsent i x r) then o
  else
    let o1 := o.tick (f.1.event ++ f.2)
    if lse then o1.append (.bytes [(x.aux + 4 * r, leBytes 4 (smLse f.1))]) else o1

/-- The operation SM_FINAL (R174). -/
def smFinalOp (i : TileIssue) : VecOp :=
  let lse := i.word.uspec.getLsbD 0
  let p := VecOp.plain 3 4 [0] 0 fun s i x c => VRes.rows x.rows (s.smFinalRow i x c lse)
  let side := fun (x : VSpec) => if lse then sideRanges x 4 else []
  { p with
    uspec := 1, bad := fun _ _ x => (x.opnd 1).addr % 4 ≠ 0
    regIn := fun x _ => x.regions (x.opnd 0) ++ [plainReg 16 (x.opnd 1).addr (16 * x.rows)]
    reads := fun _ _ x => x.rowRanges (x.opnd 0) ++ [((x.opnd 1).addr, 16 * x.rows)]
    regOut := fun x _ => x.regions (x.opnd 3) ++ (side x).map fun r => plainReg 4 r.1 r.2
    writes := fun _ _ x => x.rowRanges (x.opnd 3) ++ side x }

/-- SM_FINAL (R174). -/
def execSmFinal (i : TileIssue) (s : State) : Host.Outcome State Fault Refusal := issueVec (smFinalOp i) i s

/-- A row of SM_BWD (R175). -/
def State.smBwdRow (s : State) (i : TileIssue) (x : VSpec) (c : ConvSpec × Int) (r : Nat) : VRes :=
  let y := s.vRow i.tile x (x.opnd 0) r
  let g := s.vRow i.tile x (x.opnd 1) r
  let ab := s.vAbsent i x r
  let f := s.smState i.tile ((x.opnd 2).addr + 16 * r)
  let ps := List.zip y.vals g.vals
  let d := rowCombine combSum ((List.zip ps ab).map fun v => if v.2 then none else some (round32 (v.1.1.mul v.1.2)))
  let val := fun (v : Fp × Fp) => match f.1 with
    | .finite _ _ => v.1.mul (v.2.sub d)
    | .nan => .nan
    | _ => fpZero
  let o := s.rowOut i x c r (y.t2 + g.t2) (ps.map fun v => (val v, []))
  if allAbsent ab then o else o.tick f.2

/-- The operation SM_BWD (R175). -/
def smBwdOp : VecOp :=
  let p := VecOp.plain 3 5 [0, 1] 0 fun s i x c => VRes.rows x.rows (s.smBwdRow i x c)
  { p with
    work := fun x => 3 * x.padded, bad := fun _ _ x => (x.opnd 2).addr % 4 ≠ 0
    regIn := fun x _ => x.regions (x.opnd 0) ++ x.regions (x.opnd 1) ++ [plainReg 16 (x.opnd 2).addr (16 * x.rows)]
    reads := fun _ _ x => x.rowRanges (x.opnd 0) ++ x.rowRanges (x.opnd 1) ++ [((x.opnd 2).addr, 16 * x.rows)] }

/-- SM_BWD (R175). -/
def execSmBwd (i : TileIssue) (s : State) : Host.Outcome State Fault Refusal := issueVec smBwdOp i s

/-! Norms (R176). -/

/-- rsqrt of an FP32 value, with the special values of R163 and no event. -/
def rsqrt32 (x : Fp) : Fp := (Fn.run .rsqrt x).val

/-- A row of a norm: μ, r, and the outputs (R176). -/
def normRow (layer : Bool) (n0 : Nat) (eps : Fp) (xs : List (Option Fp)) : Fp × Fp × (Fp → Fp) :=
  let n := fpInt n0 0
  let mu := if layer then round32 ((rowCombine combSum xs).div n) else fpZero
  let d := fun (v : Fp) => if layer then round32 (v.sub mu) else v
  let q := rowCombine combSum (xs.map fun x => x.map fun v => round32 ((d v).mul (d v)))
  (mu, rsqrt32 (round32 ((q.add (eps.mul n)).div n)), d)

/-- A row of RMSNORM or LAYERNORM (R176). -/
def State.normRowRes (s : State) (i : TileIssue) (x : VSpec) (c : ConvSpec × Int) (layer stats : Bool) (r : Nat) : VRes :=
  let a := s.vRow i.tile x (x.opnd 0) r
  let g := s.vRow i.tile x (x.opnd 1) r
  let b : VRow := if layer then s.vRow i.tile x (x.opnd 2) r else ⟨List.replicate x.n0 fpZero, 0⟩
  let ab := s.vAbsent i x r
  let m := normRow layer x.n0 x.p1 ((List.zip a.vals ab).map fun v => if v.2 then none else some v.1)
  let val := fun (v : Fp × Fp × Fp) => (((m.2.2 v.1).mul m.2.1).mul v.2.1).add v.2.2
  let o := s.rowOut i x c r (a.t2 + g.t2 + b.t2) ((List.zip a.vals (List.zip g.vals b.vals)).map fun v => (val v, []))
  if stats && !allAbsent ab then
    o.append (.bytes [(x.aux + 8 * r, leBytes 4 (rne32 m.1).toNat ++ leBytes 4 (rne32 m.2.1).toNat)])
  else o

/-- A norm. -/
def normOp (op : Nat) (layer stats : Bool) : VecOp :=
  let p := VecOp.plain 4 op (if layer then [0, 1, 2] else [0, 1]) vP1 fun s i x c =>
    VRes.rows x.rows (s.normRowRes i x c layer stats)
  let side := fun (x : VSpec) => if stats then sideRanges x 8 else []
  { p with
    uspec := 1, work := fun x => 3 * x.padded,
    regOut := fun x _ => x.regions (x.opnd 3) ++ (side x).map fun r => plainReg 8 r.1 r.2,
    writes := fun _ _ x => x.rowRanges (x.opnd 3) ++ side x }

/-- RMSNORM (R176). -/
def execRmsnorm (i : TileIssue) (s : State) : Host.Outcome State Fault Refusal :=
  issueVec (normOp 0 false (i.word.uspec.getLsbD 0)) i s

/-- LAYERNORM (R176). -/
def execLayernorm (i : TileIssue) (s : State) : Host.Outcome State Fault Refusal :=
  issueVec (normOp 1 true (i.word.uspec.getLsbD 0)) i s

/-! Top-k (R177). -/

/-- Whether one value ranks above another (R177). -/
def topAbove (a b : Fp) : Bool := if a.isNan then !b.isNan else if b.isNan then false else b.lt a

/-- The 8 bytes of a top-k entry (R177). -/
def topEntry (idx code : Nat) : List Byte := leBytes 4 idx ++ leBytes 4 code

/-- A row of TOPK, written at `a` (R177). -/
def State.topkRow (s : State) (i : TileIssue) (x : VSpec) (a r : Nat) : VRes :=
  let v := s.vRow i.tile x (x.opnd 0) r
  let ps := (List.zip v.vals (s.vPresent i x r)).zipIdx.filter fun v => v.1.2
  let order := sortBy (fun (p q : (Fp × Bool) × Nat) => !topAbove q.1.1 p.1.1) 9 ps
  let gone := allAbsent (s.vAbsent i x r)
  let top := order.take x.k
  let es := top.map fun v => topEntry v.2 (rne32 v.1.1).toNat
  let pad := List.replicate (x.k - top.length) (topEntry 0xFFFF 0xFF80_0000)
  ((VRes.bytes [(a, (es ++ pad).flatten)]).reserved v.t2).tick (if top.length < x.k && !gone then [TVEC.EV_TOPK_SHORT] else [])

/-- The rows that TOPK writes: K entries at each multiple of STRIDE_OUT1 (R177). -/
def topkRows (x : VSpec) : List (Int × Nat) :=
  (List.range x.rows).map fun (r : Nat) => (((x.opnd 3).addr : Int) + (r : Int) * (x.opnd 3).st.getD 1 0, 8 * x.k)

/-- The region of a list of rows. -/
def rowsReg (tag : Int) (rs : List (Int × Nat)) : VReg :=
  match rs with
  | [] => ⟨[4, tag], 0, 0⟩
  | a :: t => ⟨[4, tag], t.foldl (fun m r => min m r.1) a.1, t.foldl (fun m r => max m (r.1 + r.2)) (a.1 + a.2)⟩

/-- Rows as ranges. -/
def natRanges (rs : List (Int × Nat)) : List Range := rs.map fun r => (r.1.toNat, r.2)

/-- The operation TOPK (R177). -/
def topkOp : VecOp :=
  let p := VecOp.plain 5 0 [0] vK fun s i x _ => VRes.rows x.rows fun r => s.topkRow i x ((topkRows x).getD r (0, 0)).1.toNat r
  { p with
    w := false, o := true, converts := false, work := fun x => 2 * x.padded
    bad := fun _ _ x => x.k = 0 || x.k > 8 || x.n0 > 256 || (x.opnd 3).fmt ≠ 0 || (x.opnd 3).sc ≠ 0
    regOut := fun x _ => [rowsReg 3 (topkRows x)], writes := fun _ _ x => natRanges (topkRows x) }

/-- TOPK (R177). -/
def execTopk (i : TileIssue) (s : State) : Host.Outcome State Fault Refusal := issueVec topkOp i s

/-! SORT_BY_NNZ (R144, R178). -/

/-- ceil(log2 n), 0 for n below 2. -/
def clog2 (n : Nat) : Nat := if n ≤ 1 then 0 else Nat.log2 (n - 1) + 1

/-- The array that entry j of the order goes to (R144). -/
def snakeArray (d j : Nat) : Nat := if j / d % 2 = 0 then j % d else d - 1 - j % d

/-- The counts of all rows, absent ones as 0 (R178). -/
def State.sortCounts (s : State) (i : TileIssue) (x : VSpec) : List Int :=
  let o := { x.opnd 0 with fmt := fINT32, sc := 0 }
  (List.range x.rows).flatMap fun r =>
    let v := leNat (s.spadRead i.tile (x.addr o r, 4 * x.n0))
    (s.vAbsent i x r).zipIdx.map fun a => if a.1 then 0 else sgn 32 (elemAt 32 v a.2)

/-- The row indices in order: present rows by count, descending, ties to the lower index (R144). -/
def sortOrder (counts : List Int) : List Nat :=
  (sortBy (fun (p q : Int × Nat) => q.1 ≤ p.1) 19 (counts.zipIdx.filter fun c => c.1 > 0)).map Prod.snd

/-- The lists of SORT_BY_NNZ (R144). -/
def dealLists (d : Nat) (order : List Nat) : List (List Nat) :=
  (List.range d).map fun a => (order.zipIdx.filter fun p => snakeArray d p.2 = a).map Prod.fst

/-- The lists' places: each may hold ceil(E / D) entries after its length (R178). -/
def sortRows (x : VSpec) : List (Int × Nat) :=
  (List.range x.p3.toNat).map fun (a : Nat) =>
    (((x.opnd 3).addr : Int) + (a : Int) * (x.opnd 3).st.getD 1 0, 4 * (ceilDiv x.elems x.p3.toNat + 1))

/-- The operation SORT_BY_NNZ (R144, R178). -/
def sortByNnzOp : VecOp :=
  let p := VecOp.plain 5 1 [] vP3 fun s i x _ =>
    VRes.bytes ((dealLists x.p3.toNat (sortOrder (s.sortCounts i x))).zipIdx.map fun l =>
      (((sortRows x).getD l.2 (0, 0)).1.toNat, (l.1.length :: l.1).flatMap (leBytes 4)))
  let src := fun (x : VSpec) => { x.opnd 0 with fmt := fINT32, sc := 0 }
  { p with
    w := false, converts := false, work := fun x => x.elems * (clog2 x.elems + 2)
    bad := fun _ _ x =>
      let st := (x.opnd 3).st.getD 1 0
      vDims x.d > 2 || x.elems > 262144 || x.p3 < 1 || x.p3 > 128 || st % 64 ≠ 0 ||
        st < 4 * ((ceilDiv x.elems x.p3.toNat : Nat) + 1) || (x.opnd 0).addr % 4 ≠ 0
    regIn := fun x _ => x.regions (src x), reads := fun _ _ x => x.rowRanges (src x)
    regOut := fun x _ => [rowsReg 3 (sortRows x)], writes := fun _ _ x => natRanges (sortRows x) }

/-- SORT_BY_NNZ (R144, R178). -/
def execSortByNnz (i : TileIssue) (s : State) : Host.Outcome State Fault Refusal := issueVec sortByNnzOp i s

/-! Gather and scatter (R179). -/

/-- Whether B holds a list with its length first (R179). -/
def listBit (i : TileIssue) : Bool := i.word.uspec.getLsbD 0

/-- The index of row `r`; none for a row at or beyond a list's length (R179). -/
def State.rowIndex (s : State) (i : TileIssue) (x : VSpec) (r : Nat) : Option Int :=
  let b := (x.opnd 1).addr
  if listBit i then
    if (r : Int) < sgn 32 (s.vWord i.tile b 4) then some (sgn 32 (s.vWord i.tile (b + 4 + 4 * r) 4)) else none
  else some (sgn 32 (s.vWord i.tile (b + 4 * r) 4))

/-- Address of row `k` of an indexed operand, and of its scales. -/
def idxAddr (o : Opnd) (k : Nat) : Nat := ((o.addr : Int) + (k : Int) * o.st.getD 1 0).toNat

/-- Whether input and output are copied bit for bit (R179). -/
def VSpec.sameForm (x : VSpec) : Bool := (x.opnd 0).fmt = (x.opnd 3).fmt && (x.opnd 0).sc = (x.opnd 3).sc

/-- A row moved from one address to another: bit for bit, or converted (R81, R155, R179). -/
def State.moveRow (s : State) (t : Fin 128) (x : VSpec) (c : ConvSpec × Int) (src srcRow dst dstRow : Nat) (skip : List Bool) :
    VRes :=
  let a := x.opnd 0
  let o := x.opnd 3
  let v := s.vCodes t x a src srcRow
  let n := x.scaleRun o
  VRes.reserved (if x.sameForm then
    let old := unpack o.fmt x.n0 (s.spadPeek t.val dst (x.run o))
    let zero := x.wzero || o.sc ≠ 0
    let codes := (List.zip v.1 skip).zipIdx.map fun e =>
      if e.1.2 then (if zero then 0 else old.getD e.2 0) else copiedCode o.fmt e.1.1
    VRes.bytes (writtenPieces o.fmt dst (storedCodes o.sc codes) (if zero then [] else skip) ++
      if o.sc = 0 then [] else [(o.saddr + dstRow * n, v.2.map (BitVec.ofNat 8))])
  else
    s.vPut t x c dst (o.saddr + dstRow * scaleBytes c.1.scaling x.n0) (decRow (x.conv a fpOne) v.1 v.2) skip) (t2Reserved a.fmt v.1)

/-- Whether an index lies within the tensor (R179). -/
def VSpec.inTensor (x : VSpec) (k : Int) : Bool := 0 ≤ k && k < x.p3

/-- An output row of GATHER (R179). -/
def State.gatherRow (s : State) (i : TileIssue) (x : VSpec) (c : ConvSpec × Int) (r : Nat) : VRes :=
  match s.rowIndex i x r with
  | none => .empty
  | some k =>
    let ab := s.vAbsent i x r
    let skip := s.vUnwritten i x r ab
    let dst := idxAddr (x.opnd 3) r
    if x.inTensor k then s.moveRow i.tile x c (idxAddr (x.opnd 0) k.toNat) k.toNat dst r skip
    else (s.vPut i.tile x c dst ((x.opnd 3).saddr + r * scaleBytes c.1.scaling x.n0) (List.replicate x.n0 fpZero) skip).tick
      (if allAbsent ab then [] else [TVEC.EV_INDEX_RANGE])

/-- The region of an indexed tensor of P3 rows (R179). -/
def VSpec.tensorRegs (x : VSpec) (o : Opnd) : List VReg :=
  let n := x.p3.toNat
  let off := ((n : Int) - 1) * o.st.getD 1 0
  if n = 0 then [] else
    ⟨o.key [o.st.getD 1 0], o.addr + min 0 off, o.addr + max 0 off + x.run o⟩ ::
      (if o.sc = 0 then [] else [⟨o.scaleKey, o.saddr, o.saddr + n * x.scaleRun o⟩])

/-- The region of a tensor read or written row by row. -/
def VSpec.directRegs (x : VSpec) (o : Opnd) : List VReg :=
  let off := ((x.rows : Int) - 1) * o.st.getD 1 0
  ⟨o.key [o.st.getD 1 0], o.addr + min 0 off, o.addr + max 0 off + x.run o⟩ ::
    (if o.sc = 0 then [] else [⟨o.scaleKey, o.saddr, o.saddr + x.rows * x.scaleRun o⟩])

/-- The index list's range. -/
def idxRange (x : VSpec) (i : TileIssue) : Range := ((x.opnd 1).addr, 4 * x.rows + if listBit i then 4 else 0)

/-- Ranges of rows `ks` of an operand. -/
def VSpec.pickRanges (x : VSpec) (o : Opnd) (ks : List Nat) : List Range :=
  ks.flatMap fun k => (idxAddr o k, x.run o) :: (if o.sc = 0 then [] else [(o.saddr + k * x.scaleRun o, x.scaleRun o)])

/-- The indexed rows that an instruction reaches. -/
def State.pickedRows (s : State) (i : TileIssue) (x : VSpec) : List Nat :=
  (List.range x.rows).filterMap fun r => (s.rowIndex i x r).bind fun k => if x.inTensor k then some k.toNat else none

/-- Grounds for MALFORMED that the three operations share. -/
def indexBad (x : VSpec) : Bool := vDims x.d > 2 || (x.opnd 1).addr % 4 ≠ 0

/-- The operation GATHER (R179). -/
def gatherOp : VecOp :=
  let p := VecOp.plain 6 0 [0] vP3 fun s i x c => VRes.rows x.rows (s.gatherRow i x c)
  { p with
    uspec := 1, bad := fun _ _ x => indexBad x
    regIn := fun x i => x.tensorRegs (x.opnd 0) ++ [plainReg 4 (idxRange x i).1 (idxRange x i).2]
    regOut := fun x _ => x.directRegs (x.opnd 3)
    reads := fun s i x => idxRange x i :: x.pickRanges (x.opnd 0) (s.pickedRows i x)
    writes := fun _ _ x => x.pickRanges (x.opnd 3) (List.range x.rows) }

/-- GATHER (R179). -/
def execGather (i : TileIssue) (s : State) : Host.Outcome State Fault Refusal := issueVec gatherOp i s

/-- What a scatter has done so far: the memory as it stands, the rows named, and the result. -/
structure Scattered where
  s : State
  named : List Nat
  res : VRes

/-- One source row of SCATTER or SCATTER_ADD, whose sums round by RNE_fp32 whatever MODE holds (R89, R179). -/
def scatterRow (i : TileIssue) (x : VSpec) (c : ConvSpec × Int) (add : Bool) (acc : Scattered) (r : Nat) : Scattered :=
  match acc.s.rowIndex i x r with
  | none => acc
  | some k =>
    let ab := acc.s.vAbsent i x r
    let gone := allAbsent ab
    if !x.inTensor k then
      { acc with res := acc.res.tick (if gone then [] else [TVEC.EV_INDEX_RANGE]) }
    else
      let a := x.opnd 0
      let dst := idxAddr (x.opnd 3) k.toNat
      let o := if add then
          let v := acc.s.vRow i.tile x { a with st := [0, a.st.getD 1 0, 0, 0, 0] } r
          let old := (unpack fFP32 x.n0 (acc.s.spadPeek i.tile.val dst (4 * x.n0))).map (valueOf fFP32)
          (acc.s.vPut i.tile x ({ c.1 with sat := false }, c.2) dst 0 ((List.zip old v.vals).map fun p => p.1.add p.2) ab).reserved v.t2
        else acc.s.moveRow i.tile x c (idxAddr a r) r dst k.toNat ab
      let dup := !add && !gone && acc.named.contains k.toNat
      { s := acc.s.spadWrites i.tile false o.outs, named := if gone then acc.named else k.toNat :: acc.named,
        res := acc.res.append (o.tick (if dup then [TVEC.EV_DUP_SCATTER] else [])) }

/-- All rows of a scatter, in ascending order (R179). -/
def State.scatterRes (s : State) (i : TileIssue) (x : VSpec) (c : ConvSpec × Int) (add : Bool) : VRes :=
  ((List.range x.rows).foldl (scatterRow i x c add) ⟨s, [], .empty⟩).res

/-- A scatter. -/
def scatterOp (op : Nat) (add : Bool) : VecOp :=
  let p := VecOp.plain 6 op [0] vP3 fun s i x c => s.scatterRes i x c add
  { p with
    w := false, uspec := 1, bad := fun _ _ x => indexBad x || (add && ((x.opnd 3).fmt ≠ fFP32 || (x.opnd 3).sc ≠ 0)),
    regIn := fun x i => x.directRegs (x.opnd 0) ++ [plainReg 4 (idxRange x i).1 (idxRange x i).2],
    regOut := fun x _ => x.tensorRegs (x.opnd 3),
    reads := fun s i x => idxRange x i :: x.pickRanges (x.opnd 0) (List.range x.rows) ++
      (if add then x.pickRanges (x.opnd 3) (s.pickedRows i x) else []),
    writes := fun s i x => x.pickRanges (x.opnd 3) (s.pickedRows i x),
    work := fun x => if add then 2 * x.elems else x.elems }

/-- SCATTER (R179). -/
def execScatter (i : TileIssue) (s : State) : Host.Outcome State Fault Refusal := issueVec (scatterOp 1 false) i s

/-- SCATTER_ADD (R179). -/
def execScatterAdd (i : TileIssue) (s : State) : Host.Outcome State Fault Refusal := issueVec (scatterOp 2 true) i s

/-! Random numbers and dropout (R180). -/

/-- The random value of an element (R95, R180). -/
def State.vRandom (s : State) (i : TileIssue) (x : VSpec) (lin : Nat) : Nat :=
  (genRandom (s.reg (fldAddr (.tvec i.tile) TVEC.SEED)) (BitVec.ofNat 12 x.rng) (BitVec.ofInt 32 (x.int 320 + (lin : Int)))
    (BitVec.ofNat 32 (s.fld .sch SCH.STEP_INDEX))).toNat

/-- The operation RANDOM (R180). -/
def randomOp : VecOp :=
  let p := VecOp.plain 7 1 [] (vP1 + vRng) fun s i x c =>
    VRes.rows x.rows fun r =>
      s.rowOut i x c r 0 ((List.range x.n0).map fun k => (fpInt (s.vRandom i x (k + x.n0 * r)) 0, []))
  { p with bad := fun _ _ x => (x.opnd 3).fmt ≠ fINT32 || (x.opnd 3).sc ≠ 0 }

/-- RANDOM (R180). -/
def execRandom (i : TileIssue) (s : State) : Host.Outcome State Fault Refusal := issueVec randomOp i s

/-- The keep bits of DROPOUT for row `r`. -/
def State.keepRow (s : State) (i : TileIssue) (x : VSpec) (r : Nat) : List Bool :=
  (List.range x.n0).map fun k => (s.vRandom i x (k + x.n0 * r) : Int) ≥ x.p3

/-- The keep bitmap: the bits of rows that are not wholly absent, merged with the bytes that stand there (R159, R180). -/
def State.keepBytes (s : State) (i : TileIssue) (x : VSpec) : List (Nat × List Byte) :=
  let n := ceilDiv x.elems 8
  let old := leNat (s.spadPeek i.tile.val x.aux n)
  let bits := (List.range x.rows).flatMap fun r =>
    let gone := allAbsent (s.vAbsent i x r)
    (s.keepRow i x r).zipIdx.map fun b => if gone then bitOf old (b.2 + x.n0 * r) else b.1
  [(x.aux, leBytes n (packNat 1 (bits.map Bool.toNat) + old / 2 ^ x.elems * 2 ^ x.elems))]

/-- The operation DROPOUT (R180). -/
def dropoutOp (i : TileIssue) : VecOp :=
  let mask := i.word.uspec.getLsbD 0
  let p := VecOp.plain 7 0 [0] (vP0 + vP1 + vP3 + vRng) fun s i x c =>
    let o := VRes.rows x.rows fun r =>
      let a := s.vRow i.tile x (x.opnd 0) r
      s.rowOut i x c r a.t2 ((List.zip a.vals (s.keepRow i x r)).map fun v => (if v.2 then v.1.mul x.p0 else fpZero, []))
    if mask then o.append (.bytes (s.keepBytes i x)) else o
  let side := fun (x : VSpec) => if mask then [(x.aux, ceilDiv x.elems 8)] else []
  { p with
    uspec := 1, bad := fun _ _ x => x.p3 < 0 || x.p3 > 65536
    regOut := fun x _ => x.regions (x.opnd 3) ++ (side x).map fun r => plainReg 0 r.1 r.2
    writes := fun _ _ x => x.rowRanges (x.opnd 3) ++ side x }

/-- DROPOUT (R180). -/
def execDropout (i : TileIssue) (s : State) : Host.Outcome State Fault Refusal := issueVec (dropoutOp i) i s

/-! SPD_INVERSE (R181). -/

/-- What inverting a matrix gives: its elements row by row, floored pivots, and whether it is SPD_BAD. -/
structure SpdOut where
  inv : Array Fp
  floored : Nat
  bad : Bool

/-- A fold of v := RNE_fp32(v ± p × q) over indices from `lo` to `hi` − 1. -/
def dotFold (minus : Bool) (v : Fp) (lo hi : Nat) (p q : Nat → Fp) : Fp :=
  (List.range (hi - lo)).foldl (fun v k =>
    let y := (p (lo + k)).mul (q (lo + k))
    round32 (if minus then v.sub y else v.add y)) v

/-- A Cholesky factor in progress: L, the reciprocal pivots, floored pivots. -/
structure Chol where
  l : Array Fp
  inv : Array Fp
  floored : Nat

/-- Column j of the factor (R181). -/
def cholColumn (n : Nat) (floor_ : Fp) (a : Nat → Nat → Fp) (x : Chol) (j : Nat) : Chol :=
  let at_ := fun (l : Array Fp) r c => l.getD (r * n + c) fpZero
  let d := dotFold true (a j j) 0 j (at_ x.l j) (at_ x.l j)
  let low := d.isNan || d.le floor_
  let p := (Fn.run .sqrt (if low then floor_ else d)).val
  let v := round32 (fpOne.div p)
  let l1 := (List.range (n - (j + 1))).foldl (fun l k =>
    let i := j + 1 + k
    l.setIfInBounds (i * n + j) (round32 ((dotFold true (a i j) 0 j (at_ l i) (at_ l j)).mul v)))
    (x.l.setIfInBounds (j * n + j) p)
  ⟨l1, x.inv.setIfInBounds j v, x.floored + low.toNat⟩

/-- Column j of the factor's inverse (R181). -/
def invColumn (n : Nat) (x : Chol) (m : Array Fp) (j : Nat) : Array Fp :=
  (List.range (n - (j + 1))).foldl (fun m k =>
    let i := j + 1 + k
    let v := dotFold false fpZero j i (fun q => x.l.getD (i * n + q) fpZero) (fun q => m.getD (q * n + j) fpZero)
    m.setIfInBounds (i * n + j) (round32 (v.neg.mul (x.inv.getD i fpZero))))
    (m.setIfInBounds (j * n + j) (x.inv.getD j fpZero))

/-- The inverse of the matrix whose lower triangle is `a` (R181). -/
def spdInverse (eps : Fp) (n : Nat) (a : Nat → Nat → Fp) : SpdOut :=
  let t := (List.range n).foldl (fun t k => round32 (t.add (a k k))) fpZero
  let odd := (List.range n).any fun i => (List.range (i + 1)).any fun j => !(a i j).isFin
  if odd || !t.isFin || t.le fpZero then ⟨Array.replicate (n * n) .nan, 0, true⟩
  else
    let floor_ := round32 ((eps.mul t).div (fpInt n 0))
    let z := Array.replicate (n * n) fpZero
    let x := (List.range n).foldl (cholColumn n floor_ a) ⟨z, Array.replicate n fpZero, 0⟩
    let m := (List.range n).foldl (invColumn n x) z
    let cell := fun i j => dotFold false fpZero i n (fun k => m.getD (k * n + i) fpZero) (fun k => m.getD (k * n + j) fpZero)
    let low := (List.range n).map fun i => (List.range (i + 1)).map fun j => cell i j
    ⟨((List.range n).flatMap fun i => (List.range n).map fun j => (low.getD (max i j) []).getD (min i j) fpZero).toArray,
      x.floored, false⟩

/-- ε of SPD_INVERSE (R181). -/
def spdEps (x : VSpec) : Fp := if dBits x.d 319 288 = 0 then .fin false 1 (-20) else x.p0

/-- Matrix `m` of SPD_INVERSE: its rows are rows m × n to m × n + n − 1 of the loops (R181). -/
def State.spdMatrix (s : State) (i : TileIssue) (x : VSpec) (c : ConvSpec × Int) (flags : Bool) (m : Nat) : VRes :=
  let n := x.n0
  let rows := ((List.range n).map fun r =>
    ((unpack fFP32 (r + 1) (s.spadRead i.tile (x.addr (x.opnd 0) (m * n + r), 4 * (r + 1)))).map (valueOf fFP32)).toArray).toArray
  let o := spdInverse (spdEps x) n fun r k => (rows.getD r #[]).getD k fpZero
  let gone := (List.range n).all fun r => allAbsent (s.vAbsent i x (m * n + r))
  let out := VRes.rows n fun r =>
    s.rowOut i x c (m * n + r) 0 ((List.range n).map fun k => (o.inv.getD (r * n + k) fpZero, []))
  let ticks := List.replicate o.floored TVEC.EV_SINGULAR_FLOORED ++ if o.bad then [TVEC.EV_SPD_BAD] else []
  if gone then out
  else
    let o1 := out.tick ticks
    if flags then o1.append (.bytes [(x.aux + 4 * m, leBytes 4 ((o.floored ≠ 0 : Bool).toNat + 2 * o.bad.toNat))]) else o1

/-- The operation SPD_INVERSE (R181, R349). -/
def spdInverseOp (i : TileIssue) : VecOp :=
  let flags := i.word.uspec.getLsbD 0
  let count := fun (x : VSpec) => x.ext 2 * x.ext 3 * x.ext 4
  let p := VecOp.plain 8 0 [0] vP0 fun s i x c => VRes.rows (count x) (s.spdMatrix i x c flags)
  let side := fun (x : VSpec) => if flags then [(x.aux, 4 * count x)] else []
  { p with
    w := false, uspec := 1
    bad := fun s _ x => !bitOf (s.fld .glb GLB.FEAT_ACTIVE) 11 || vDims x.d < 2 || x.n0 ≠ x.ext 1 || x.n0 > 128 ||
      (x.opnd 0).fmt ≠ fFP32 || (x.opnd 0).sc ≠ 0 || (x.opnd 3).fmt ≠ fFP32 || (x.opnd 3).sc ≠ 0 ||
      !x.p0.isFin || (x.p0.sign && dBits x.d 319 288 ≠ 0)
    regOut := fun x _ => x.regions (x.opnd 3) ++ (side x).map fun r => plainReg 4 r.1 r.2
    reads := fun _ _ x => (List.range x.rows).map fun r => (x.addr (x.opnd 0) r, 4 * (r % x.n0 + 1))
    writes := fun _ _ x => x.rowRanges (x.opnd 3) ++ side x
    work := fun x => 256 * x.n0 * (ceilDiv (x.n0 * x.n0) 256 + 24) * count x }

/-- SPD_INVERSE (R181, R349). -/
def execSpdInverse (i : TileIssue) (s : State) : Host.Outcome State Fault Refusal := issueVec (spdInverseOp i) i s

end Sys2Proof.Machine
end

