-- ==== Sys2Proof/Machine/Dispatch.lean ====
section
/-! DEFINITION. One arm per command of the table, each one call of that command's meaning. -/
namespace Sys2Proof.Machine

/-- The effect of a command on everything but the queue. -/
def exec (i : Instr) (s : State) : Host.Outcome State Fault Refusal :=
  match i with
  | .registerWrite off size val => Sys2Proof.Machine.execRegisterWrite off size val s
  | .lowHalfRead r => Sys2Proof.Machine.execLowHalfRead r s
  | .cntClr p w => Sys2Proof.Machine.execCntClr p w s
  | .eventClear p w => Sys2Proof.Machine.execEventClear p w s
  | .eventEnableWrite p w => Sys2Proof.Machine.execEventEnableWrite p w s
  | .msixSend => Sys2Proof.Machine.execMsixSend s
  | .msixUnmask u => Sys2Proof.Machine.execMsixUnmask u s
  | .htmEnable w => Sys2Proof.Machine.execHtmEnable w s
  | .htmDisable w => Sys2Proof.Machine.execHtmDisable w s
  | .htmTodSet w => Sys2Proof.Machine.execHtmTodSet w s
  | .ptmReq w => Sys2Proof.Machine.execPtmReq w s
  | .ptmAutoDialogue => Sys2Proof.Machine.execPtmAutoDialogue s
  | .ptmResponse host turnaround => Sys2Proof.Machine.execPtmResponse host turnaround s
  | .timeSymbolSend p => Sys2Proof.Machine.execTimeSymbolSend p s
  | .timeSymbolRx p sym t4 => Sys2Proof.Machine.execTimeSymbolRx p sym t4 s
  | .portTimeLost p => Sys2Proof.Machine.execPortTimeLost p s
  | .servoUpdate => Sys2Proof.Machine.execServoUpdate s
  | .freqAcquired => Sys2Proof.Machine.execFreqAcquired s
  | .noGm => Sys2Proof.Machine.execNoGm s
  | .tickInEdge => Sys2Proof.Machine.execTickInEdge s
  | .gmLockTimer => Sys2Proof.Machine.execGmLockTimer s
  | .tickInMissing => Sys2Proof.Machine.execTickInMissing s
  | .tickOutPulse => Sys2Proof.Machine.execTickOutPulse s
  | .load w => Sys2Proof.Machine.execLoad w s
  | .load2 w => Sys2Proof.Machine.execLoad2 w s
  | .imageLoadComplete => Sys2Proof.Machine.execImageLoadComplete s
  | .arm w => Sys2Proof.Machine.execArm w s
  | .stop w => Sys2Proof.Machine.execStop w s
  | .unload w => Sys2Proof.Machine.execUnload w s
  | .seqPass => Sys2Proof.Machine.execSeqPass s
  | .stepStart => Sys2Proof.Machine.execStepStart s
  | .untimedStepStart => Sys2Proof.Machine.execUntimedStepStart s
  | .untimedUStart => Sys2Proof.Machine.execUntimedUStart s
  | .untimedStepEnd => Sys2Proof.Machine.execUntimedStepEnd s
  | .feedRefill section_ k => Sys2Proof.Machine.execFeedRefill section_ k s
  | .runsRefill section_ k => Sys2Proof.Machine.execRunsRefill section_ k s
  | .runUnderrun section_ => Sys2Proof.Machine.execRunUnderrun section_ s
  | .digestTick => Sys2Proof.Machine.execDigestTick s
  | .digestResult => Sys2Proof.Machine.execDigestResult s
  | .verdictTick => Sys2Proof.Machine.execVerdictTick s
  | .commitDone => Sys2Proof.Machine.execCommitDone s
  | .stepRecordWrite => Sys2Proof.Machine.execStepRecordWrite s
  | .hydTapEvent => Sys2Proof.Machine.execHydTapEvent s
  | .snapshot => Sys2Proof.Machine.execSnapshot s
  | .formatSelection => Sys2Proof.Machine.execFormatSelection s
  | .hydTabWrite w => Sys2Proof.Machine.execHydTabWrite w s
  | .arrLoad w => Sys2Proof.Machine.execArrLoad w s
  | .shadowCollision t => Sys2Proof.Machine.execShadowCollision t s
  | .arrStream w => Sys2Proof.Machine.execArrStream w s
  | .arrDrain w => Sys2Proof.Machine.execArrDrain w s
  | .decode w => Sys2Proof.Machine.execDecode w s
  | .decodeCompact w => Sys2Proof.Machine.execDecodeCompact w s
  | .scan w => Sys2Proof.Machine.execScan w s
  | .encode w => Sys2Proof.Machine.execEncode w s
  | .encodeCoo w => Sys2Proof.Machine.execEncodeCoo w s
  | .encode24 w => Sys2Proof.Machine.execEncode24 w s
  | .encodeTp24 w => Sys2Proof.Machine.execEncodeTp24 w s
  | .copy w => Sys2Proof.Machine.execCopy w s
  | .add w => Sys2Proof.Machine.execAdd w s
  | .sub w => Sys2Proof.Machine.execSub w s
  | .mul w => Sys2Proof.Machine.execMul w s
  | .fma w => Sys2Proof.Machine.execFma w s
  | .div w => Sys2Proof.Machine.execDiv w s
  | .max w => Sys2Proof.Machine.execMax w s
  | .min w => Sys2Proof.Machine.execMin w s
  | .abs w => Sys2Proof.Machine.execAbs w s
  | .neg w => Sys2Proof.Machine.execNeg w s
  | .fill w => Sys2Proof.Machine.execFill w s
  | .exp2 w => Sys2Proof.Machine.execExp2 w s
  | .exp w => Sys2Proof.Machine.execExp w s
  | .log2 w => Sys2Proof.Machine.execLog2 w s
  | .recip w => Sys2Proof.Machine.execRecip w s
  | .rsqrt w => Sys2Proof.Machine.execRsqrt w s
  | .sqrt w => Sys2Proof.Machine.execSqrt w s
  | .tanh w => Sys2Proof.Machine.execTanh w s
  | .sigmoid w => Sys2Proof.Machine.execSigmoid w s
  | .silu w => Sys2Proof.Machine.execSilu w s
  | .geluTanh w => Sys2Proof.Machine.execGeluTanh w s
  | .sin w => Sys2Proof.Machine.execSin w s
  | .cos w => Sys2Proof.Machine.execCos w s
  | .rotary w => Sys2Proof.Machine.execRotary w s
  | .rsum w => Sys2Proof.Machine.execRsum w s
  | .rmax w => Sys2Proof.Machine.execRmax w s
  | .rmin w => Sys2Proof.Machine.execRmin w s
  | .rsumsq w => Sys2Proof.Machine.execRsumsq w s
  | .ramax w => Sys2Proof.Machine.execRamax w s
  | .scanSum w => Sys2Proof.Machine.execScanSum w s
  | .scanMax w => Sys2Proof.Machine.execScanMax w s
  | .scanMin w => Sys2Proof.Machine.execScanMin w s
  | .scanLin w => Sys2Proof.Machine.execScanLin w s
  | .softmax w => Sys2Proof.Machine.execSoftmax w s
  | .smState w => Sys2Proof.Machine.execSmState w s
  | .smMerge w => Sys2Proof.Machine.execSmMerge w s
  | .smRescale w => Sys2Proof.Machine.execSmRescale w s
  | .smFinal w => Sys2Proof.Machine.execSmFinal w s
  | .smBwd w => Sys2Proof.Machine.execSmBwd w s
  | .rmsnorm w => Sys2Proof.Machine.execRmsnorm w s
  | .layernorm w => Sys2Proof.Machine.execLayernorm w s
  | .topk w => Sys2Proof.Machine.execTopk w s
  | .sortByNnz w => Sys2Proof.Machine.execSortByNnz w s
  | .gather w => Sys2Proof.Machine.execGather w s
  | .scatter w => Sys2Proof.Machine.execScatter w s
  | .scatterAdd w => Sys2Proof.Machine.execScatterAdd w s
  | .dropout w => Sys2Proof.Machine.execDropout w s
  | .random w => Sys2Proof.Machine.execRandom w s
  | .spdInverse w => Sys2Proof.Machine.execSpdInverse w s
  | .xferRead w ecc => Sys2Proof.Machine.execXferRead w ecc s
  | .xferWrite w => Sys2Proof.Machine.execXferWrite w s
  | .xferSend w => Sys2Proof.Machine.execXferSend w s
  | .handoff w => Sys2Proof.Machine.execHandoff w s
  | .bufRead w ecc => Sys2Proof.Machine.execBufRead w ecc s
  | .serviceWindow k => Sys2Proof.Machine.execServiceWindow k s
  | .lauterWindow k => Sys2Proof.Machine.execLauterWindow k s
  | .poolWindow k pool => Sys2Proof.Machine.execPoolWindow k pool s
  | .refWindow k => Sys2Proof.Machine.execRefWindow k s
  | .rfmWindow k => Sys2Proof.Machine.execRfmWindow k s
  | .memRequestServe k => Sys2Proof.Machine.execMemRequestServe k s
  | .codewordRx p cw => Sys2Proof.Machine.execCodewordRx p cw s
  | .headCell sw input loss => Sys2Proof.Machine.execHeadCell sw input loss s
  | .bodyCell sw input loss => Sys2Proof.Machine.execBodyCell sw input loss s
  | .beHeadCell sw input loss => Sys2Proof.Machine.execBeHeadCell sw input loss s
  | .beInject t => Sys2Proof.Machine.execBeInject t s
  | .reduceCombine sw channel => Sys2Proof.Machine.execReduceCombine sw channel s
  | .lnkEnable p w => Sys2Proof.Machine.execLnkEnable p w s
  | .lnkDisable p w => Sys2Proof.Machine.execLnkDisable p w s
  | .autoRetrain p w => Sys2Proof.Machine.execAutoRetrain p w s
  | .portAdmit p w => Sys2Proof.Machine.execPortAdmit p w s
  | .portTrained p peerHall peerValid peerPort => Sys2Proof.Machine.execPortTrained p peerHall peerValid peerPort s
  | .portDown p cause => Sys2Proof.Machine.execPortDown p cause s
  | .retrainTimer p => Sys2Proof.Machine.execRetrainTimer p s
  | .swxHallIdWrite w => Sys2Proof.Machine.execSwxHallIdWrite w s
  | .peerIdMessage p peerHall peerValid peerPort => Sys2Proof.Machine.execPeerIdMessage p peerHall peerValid peerPort s
  | .allocRequest r => Sys2Proof.Machine.execAllocRequest r s
  | .allocComplete => Sys2Proof.Machine.execAllocComplete s
  | .release unit buffer => Sys2Proof.Machine.execRelease unit buffer s
  | .bankOnRequest t b => Sys2Proof.Machine.execBankOnRequest t b s
  | .bankRetentionRequest t b => Sys2Proof.Machine.execBankRetentionRequest t b s
  | .bankOffRequest t b => Sys2Proof.Machine.execBankOffRequest t b s
  | .bankTransitionDone t b => Sys2Proof.Machine.execBankTransitionDone t b s
  | .dispatch w => Sys2Proof.Machine.execDispatch w s
  | .returnRows w => Sys2Proof.Machine.execReturnRows w s
  | .gradOut w => Sys2Proof.Machine.execGradOut w s
  | .gradReturn w => Sys2Proof.Machine.execGradReturn w s
  | .lauterChoiceDepart channel => Sys2Proof.Machine.execLauterChoiceDepart channel s
  | .runShort channel => Sys2Proof.Machine.execRunShort channel s
  | .lauterPartArrival => Sys2Proof.Machine.execLauterPartArrival s
  | .gradArrival => Sys2Proof.Machine.execGradArrival s
  | .returnArrival => Sys2Proof.Machine.execReturnArrival s
  | .quotaSwap w => Sys2Proof.Machine.execQuotaSwap w s
  | .ltrTabWrite w => Sys2Proof.Machine.execLtrTabWrite w s
  | .handoffRecord k => Sys2Proof.Machine.execHandoffRecord k s
  | .update k w ecc => Sys2Proof.Machine.execUpdate k w ecc s
  | .hyperSwap k w => Sys2Proof.Machine.execHyperSwap k w s
  | .klnTabWrite k w => Sys2Proof.Machine.execKlnTabWrite k w s
  | .openRack k w => Sys2Proof.Machine.execOpenRack k w s
  | .rackSend k w ecc => Sys2Proof.Machine.execRackSend k w ecc s
  | .rackChunkDepart k channel => Sys2Proof.Machine.execRackChunkDepart k channel s
  | .closeRack k w => Sys2Proof.Machine.execCloseRack k w s
  | .rackPartArrival => Sys2Proof.Machine.execRackPartArrival s
  | .rackTabWrite w => Sys2Proof.Machine.execRackTabWrite w s
  | .bar2Read off len => Sys2Proof.Machine.execBar2Read off len s
  | .bar2Write off data => Sys2Proof.Machine.execBar2Write off data s
  | .lqSqTail q w => Sys2Proof.Machine.execLqSqTail q w s
  | .lqCqHead q w => Sys2Proof.Machine.execLqCqHead q w s
  | .lqDescriptor q entry host => Sys2Proof.Machine.execLqDescriptor q entry host s
  | .lqCompletion q => Sys2Proof.Machine.execLqCompletion q s
  | .lqEnable q w => Sys2Proof.Machine.execLqEnable q w s
  | .lqDisable q w => Sys2Proof.Machine.execLqDisable q w s
  | .flr => Sys2Proof.Machine.execFlr s
  | .powerStateChange d3hot => Sys2Proof.Machine.execPowerStateChange d3hot s
  | .pcieLinkUp speed width flit cfg => Sys2Proof.Machine.execPcieLinkUp speed width flit cfg s
  | .featAccept w => Sys2Proof.Machine.execFeatAccept w s
  | .featClose w => Sys2Proof.Machine.execFeatClose w s
  | .inputSample v w => Sys2Proof.Machine.execInputSample v w s
  | .powerRestart => Sys2Proof.Machine.execPowerRestart s
  | .hardStop c => Sys2Proof.Machine.execHardStop c s
  | .faultCellRx p data => Sys2Proof.Machine.execFaultCellRx p data s
  | .sensorSample die stks coolant => Sys2Proof.Machine.execSensorSample die stks coolant s
  | .zoneRailSample mv da => Sys2Proof.Machine.execZoneRailSample mv da s
  | .zoneLimitClear z => Sys2Proof.Machine.execZoneLimitClear z s
  | .coolantHigh => Sys2Proof.Machine.execCoolantHigh s
  | .energyWindow energy => Sys2Proof.Machine.execEnergyWindow energy s
  | .ballastDescentStep => Sys2Proof.Machine.execBallastDescentStep s
  | .opReq z w => Sys2Proof.Machine.execOpReq z w s
  | .zonePointStep => Sys2Proof.Machine.execZonePointStep s
  | .lcApply w => Sys2Proof.Machine.execLcApply w s
  | .svnCommit w => Sys2Proof.Machine.execSvnCommit w s
  | .recWrite w => Sys2Proof.Machine.execRecWrite w s
  | .tamper c => Sys2Proof.Machine.execTamper c s
  | .tamperEnd => Sys2Proof.Machine.execTamperEnd s
  | .lmsTreeGenerated => Sys2Proof.Machine.execLmsTreeGenerated s
  | .getVersion => Sys2Proof.Machine.execGetVersion s
  | .getCapabilities => Sys2Proof.Machine.execGetCapabilities s
  | .negotiateAlgorithms => Sys2Proof.Machine.execNegotiateAlgorithms s
  | .getDigests => Sys2Proof.Machine.execGetDigests s
  | .getCertificate offset length => Sys2Proof.Machine.execGetCertificate offset length s
  | .challenge nonce => Sys2Proof.Machine.execChallenge nonce s
  | .getMeasurements nonce => Sys2Proof.Machine.execGetMeasurements nonce s
  | .vendorDefinedRequest handle => Sys2Proof.Machine.execVendorDefinedRequest handle s
  | .pmbusPage page => Sys2Proof.Machine.execPmbusPage page s
  | .clearFaults => Sys2Proof.Machine.execClearFaults s
  | .statusWord => Sys2Proof.Machine.execStatusWord s
  | .statusInput => Sys2Proof.Machine.execStatusInput s
  | .statusTemperature => Sys2Proof.Machine.execStatusTemperature s
  | .readVin => Sys2Proof.Machine.execReadVin s
  | .readIin => Sys2Proof.Machine.execReadIin s
  | .readVout => Sys2Proof.Machine.execReadVout s
  | .readIout => Sys2Proof.Machine.execReadIout s
  | .readTemperature1 => Sys2Proof.Machine.execReadTemperature1 s
  | .readTemperature2 => Sys2Proof.Machine.execReadTemperature2 s
  | .readPin => Sys2Proof.Machine.execReadPin s
  | .pmbusRevision => Sys2Proof.Machine.execPmbusRevision s
  | .mfrId => Sys2Proof.Machine.execMfrId s
  | .pmbusUnsupported code isWrite => Sys2Proof.Machine.execPmbusUnsupported code isWrite s
  | .powerOn => Sys2Proof.Machine.execPowerOn s
  | .perstAssert => Sys2Proof.Machine.execPerstAssert s
  | .perstRelease => Sys2Proof.Machine.execPerstRelease s
  | .moduleReset w => Sys2Proof.Machine.execModuleReset w s
  | .coreReset w => Sys2Proof.Machine.execCoreReset w s
  | .fabricReset w => Sys2Proof.Machine.execFabricReset w s
  | .coreDone => Sys2Proof.Machine.execCoreDone s
  | .fabricDone => Sys2Proof.Machine.execFabricDone s
  | .auxRailsUp addr0 addr1 addr2 => Sys2Proof.Machine.execAuxRailsUp addr0 addr1 addr2 s
  | .bootVerify => Sys2Proof.Machine.execBootVerify s
  | .firmwareStart => Sys2Proof.Machine.execFirmwareStart s
  | .selftestBlockDone r => Sys2Proof.Machine.execSelftestBlockDone r s
  | .hbmTrainingDone k r => Sys2Proof.Machine.execHbmTrainingDone k r s
  | .ready => Sys2Proof.Machine.execReady s
  | .shutdown w => Sys2Proof.Machine.execShutdown w s
  | .selftestRecordWrite => Sys2Proof.Machine.execSelftestRecordWrite s
  | .retest w => Sys2Proof.Machine.execRetest w s
  | .bar2Resize log2GiB => Sys2Proof.Machine.execBar2Resize log2GiB s
  | .hifCplTimeout q => Sys2Proof.Machine.execHifCplTimeout q s
  | .doeDiscovery index => Sys2Proof.Machine.execDoeDiscovery index s
  | .managementRequest c => Sys2Proof.Machine.execManagementRequest c s

end Sys2Proof.Machine
end

