-- ==== Sys2Proof/Safety.lean ====
section
/-! DEFINITION. What counts as a sound state, and what a clean issue of a tile instruction is: the terms in which the statements
are made. -/
namespace Sys2Proof.Machine

/-- The stores that software addresses are canonical: HBM and the scratchpads list no zero byte and rise, and the register map
lists no register at its reset value and rises (log 2). -/
def State.canonical (s : State) : Bool :=
  Memory.wf s.mem.hbm && Memory.wf s.tiles.spad && smWf regReset s.regs

/-- All that the acts of units that are due may touch: HBM and the scratchpads with their POISON marks, the cells on their way, the
closed outputs, and counters of registers. -/
def State.DueOnly (s t : State) : Prop :=
  t = { s with
    clk := t.clk
    due := t.due
    regs := t.regs
    mem := { s.mem with hbm := t.mem.hbm, poison := t.mem.poison }
    tiles := { s.tiles with spad := t.tiles.spad, spadPoison := t.tiles.spadPoison }
    fab := { s.fab with flight := t.fab.flight, closed := t.fab.closed } }

/-- The tick at which an instruction is stamped, as a phase. -/
def State.stampPhase (s : State) (i : TileIssue) : Phase := s.sch.startPhase + issueStamp i.word

/-- A tile's front can issue its next instruction: the module runs a step, the stream has not ended, and in a timed step the quarter
that holds the word is there by its time (R56, R57). -/
def State.frontReady (s : State) (i : TileIssue) : Bool :=
  s.running && !(s.front (frontKey i.tile i.stream)).ended &&
  match s.sch.regime with
  | .none => false
  | .untimed => true
  | .timed => (s.advanceTo (s.stampPhase i)).quarterReady ((s.advanceTo (s.stampPhase i)).front (frontKey i.tile i.stream)) (s.stampPhase i)

/-- When a tile instruction issues: at its stamp, or in an untimed step as soon as its operands and its unit allow (R56, R73). -/
def State.issueTime (s : State) (i : TileIssue) (j : Job) : Phase :=
  if s.sch.regime = .timed then s.stampPhase i else s.untimedTime i j.unit j.plan

/-- No ground for MALFORMED in the word as its ring holds it, nor in what its unit makes of it (R55, R57, R70). -/
def State.wellFormed (s : State) (i : TileIssue) (j : Job) : Bool :=
  !wordBad j.unit j.cls j.op i.word && !(s.front (frontKey i.tile i.stream)).wordPoison && !j.plan.bad

/-- A timed issue is on an edge of its unit's clock and in order, within its carve-out, ranked first, and finds its unit free and
nothing that it reads pending (R56, R70, R71, R317). -/
def State.timedClean (s : State) (i : TileIssue) (j : Job) : Bool :=
  let t := s.stampPhase i
  let at_ := s.advanceTo t
  let st := issueStamp i.word
  at_.wellFormed i j && st % j.unit.period (at_.zonePoint (zoneOf i.tile.val)) = 0 &&
  !(at_.front (frontKey i.tile i.stream)).outOfOrder i.word &&
  !at_.carved i ⟨j.plan.reads ++ j.plan.writes, j.plan.hbm, i.word.desc.toNat, j.plan.far⟩ st (st + j.plan.occ) &&
  at_.busyTill i.tile.val j.unit ≤ t && !at_.outranked i j.unit && !j.work.collide t at_ &&
  !at_.pendingAt (j.plan.operands i.tile.val) t && !j.work.notReady t at_

/-- An untimed issue finds its zone running and its unit ready for it (R73, R74). -/
def State.untimedClean (s : State) (i : TileIssue) (j : Job) : Bool :=
  let t := s.issueTime i j
  let at_ := s.advanceTo t
  s.wellFormed i j && at_.zonePoint (zoneOf i.tile.val) != 3 && !j.work.notReady t at_ && !j.work.collide t at_

/-- A clean issue of a job in a step: it is ready, well formed, and meets no schedule fault. -/
def State.cleanIssue (s : State) (i : TileIssue) (j : Job) : Bool :=
  s.frontReady i && if s.sch.regime = .timed then s.timedClean i j else s.untimedClean i j

/-- The state after a clean issue: the job launches at its time, with no operand late, and the front moves to its next word. -/
def State.issued (s : State) (i : TileIssue) (j : Job) : State :=
  (launch i j.unit j.plan j.work (s.issueTime i j) false (s.advanceTo (s.issueTime i j))).passTile i

/-- A command of a tile front completes by its own effect: wherever it issues cleanly in a step, timed or not, what it answers is
the next state in which its unit's job has launched at its time. -/
def Completes (c : TileIssue → Instr) (j : TileIssue → State → Job) : Prop :=
  ∀ (i : TileIssue) (s : State), s.cleanIssue i (j i s) = true → exec (c i) s = .next (s.issued i (j i s))

/-- A MALFORMED command of a tile front in a timed step is suppressed: it reads and writes nothing, its destinations carry POISON
where they can be decoded, the fault is recorded, and its front moves on (R70). -/
def Malformed (c : TileIssue → Instr) (j : TileIssue → State → Job) : Prop :=
  ∀ (i : TileIssue) (s : State), s.frontReady i = true → s.sch.regime = .timed →
    (s.advanceTo (s.stampPhase i)).wellFormed i (j i s) = false →
    exec (c i) s = .next ((suppress i (j i s).unit .malformed
      (!(wordBad (j i s).unit (j i s).cls (j i s).op i.word ||
        ((s.advanceTo (s.stampPhase i)).front (frontKey i.tile i.stream)).wordPoison) && (j i s).plan.decodes) (j i s).work.mark
      (s.advanceTo (s.stampPhase i))).passTile i)

/-- A lauter instruction issues cleanly: in a timed step by its stamp and without a fault, in an untimed one if it is not MALFORMED
(R56, R70, R73, R243). -/
def State.ltrClean (s : State) (o : LtrOp) (w : Issue) : Bool :=
  let t := if s.sch.regime = .timed then s.sch.startPhase + issueStamp w else s.ltrUntimed o w
  let at_ := s.advanceTo t
  s.running && !(s.front ltrFront).ended && !wordBad .ltr 0 o.code w && !(at_.front ltrFront).wordPoison && !at_.ltrBad o w &&
  match s.sch.regime with
  | .none => false
  | .untimed => true
  | .timed => at_.quarterReady (at_.front ltrFront) t && issueStamp w % 2 = 0 && !(at_.front ltrFront).outOfOrder w &&
      !at_.ltrCarved o w && at_.ltr.busyTill ≤ t && !at_.pendingAt (at_.ltrOperands o w) t

/-- When a lauter instruction that is clean issues. -/
def State.ltrTime (s : State) (o : LtrOp) (w : Issue) : Phase :=
  if s.sch.regime = .timed then s.sch.startPhase + issueStamp w else s.ltrUntimed o w

/-- A lauter instruction completes by its own effect where it issues cleanly: its unit is occupied, its work is done, and the
program front moves on. -/
def LtrCompletes (c : Issue → Instr) (o : LtrOp) (run : Issue → Phase → Bool → State → State) : Prop :=
  ∀ (w : Issue) (s : State), s.ltrClean o w = true →
    exec (c w) s = .next ((ltrLaunch o w (s.ltrTime o w) false (run w) (s.advanceTo (s.ltrTime o w))).passLtr w)

/-- When a U instruction issues: its stamp, not before the verdict, or the first KCLK edge at which its unit is free (R62, R74). -/
def State.uTime (s : State) (k : Nat) (u : Unit_) (w : Issue) : Phase :=
  if s.sch.regime = .timed then s.uStamp w else s.uUntimed k u

/-- A U instruction issues cleanly: the verdict is valid, or the untimed U streams have started; the word is well formed and in
order, and its unit free (R56, R59, R62, R70, R74). -/
def State.uClean (s : State) (k : Nat) (j : UJob) (w : Issue) : Bool :=
  let t := s.uTime k j.unit w
  let at_ := s.advanceTo t
  s.running && !(s.front (uFront k)).ended && !wordBad j.unit 0 j.op w && !(at_.front (uFront k)).wordPoison && !j.bad &&
  match s.sch.regime with
  | .none => false
  | .untimed => s.sch.uStarted
  | .timed => s.sch.valid = some true && at_.quarterReady (at_.front (uFront k)) t && issueStamp w % 4 = 0 &&
      !(at_.front (uFront k)).outOfOrder w && at_.uBusy k j.unit ≤ t

/-- The state after a clean issue of a U instruction. -/
def State.uIssued (s : State) (k : Nat) (j : UJob) (w : Issue) : State :=
  (j.run (s.uTime k j.unit w) (s.advanceTo (s.uTime k j.unit w))).passU k w

end Sys2Proof.Machine
end

