-- ==== Sys2Proof/Certificates/Slice0/Obligations.lean ====
section
/-! DEFINITION. The statements for the provers: what the commands do to the state, by the rules of the spec.  A statement that a
command completes says under which conditions on the state and the operands it answers a next state, and which. -/
open Sys2Proof Sys2Proof.Machine

/-! The queue, time, reset, and what every step keeps. -/

/-- A step takes the command at the front of the queue and runs it with the rest of the queue (the model's own form, log 15). -/
def Obligations.StepRunsTheFrontCommand : Prop :=
  ∀ (s : State) (c : Instr) (rest : List Instr), s.pending = c :: rest → step s = exec c { s with pending := rest }

/-- With no command waiting one ACLK phase passes: hall time counts on by a quarter of a nanosecond unless the self-test has
stopped it, what units had left to do by then is done, which touches HBM, the scratchpads, the cells on their way and counters
alone, and with nothing due nothing else changes (the step on an empty queue is the model's choice, log 15); eight cycles of the
root clock, which are four phases, advance HT by exactly one tick whatever the fraction, and HT is an 80-bit fixed-point number of
64 integer bits and wraps with them (R29). -/
def Obligations.IdleStepIsOnePhase : Prop :=
  (∀ s : State, s.pending = [] → ∃ t, step s = .next t ∧ t.clk.phase = s.clk.phase + 1 ∧ s.DueOnly t ∧
    (s.due = [] → t = { s with clk := t.clk } ∧ (s.clk.stopped = false → t.clk.ht = s.clk.ht + 0x4000#80) ∧
      (s.clk.stopped = true → t.clk.ht = s.clk.ht))) ∧
  (∀ s : State, s.clk.stopped = false → s.due = [] →
    s.tick.tick.tick.tick.ht = (s.ht + 1) % 2 ^ 64 ∧ s.tick.tick.tick.tick.clk.ht.toNat % 65536 = s.clk.ht.toNat % 65536)

/-- What the spec says of the module right after a power-on reset: stage AUX, hall time DISABLED at 0 with an unknown stratum,
the scheduler EMPTY, no port in use, every bank WAKING, every controller OFF, no interrupt enabled, negotiation open. -/
def Obligations.ResetLeavesTheSpecsValues : Prop :=
  State.reset.pending = [] ∧ State.reset.stage = 0 ∧ State.reset.ht = 0 ∧ State.reset.htState = htDisabled ∧
    State.reset.fld .htm HTM.STATUS_STRATUM = 0xFF ∧ State.reset.fld .htm HTM.CTRL_PARENT = 0xF ∧
    State.reset.schState = schEmpty ∧ State.reset.sch.img = none ∧
    (∀ t : Fin 128, ∀ b : Fin 16, State.reset.bankState t b.val = bankWaking) ∧
    (∀ k : Fin 8, State.reset.fld (.mem k) MEM.STATUS_STATE = memOff) ∧
    (∀ p, State.reset.fld p COM.EVENT = 0) ∧ (∀ p, State.reset.fld p COM.EVENT_EN = 0) ∧
    State.reset.fld .glb GLB.FEAT_ACTIVE = 0 ∧ State.reset.fld .hif HIF.CPL_TIMEOUT = 50000 ∧
    State.reset.fld .ltr LTR.SKEW_LIMIT = 0x4000_0000

/-- The stores of the reset state are canonical. -/
def Obligations.ResetIsCanonical : Prop :=
 State.reset.canonical = true

/-- Every step keeps the stores canonical: HBM and the scratchpads stay rising lists without a zero byte, and the register map a
rising list without a register at its reset value, so that equal contents are equal data. -/
def Obligations.StepKeepsStoresCanonical : Prop :=
  ∀ s t : State, s.canonical = true → step s = .next t → t.canonical = true

/-- No command touches the queue, takes back what the module has sent, or turns the clock of phases back, and no command ends in a
fault or a refusal. -/
def Obligations.CommandsLeaveQueueAndPast : Prop :=
  ∀ (c : Instr) (s : State), ∃ t, exec c s = .next t ∧ t.pending = s.pending ∧ s.out <+: t.out ∧ s.clk.phase ≤ t.clk.phase

/-! The register bus. -/

/-- ID and FEAT of every page (R411, R422): the type codes and masks of the index of pages, the page's number as instance (0 for a
page of which there is one), major 1 and minor 0; no two pages have one type and one instance; FEAT is GLB_FEAT_ACTIVE AND the
page's mask, and so 0 while no feature is active; ID reads 0x0011_0003_0001_0000 on KLN3, and the mask of the RACK page gives
0x0240 of 0x86C0. -/
def Obligations.PagesIdentifyThemselves : Prop :=
  (∀ (s : State) (p : Page), s.answers p = true →
    s.readReg p 0x000 = pageType p * 2 ^ 48 + pageNumber p * 2 ^ 32 + 1 * 2 ^ 16 + 0 ∧
    s.readReg p 0x008 = s.fld .glb GLB.FEAT_ACTIVE &&& pageFeatMask p ∧
    (s.fld .glb GLB.FEAT_ACTIVE = 0 → s.readReg p 0x008 = 0)) ∧
  (∀ p q : Page, pageType p = pageType q → pageNumber p = pageNumber q → p = q) ∧
  (∀ x ∈ ([(.glb, 0x0001, 0x0000), (.hif, 0x0002, 0x0000), (.irq, 0x0003, 0x0000), (.htm, 0x0004, 0x0400), (.sch, 0x0005, 0x2021),
      (.pwr, 0x0006, 0x0100), (.thm, 0x0007, 0x0000), (.sec, 0x0008, 0x2000), (.bst, 0x0009, 0x0000), (.hyd, 0x000A, 0xC002),
      (.ltr, 0x000B, 0x1000), (.coop, 0x000C, 0x0080), (.swx, 0x000D, 0x0002), (.rack, 0x000E, 0x0260)] :
      List (Page × Nat × Nat)), pageType x.1 = x.2.1 ∧ pageFeatMask x.1 = x.2.2 ∧ pageNumber x.1 = 0) ∧
  (∀ z : Fin 8, pageType (.zn z) = 0x0010 ∧ pageFeatMask (.zn z) = 0x0000 ∧ pageNumber (.zn z) = z.val ∧
    pageType (.kln z) = 0x0011 ∧ pageFeatMask (.kln z) = 0x0006 ∧ pageNumber (.kln z) = z.val ∧
    pageType (.mem z) = 0x0012 ∧ pageFeatMask (.mem z) = 0x0000 ∧ pageNumber (.mem z) = z.val) ∧
  (∀ p : Fin 12, pageType (.lnk p) = 0x0013 ∧ pageFeatMask (.lnk p) = 0x0000 ∧ pageNumber (.lnk p) = p.val) ∧
  (∀ (t : Fin 128), ∀ x ∈ ([(.tctl t, 0x0020, 0x0000), (.tarr t, 0x0021, 0x0008), (.tvec t, 0x0022, 0x0800),
      (.tmil t, 0x0023, 0x0018), (.tspd t, 0x0024, 0x0000)] : List (Page × Nat × Nat)),
      pageType x.1 = x.2.1 ∧ pageFeatMask x.1 = x.2.2 ∧ pageNumber x.1 = t.val) ∧
  pageId (.kln 3) = 0x0011_0003_0001_0000 ∧ 0x86C0 &&& pageFeatMask .rack = 0x0240

/-- The map of BAR0 (R415, R416): the chip pages at their offsets, a tile window of five pages for each tile, and every other offset
unassigned; pages that stand in the map are found at their base and nowhere else. -/
def Obligations.BarMapHoldsThePages : Prop :=
  (∀ (t : Fin 128) (o : Nat), o < 0x1_0000 →
    pageAt (0x0100_0000 + t.val * 0x1_0000 + o) =
      if o < 0x1000 then some (.tctl t) else if o < 0x2000 then some (.tarr t) else if o < 0x3000 then some (.tvec t)
      else if o < 0x4000 then some (.tmil t) else if o < 0x5000 then some (.tspd t) else none) ∧
  (∀ (p : Page) (a : Nat), pageAt a = some p ↔ pageBase p ≤ a ∧ a < pageBase p + 0x1000) ∧
  (∀ x ∈ ([(.glb, 0x0000, 0), (.hif, 0x1000, 1), (.irq, 0x2000, 2), (.htm, 0x3000, 3), (.sch, 0x4000, 4), (.pwr, 0x5000, 5),
      (.thm, 0x6000, 6), (.sec, 0x7000, 7), (.bst, 0x8000, 8), (.hyd, 0x9000, 9), (.ltr, 0xA000, 10), (.coop, 0xB000, 11),
      (.swx, 0xC000, 12), (.rack, 0xD000, 13)] : List (Page × Nat × Nat)), pageBase x.1 = x.2.1 ∧ pageOrder x.1 = x.2.2) ∧
  (∀ z : Fin 8, pageBase (.zn z) = 0x0001_0000 + z.val * 0x1000 ∧ pageOrder (.zn z) = 14 + z.val ∧
    pageBase (.kln z) = 0x0002_0000 + z.val * 0x1000 ∧ pageOrder (.kln z) = 22 + z.val ∧
    pageBase (.mem z) = 0x0003_0000 + z.val * 0x1000 ∧ pageOrder (.mem z) = 30 + z.val) ∧
  (∀ p : Fin 12, pageBase (.lnk p) = 0x0004_0000 + p.val * 0x1000 ∧ pageOrder (.lnk p) = 38 + p.val) ∧
  fldAddr (.tspd 100) TSPD.BANK_PWR = 0x0164_4100

/-- A BAR0 write of 8 bytes, or of 4 to one half, to a register that does no more than store changes the RW and RWL bits that it
covers, and no other bit, register or store, while no lock holds (R3, R65, R406).
While the lock of a timed step holds, a write that covers a locked field leaves it, is counted, and the first one is recorded
with its offset and raises LOCK_WRITE; RW fields of the same register take the written value (R65). -/
def Obligations.RegisterWritesStoreOrAreLocked : Prop :=
  (∀ (s : State) (p : Page) (off : Nat) (val : Reg) (h : Half),
    off < 0x1000 → off % 8 = 0 → off ≠ 0x010 → off ≠ 0x020 → off ≠ 0x028 →
    (∀ w t, blockWrite p off w t = plainWrite p off w t) → s.reaches p = true → s.locked = false →
    ∃ t, exec (.registerWrite (BitVec.ofNat 26 (pageBase p + off + if h = .high then 4 else 0))
        (if h = .whole then 8 else 4) val) s = .next t ∧
      (∀ i, i < 64 → bitOf (t.reg (pageBase p + off)).toNat i =
        if bitOf (Half.mask h &&& ((regRow p off).rw ||| (regRow p off).rwl)) i then bitOf (wData ⟨h, val⟩) i
        else bitOf (s.reg (pageBase p + off)).toNat i) ∧
      (∀ a, a ≠ pageBase p + off → t.reg a = s.reg a) ∧ t = { s with regs := t.regs }) ∧
  (∀ (s : State) (p : Page) (off : Nat) (w : RegW), off < 0x1000 → s.locked = true →
    Half.mask w.half &&& (regRow p off).rwl ≠ 0 →
    (∀ i, i < 64 → bitOf ((s.store p off w).reg (pageBase p + off)).toNat i =
      if bitOf (Half.mask w.half &&& (regRow p off).rw) i then bitOf (wData w) i
      else bitOf (s.reg (pageBase p + off)).toNat i) ∧
    (s.store p off w).fld .sch SCH.LOCK_WRITE_CNT = min (s.fld .sch SCH.LOCK_WRITE_CNT + 1) (2 ^ 64 - 1) ∧
    (s.flag .sch SCH.LOCK_WR_FIRST_VALID = false →
      (s.store p off w).fld .sch SCH.LOCK_WR_FIRST_OFFSET = pageBase p + off ∧
      (s.store p off w).flag .sch SCH.LOCK_WR_FIRST_VALID = true ∧
      bitOf ((s.store p off w).fld .sch COM.EVENT) SCH.EV_LOCK_WRITE = true) ∧
    (s.flag .sch SCH.LOCK_WR_FIRST_VALID = true →
      (s.store p off w).fld .sch SCH.LOCK_WR_FIRST = s.fld .sch SCH.LOCK_WR_FIRST))

/-- An access that is not an aligned one of 32 or 64 bits reaches no register: it is counted and raises BAD_ACCESS where the HIF
page takes it, and otherwise has no effect, and a read of that kind returns 0; a write to an offset that no page holds has no
effect, and a read of it returns 0 (R337, R393, R407).  In D3hot the function answers no read of memory (R335). -/
def Obligations.BadAndUnassignedAccesses : Prop :=
  ∀ (s : State) (off : BitVec 26) (size : Nat),
    (¬(size = 8 ∧ off.toNat % 8 = 0) → ¬(size = 4 ∧ off.toNat % 4 = 0) →
      (∀ val : Reg, exec (.registerWrite off size val) s =
        .next (if s.reaches .hif then s.tally .hif HIF.BAD_ACCESS_CNT HIF.EV_BAD_ACCESS else s)) ∧
      (s.host.d3hot = false → exec (.lowHalfRead ⟨off, size⟩) s =
        .next ((if s.reaches .hif then s.tally .hif HIF.BAD_ACCESS_CNT HIF.EV_BAD_ACCESS else s).send (.readData off.toNat 0)))) ∧
    (pageAt off.toNat = none → (size = 4 ∧ off.toNat % 4 = 0 ∨ size = 8 ∧ off.toNat % 8 = 0) →
      (∀ val : Reg, exec (.registerWrite off size val) s = .next s) ∧
      (s.host.d3hot = false → exec (.lowHalfRead ⟨off, size⟩) s = .next (s.send (.readData off.toNat 0)))) ∧
    (s.stage = stageReady → s.host.d3hot = true → ∃ t, exec (.lowHalfRead ⟨off, size⟩) s = .next t ∧ t.out = s.out ∧ t.regs = s.regs ∧
      t.host.latch = s.host.latch)

/-- A 32-bit read of the low half of a register of a page that answers returns the low half, and copies the high half of an RO
register into the page's latch; the high-half read that follows returns the latch, and the latches of other pages stay (R414); a
high-half read that follows no such read returns the high half, and a 64-bit read returns the whole register and leaves every
latch.  A read changes no register, but that of HTM_TIME latches its fraction into HTM_TIME_FRAC (R49). -/
def Obligations.LowHalfReadLatches : Prop :=
  ∀ (s : State) (p : Page) (off : Nat), off < 0x1000 → off % 8 = 0 → s.answers p = true →
    (∃ t, exec (.lowHalfRead ⟨BitVec.ofNat 26 (pageBase p + off), 4⟩) s = .next t ∧
      t.out = s.out ++ [.readData (pageBase p + off) (BitVec.ofNat 64 (s.readReg p off % 2 ^ 32))] ∧
      (isRo p off = true → t.latchOf p = (BitVec.ofNat 32 (s.readReg p off / 2 ^ 32), off)) ∧
      (isRo p off = false → t.latchOf p = ((s.latchOf p).1, off)) ∧ (∀ q, q ≠ p → t.latchOf q = s.latchOf q) ∧
      (p ≠ .htm ∨ off ≠ HTM.TIME.off → t.regs = s.regs) ∧
      (p = .htm → off = HTM.TIME.off → t.fld .htm HTM.TIME_FRAC = s.clk.ht.toNat % 65536 ∧
        ∀ a, a ≠ fldAddr .htm HTM.TIME_FRAC → t.reg a = s.reg a)) ∧
    (isRo p off = true → (s.latchOf p).2 = off →
      exec (.lowHalfRead ⟨BitVec.ofNat 26 (pageBase p + off + 4), 4⟩) s =
        .next (s.send (.readData (pageBase p + off + 4) (BitVec.ofNat 64 (s.latchOf p).1.toNat)))) ∧
    (isRo p off = false ∨ (s.latchOf p).2 ≠ off →
      exec (.lowHalfRead ⟨BitVec.ofNat 26 (pageBase p + off + 4), 4⟩) s =
        .next (s.send (.readData (pageBase p + off + 4) (BitVec.ofNat 64 (s.readReg p off / 2 ^ 32 % 2 ^ 32))))) ∧
    exec (.lowHalfRead ⟨BitVec.ofNat 26 (pageBase p + off), 8⟩) s =
      .next (s.send (.readData (pageBase p + off) (BitVec.ofNat 64 (s.readReg p off))))

/-! Events, counters and interrupts. -/

/-- An event sets its bit whatever EVENT_EN says, and no other bit; while EVENT_FIRST is not valid it records the bit and HT, and
while it is valid and was recorded in another SCLK cycle it stays; nothing but the page's event registers and the queue of messages
changes.  A W1C write clears the bits of EVENT that it holds a 1 for, and EVENT_FIRST.VALID with the last of them; a page that a
write does not reach is left as it is; no other register changes (R412).  The write finds the page as State.pageNow gives it: at COOP
the releases sent by then have acted (log 46). -/
def Obligations.EventsSetAndClear : Prop :=
  (∀ (s : State) (p : Page) (b : Nat), b < 64 →
    (s.raise p b).fld p COM.EVENT = s.fld p COM.EVENT ||| 2 ^ b ∧
    (s.flag p COM.EVENT_FIRST_VALID = false →
      (s.raise p b).fld p COM.EVENT_FIRST = 2 ^ 31 + b ∧ (s.raise p b).fld p COM.EVENT_TIME = s.ht) ∧
    (s.flag p COM.EVENT_FIRST_VALID = true → s.fld p COM.EVENT_TIME / 4 ≠ s.ht / 4 →
      (s.raise p b).fld p COM.EVENT_FIRST = s.fld p COM.EVENT_FIRST ∧
      (s.raise p b).fld p COM.EVENT_TIME = s.fld p COM.EVENT_TIME) ∧
    (∀ a, a ≠ fldAddr p COM.EVENT → a ≠ fldAddr p COM.EVENT_FIRST → a ≠ fldAddr p COM.EVENT_TIME →
      (s.raise p b).reg a = s.reg a) ∧
    s.raise p b = { s with regs := (s.raise p b).regs, host := { s.host with irqQ := (s.raise p b).host.irqQ } }) ∧
  (∀ (s0 s : State) (p : Page) (w : RegW), s = s0.pageNow p →
    (s.reaches p = false → exec (.eventClear p w) s0 = .next s) ∧
    (s.reaches p = true → ∃ t, exec (.eventClear p w) s0 = .next t ∧
      (∀ i, i < 64 → bitOf (t.fld p COM.EVENT) i = (bitOf (s.fld p COM.EVENT) i && !bitOf (wData w) i)) ∧
      (t.fld p COM.EVENT = 0 → t.flag p COM.EVENT_FIRST_VALID = false) ∧
      (t.fld p COM.EVENT ≠ 0 → t.fld p COM.EVENT_FIRST = s.fld p COM.EVENT_FIRST) ∧
      (∀ a, a ≠ fldAddr p COM.EVENT → a ≠ fldAddr p COM.EVENT_FIRST → t.reg a = s.reg a) ∧ t = { s with regs := t.regs }))

/-- A counter adds and stops at its largest value; a write of 1 to CTRL.CNT_CLR sets every counter of the page to 0 and leaves its
other registers and every other page: those at 0x040 to 0x0F8 and COOP_POOL_FAIL (R413).  It does so on every page, stated for the
32-bit write to the high half of CTRL, where no other bit but HTM_CTRL.PORT_MASK stands, that mask being written as it is; and for
a write of any size on the pages whose CTRL holds nothing else.  The write finds the page as State.pageNow gives it (log 46).  Of
the two BUSY_CNT counters of the array and the vector unit, which hold the whole of an occupancy that has begun, what is cleared
is what they read (R183).  The shutdown self-test does not keep the clear out (R395). -/
def Obligations.CountersCountAndClear : Prop :=
  (∀ (s : State) (p : Page) (f : Fld) (n : Nat), f.lo = 0 → f.hi = 63 →
    (s.countN p f n).fld p f = min (s.fld p f + n) (2 ^ 64 - 1) ∧
    (∀ a, a ≠ fldAddr p f → (s.countN p f n).reg a = s.reg a) ∧ s.countN p f n = { s with regs := (s.countN p f n).regs }) ∧
  (∀ (s0 s : State) (p : Page) (w : RegW), s = s0.pageNow p → s.answers p = true → s.deaf = false → wHits w COM.CNT_CLR = true →
    (w.half = .high ∧ (p = .htm → s.locked = false ∧ bitsOf (wData w) 43 32 = s.fld .htm HTM.CTRL_PORT_MASK) ∧
        (∀ q, p = .lnk q → s.flag (.lnk q) LNK.CTRL_ENABLE = true ∨ s.portState q.val = portDisabled)) ∨
      p ∈ [.hif, .irq, .pwr, .thm, .hyd, .coop, .rack] ∨ (∃ k, p = .mem k) ∨
      (∃ t, p = .tctl t ∨ p = .tarr t ∨ p = .tvec t ∨ p = .tmil t ∨ p = .tspd t) →
    ∃ t, exec (.cntClr p w) s0 = .next t ∧
      (∀ off, 0x040 ≤ off → off < 0x100 → (∀ i, p = .tvec i → off ≠ TVEC.BUSY_CNT.off) →
        (∀ i, p = .tarr i → off ≠ TARR.BUSY_CNT.off) → t.reg (pageBase p + off) = regReset (pageBase p + off)) ∧
      (∀ i, p = .tvec i → s.testing = false → t.fld (.tvec i) TVEC.BUSY_CNT = s.busyLeft i .vec % 2 ^ 64) ∧
      (∀ i, p = .tarr i → s.testing = false → t.fld (.tarr i) TARR.BUSY_CNT = s.busyLeft i .arrStream % 2 ^ 64) ∧
      (∀ j, j < 16 → p = .coop → t.reg (fldAddr .coop (COOP.POOL_FAIL j)) = regReset (fldAddr .coop (COOP.POOL_FAIL j))) ∧
      (∀ off, off < 0x040 → t.reg (pageBase p + off) = s.reg (pageBase p + off)) ∧
      (∀ off, 0x100 ≤ off → off < 0x1000 → p ≠ .coop → t.reg (pageBase p + off) = s.reg (pageBase p + off)) ∧
      (∀ q, q ≠ p → ∀ off, off < 0x1000 → t.reg (pageBase q + off) = s.reg (pageBase q + off)) ∧
      t.fab.idle = (match p with | .lnk q => smSet (0, 0) s.fab.idle q.val (s.clk.phase, 0) | _ => s.fab.idle) ∧
      t = { s with regs := t.regs, fab := { s.fab with idle := t.fab.idle } })

/-- Bits enter the interrupt request when their enable is written while they are set: each then asks for one message on the routed
vector if the route is enabled, and a bit that was enabled before asks for nothing; a page that the write does not reach is left as
it is (R419).  The first message asked for is sent; while MSI-X or bus mastering is off it is dropped and counted, without a message
of its own; while its vector or the function is masked it sets the vector's pending bit (R420).  Unmasking a vector or the function
sends, once and in ascending order, every vector that pends and is no longer masked, and those alone; while MSI-X or bus mastering
is off they are dropped and counted. -/
def Obligations.MessagesFollowTheirEvents : Prop :=
  (∀ (s : State) (p : Page) (w : RegW),
    let asked := (List.range 64).filter fun b => bitOf ((s.store p 0x028 w).fld p COM.EVENT_EN) b && bitOf (s.fld p COM.EVENT) b &&
      !bitOf (s.fld p COM.EVENT_EN) b
    (s.reaches p = false → exec (.eventEnableWrite p w) s = .next s) ∧
    (s.reaches p = true → ∃ t, exec (.eventEnableWrite p w) s = .next t ∧ t.regs = (s.store p 0x028 w).regs ∧
      t = { s with regs := t.regs, host := { s.host with irqQ := t.host.irqQ } } ∧
      t.host.irqQ.Perm (s.host.irqQ ++ if (s.route p).2 then asked.map (fun b => ⟨s.sclk, p, b, (s.route p).1⟩) else []))) ∧
  (∀ (s : State) (r : IrqReq) (rest : List IrqReq), s.host.irqQ = r :: rest →
    let s1 : State := { s with host := { s.host with irqQ := rest } }
    (s.msixOff = true → ∃ t, exec .msixSend s = .next t ∧ t.out = s.out ∧ t.host = s1.host ∧
      t.fld .irq IRQ.MSG_DROPPED_CNT = min (s.fld .irq IRQ.MSG_DROPPED_CNT + 1) (2 ^ 64 - 1) ∧
      bitOf (t.fld .irq COM.EVENT) IRQ.EV_DROPPED = true) ∧
    (s.msixOff = false → s.vecMasked r.vector = false →
      exec .msixSend s = .next ((s1.count .irq IRQ.MSG_SENT_CNT).send (.msix r.vector))) ∧
    (s.msixOff = false → s.vecMasked r.vector = true → exec .msixSend s = .next ((s1.setFld .hif HIF.MSIX_PBA
      (s.fld .hif HIF.MSIX_PBA ||| 2 ^ r.vector)).count .irq IRQ.MSG_PENDED_CNT))) ∧
  (∀ (s : State), s.host.irqQ = [] → exec .msixSend s = .next s) ∧
  (∀ (s s1 : State) (u : Unmask),
    (s1 = match u with
      | .vector v => s.setFld .hif (HIF.MSIX_TABLE (2 * v.val + 1)) (mergeBits (s.fld .hif (HIF.MSIX_TABLE (2 * v.val + 1))) 0 (2 ^ 32))
      | .function => { s with host := { s.host with cfg := { s.host.cfg with functionMask := false } } }) →
    (∀ v, u = .vector v → s.reaches .hif = true) →
    let freed := (List.range 64).filter fun v => bitOf (s.fld .hif HIF.MSIX_PBA) v && !s1.vecMasked v
    ∃ t, exec (.msixUnmask u) s = .next t ∧ t.host = s1.host ∧ (∀ v, t.vecMasked v = s1.vecMasked v) ∧
      (∀ v, v < 64 → bitOf (t.fld .hif HIF.MSIX_PBA) v = (bitOf (s.fld .hif HIF.MSIX_PBA) v && s1.vecMasked v)) ∧
      t.out = s.out ++ (if s.msixOff then [] else freed.map .msix) ∧
      t.fld .irq IRQ.MSG_SENT_CNT = min (s.fld .irq IRQ.MSG_SENT_CNT + if s.msixOff then 0 else freed.length) (2 ^ 64 - 1) ∧
      t.fld .irq IRQ.MSG_DROPPED_CNT = min (s.fld .irq IRQ.MSG_DROPPED_CNT + if s.msixOff then freed.length else 0) (2 ^ 64 - 1)) ∧
  (∀ (s : State) (v : Fin 64), s.reaches .hif = false → exec (.msixUnmask (.vector v)) s = .next s)

/-! Hall time. -/

/-- Time symbols: one is sent on a LOCKED or ADMITTED port after each multiple of 1,000 ns (R34); one that fails its CRC-8 is
counted and discarded (R34); a valid one is counted, and its sender's state is kept (R34, R36); 4 µs without one make a port
time-lost, and counted (R36). -/
def Obligations.TimeSymbolsComplete : Prop :=
  (∀ (s : State) (p : Fin 12), (s.fld (.lnk p) LNK.STATUS_STATE = 2 ∨ s.fld (.lnk p) LNK.STATUS_STATE = 3) →
    (s.htPort p.val).sentAt < s.ht / 1000 → ∃ t sym, exec (.timeSymbolSend p) s = .next t ∧
      t.out = s.out ++ [.timeSymbol p.val sym] ∧ (t.htPort p.val).seq = (s.htPort p.val).seq + 1 ∧
      (t.htPort p.val).sentAt = s.ht / 1000 ∧ t.regs = s.regs ∧
      sym = packSymbol (s.symbolFlags (s.htPort p.val)) (s.htPort p.val).seq.toNat (s.fld .htm HTM.STATUS_STRATUM)
        (s.fld .htm HTM.GM_ID) s.clk.ht.toNat (s.htPort p.val).t1.toNat
        (if (s.htPort p.val).haveEcho then (s.clk.ht - (s.htPort p.val).t2).toNat % 2 ^ 32 else 0)) ∧
  (∀ (s : State) (p : Fin 12) (sym : BitVec 256) (t4 : BitVec 80), crc8 (sym.toNat % 2 ^ 248) ≠ sym.toNat / 2 ^ 248 →
    ∃ t, exec (.timeSymbolRx p sym t4) s = .next t ∧
      t.fld .htm HTM.SYM_CRC_CNT = min (s.fld .htm HTM.SYM_CRC_CNT + 1) (2 ^ 64 - 1) ∧
      t.fld .htm HTM.SYM_RX_CNT = s.fld .htm HTM.SYM_RX_CNT ∧ (t.htPort p.val).t1 = (s.htPort p.val).t1 ∧ t.clk = s.clk) ∧
  (∀ (s : State) (p : Fin 12) (sym : BitVec 256) (t4 : BitVec 80), crc8 (sym.toNat % 2 ^ 248) = sym.toNat / 2 ^ 248 →
    sym.toNat % 256 = 0x5A → ∃ t, exec (.timeSymbolRx p sym t4) s = .next t ∧
      t.fld .htm HTM.SYM_RX_CNT = min (s.fld .htm HTM.SYM_RX_CNT + 1) (2 ^ 64 - 1) ∧
      (t.htPort p.val).t1 = BitVec.ofNat 80 (bitsOf sym.toNat 135 56) ∧ (t.htPort p.val).t2 = t4 ∧
      (t.htPort p.val).gmId = BitVec.ofNat 16 (bitsOf sym.toNat 55 40) ∧
      (t.htPort p.val).locked = bitOf sym.toNat 8 ∧ (t.htPort p.val).gm = bitOf sym.toNat 9) ∧
  (∀ (s : State) (p : Fin 12), (s.htPort p.val).lost = false → (s.htPort p.val).lastAt + 16000 ≤ s.clk.phase →
    ∃ t, exec (.portTimeLost p) s = .next t ∧ (t.htPort p.val).lost = true ∧
      t.fld .htm HTM.STATUS_PORT_TIME_LOST = s.fld .htm HTM.STATUS_PORT_TIME_LOST ||| 2 ^ p.val ∧
      t.fld .htm HTM.TIME_LOST_CNT = min (s.fld .htm HTM.TIME_LOST_CNT + 1) (2 ^ 64 - 1))

/-- The states of hall time (R38, R39, R44): ENABLE starts FREQ_ACQ, and PHASE_ACQ on a grandmaster; clearing it returns to DISABLED
with HT 0; after 1 ms acquisition of the frequency leads to PHASE_ACQ.  The update of a module that is not the grandmaster, each
microsecond: the 1,024th in a row with its offset at 40 ps or less leads from PHASE_ACQ to LOCKED; losing the last contributing port
in LOCKED leads to HOLDOVER, counted; and in the other cases it changes no clock.  No grandmaster for 4 µs sets NO_GM. -/
def Obligations.HallTimeStatesFollow : Prop :=
  (∀ (s : State) (w : RegW), s.reaches .htm = true → s.locked = false → s.flag .htm HTM.CTRL_ENABLE = false →
    w.half ≠ .high → bitOf w.val.toNat 0 = true → ∃ t, exec (.htmEnable w) s = .next t ∧
      t.htState = (if bitOf w.val.toNat 1 then htPhaseAcq else htFreqAcq) ∧
      t.flag .htm HTM.CTRL_ENABLE = true ∧ t.htm.enabledAt = s.clk.phase ∧ t.clk = s.clk) ∧
  (∀ (s : State) (w : RegW), s.reaches .htm = true → s.locked = false → s.flag .htm HTM.CTRL_ENABLE = true →
    w.half ≠ .high → bitOf w.val.toNat 0 = false → ∃ t, exec (.htmDisable w) s = .next t ∧ t.htState = htDisabled ∧
      t.flag .htm HTM.CTRL_ENABLE = false ∧ t.ht = 0 ∧ t.fld .htm HTM.STATUS_STRATUM = 0xFF ∧ t.timeLocked = false) ∧
  (∀ s : State, s.htState = htFreqAcq → s.htm.enabledAt + 4000000 ≤ s.clk.phase → ∃ t, exec .freqAcquired s = .next t ∧
    t.htState = htPhaseAcq ∧ t.timeLocked = false ∧ t.clk = s.clk) ∧
  (∀ s : State, s.isGm = false → s.clk.stopped = false → s.htState ≠ htDisabled → s.htm.servoAt + 4000 ≤ s.clk.phase →
    ∃ t, exec .servoUpdate s = .next t ∧ t.clk = s.clk ∧ t.mem = s.mem ∧ t.sch = s.sch ∧
      t.htm.servoAt = s.clk.phase - (s.clk.phase - s.htm.servoAt) % 4000 ∧
      (s.htState = htPhaseAcq → s.contributing ≠ [] → s.htm.stepped = true → 1023 ≤ s.htm.offRun →
        (s.combined s.contributing).natAbs ≤ 5242 → t.htState = htLocked ∧ bitOf (t.fld .htm COM.EVENT) HTM.EV_LOCKED = true) ∧
      (s.htState = htLocked → s.contributing = [] → t.htState = htHoldover ∧ t.flag .htm HTM.STATUS_HOLDOVER = true ∧
        t.fld .htm HTM.HOLDOVER_CNT = min (s.fld .htm HTM.HOLDOVER_CNT + 1) (2 ^ 64 - 1))) ∧
  (∀ s : State, s.htState = htLocked → s.isGm = false → s.htm.gmSeenAt + 16000 ≤ s.clk.phase →
    s.flag .htm HTM.STATUS_NO_GM = false → ∃ t, exec .noGm s = .next t ∧ t.flag .htm HTM.STATUS_NO_GM = true ∧
      t.htState = htLocked ∧ bitOf (t.fld .htm COM.EVENT) HTM.EV_NO_GM = true)

/-- The grandmaster under R32: a write of the time of day in DISABLED, or by the grandmaster in PHASE_ACQ, makes it pending, and any other is
ignored and counted; the first TICK_IN edge loads it into HT; 20
ms later, or 20 ms after ENABLE when no load is due, it is LOCKED; an edge that has not come within 2 × 10^9 ns discards the
pending value, which is counted, and the module is LOCKED, and in LOCKED it is an event; an edge in LOCKED keeps the correction
within 0.1 ppm (R31).  PTM and TICK_OUT: with feature 10 active a write of 1 to PTM_REQ, and with PTM_AUTO set every 10 ms, sends a
request stamped with HT; the response latches HT midway, the host's time and the round trip together (R47); TICK_OUT pulses within
2 ns of multiples of 10^9 ns and stays high for 100 ns (R48). -/
def Obligations.GrandmasterPtmAndTickOut : Prop :=
  ((∀ (s : State) (w : RegW), s.reaches .htm = true → s.locked = false →
    let open_ := s.htState = htDisabled ∨ s.htState = htPhaseAcq ∧ s.isGm = true
    let v := BitVec.ofNat 64 (mergeBits (s.reg (fldAddr .htm HTM.TOD_SET)).toNat (wData w) (Half.mask w.half))
    (open_ → ∃ t, exec (.htmTodSet w) s = .next t ∧ t.htm.todPending = some v ∧ t.reg (fldAddr .htm HTM.TOD_SET) = v ∧
      t.clk = s.clk) ∧
    (¬open_ → exec (.htmTodSet w) s = .next (s.count .htm HTM.TOD_IGNORED_CNT))) ∧
  (∀ (s : State) (v : Reg), s.isGm = true → s.flag .htm HTM.CTRL_TICK_IN_EN = true → s.htState = htPhaseAcq →
    s.htm.todPending = some v → s.htm.stepped = false → ∃ t, exec .tickInEdge s = .next t ∧ t.ht = v.toNat ∧
      t.clk.ht.toNat % 65536 = 0 ∧ t.htm.todPending = none ∧ t.htm.loadedAt = some s.clk.phase ∧ t.regs = s.regs) ∧
  (∀ s : State, s.isGm = true → s.flag .htm HTM.CTRL_TICK_IN_EN = true → s.htState = htLocked → ∃ t,
    exec .tickInEdge s = .next t ∧ t.clk = s.clk ∧ t.htm.edgeAt = some s.clk.phase ∧
      -100000 ≤ sgn 32 (t.fld .htm HTM.FREQ_ADJ) ∧ sgn 32 (t.fld .htm HTM.FREQ_ADJ) ≤ 100000) ∧
  (∀ s : State, s.isGm = true → s.htState = htPhaseAcq →
    (s.htm.todPending = none ∨ s.flag .htm HTM.CTRL_TICK_IN_EN = false ∨ s.htm.loadedAt.isSome = true) →
    s.htm.loadedAt.getD s.htm.enabledAt + 80000000 ≤ s.clk.phase → ∃ t, exec .gmLockTimer s = .next t ∧
      t.htState = htLocked ∧ t.timeLocked = true ∧ bitOf (t.fld .htm COM.EVENT) HTM.EV_LOCKED = true ∧ t.clk = s.clk) ∧
  (∀ s : State, s.isGm = true → s.flag .htm HTM.CTRL_TICK_IN_EN = true → s.htm.tickMissing = false →
    (s.htState = htPhaseAcq → s.htm.todPending.isSome = true → s.htm.loadedAt = none →
      s.htm.edgeAt.getD s.htm.enabledAt + 8000000000 ≤ s.clk.phase → ∃ t, exec .tickInMissing s = .next t ∧ t.htState = htLocked ∧
      t.htm.todPending = none ∧ t.fld .htm HTM.TOD_IGNORED_CNT = min (s.fld .htm HTM.TOD_IGNORED_CNT + 1) (2 ^ 64 - 1) ∧
      bitOf (t.fld .htm COM.EVENT) HTM.EV_TICK_IN_MISSING = true ∧ t.clk = s.clk) ∧
    (s.htState = htLocked → s.htm.tickFrom + 8000000000 ≤ s.clk.phase → ∃ t, exec .tickInMissing s = .next t ∧
      t.htState = htLocked ∧ bitOf (t.fld .htm COM.EVENT) HTM.EV_TICK_IN_MISSING = true ∧ t.clk = s.clk))) ∧
  ((∀ (s : State) (w : RegW), s.reaches .htm = true → bitOf (s.fld .glb GLB.FEAT_ACTIVE) 10 = true →
    wHits w HTM.CTRL_PTM_REQ = true → (s.store .htm 0x010 w).isGm = s.isGm →
    (s.store .htm 0x010 w).flag .htm HTM.CTRL_ENABLE = s.flag .htm HTM.CTRL_ENABLE → wHits w COM.CNT_CLR = false → ∃ t, exec (.ptmReq w) s = .next t ∧
      t.out = s.out ++ [.ptmRequest s.clk.ht] ∧ t.htm.ptmT1 = some s.clk.ht) ∧
  (∀ s : State, s.flag .htm HTM.CTRL_PTM_AUTO = true → s.htm.autoAt + 40000000 ≤ s.clk.phase →
    bitOf (s.fld .glb GLB.FEAT_ACTIVE) 10 = true → ∃ t, exec .ptmAutoDialogue s = .next t ∧
      t.out = s.out ++ [.ptmRequest s.clk.ht] ∧ t.htm.autoAt = s.clk.phase ∧ t.regs = s.regs) ∧
  (∀ (s : State) (host : Reg) (turn : BitVec 32) (t1 : BitVec 80), s.htm.ptmT1 = some t1 → ∃ t,
    exec (.ptmResponse host turn) s = .next t ∧ t.fld .htm HTM.PTM_HOST = host.toNat ∧
      t.fld .htm HTM.PTM_HT = (t1.toNat + s.clk.ht.toNat) / 2 / 65536 ∧
      t.fld .htm HTM.PTM_RTT = ((s.clk.ht.toNat - t1.toNat) / 65536 - turn.toNat) % 2 ^ 32 ∧ t.htm.ptmT1 = none) ∧
  (∀ s : State, s.flag .htm HTM.CTRL_TICK_OUT_EN = true → (s.clk.ht.toNat + 2 * 65536) % (1000000000 * 65536) ≤ 4 * 65536 →
    (∀ a, s.htm.pulseAt = some a → a + 400 ≤ s.clk.phase) →
    ∃ t, exec .tickOutPulse s = .next t ∧ t.tickOut = true ∧ (t.advanceTo (s.clk.phase + 399)).tickOut = true ∧
      (t.advanceTo (s.clk.phase + 400)).tickOut = false ∧ t.regs = s.regs))

/-! The schedule. -/

/-- Commands of SCH_CTRL that the module takes: LOAD and LOAD2 lead to LOADING with the image's place, LOAD dropping the images that
were there; ARM from LOADED or HELD with a tick in time leads to ARMED, and in a timed step it names the start that follows; STOP
in ARMED or HELD leads to LOADED, in a timed step it takes effect at the step's end, and an untimed step it ends; UNLOAD leads to
EMPTY (R52 to R54, R60, R61, R64, R74, R75).  LOAD, LOAD2 and UNLOAD while a load, an armed start or a step is in progress are
ignored and counted (R53), and an ARM without an image, too late, or timed for an image that may not run timed is refused, counted,
and raises ARM_REFUSED (R54, R60); neither leaves the state. -/
def Obligations.ScheduleCommandsTakenOrTurnedAway : Prop :=
  ((∀ (s : State) (w : RegW), s.reaches .sch = true → s.schBusy = false → s.locked = false → w.half ≠ .high →
    bitsOf w.val.toNat 4 0 = 1 →
    ∃ t, exec (.load w) s = .next t ∧ t.schState = schLoading ∧ t.sch.img = none ∧ t.sch.img2 = none ∧
      t.sch.loading = some ⟨false, s.fld .sch SCH.IMG_BASE * 4096, s.fld .sch SCH.IMG_LEN, s.schState⟩ ∧
      t.mem = s.mem ∧ t.clk = s.clk) ∧
  (∀ (s : State) (w : RegW), s.reaches .sch = true → s.schBusy = false → s.locked = false → w.half ≠ .high →
    bitsOf w.val.toNat 4 0 = 2 →
    ∃ t, exec (.load2 w) s = .next t ∧ t.schState = schLoading ∧ t.sch.img = s.sch.img ∧
      t.sch.loading = some ⟨true, s.fld .sch SCH.IMG2_BASE * 4096, s.fld .sch SCH.IMG2_LEN, s.schState⟩ ∧
      t.mem = s.mem ∧ t.clk = s.clk) ∧
  (∀ (s : State) (w : RegW) (m : Image), s.reaches .sch = true → s.locked = false → s.sch.img = some m →
    (s.schState = schLoaded ∨ s.schState = schHeld) → w.half ≠ .high → bitsOf w.val.toNat 4 0 = 4 →
    (bitOf w.val.toNat 9 = true ∨ m.untimedOnly = false ∧ s.earliestStart false ≤ s.fld .sch SCH.NEXT_START) →
    ∃ t, exec (.arm w) s = .next t ∧ t.schState = schArmed ∧ t.sch.armed = some (s.fld .sch SCH.NEXT_START, false) ∧
      t.sch.img = some m) ∧
  (∀ (s : State) (w : RegW) (m : Image), s.reaches .sch = true → s.sch.img = some m → m.untimedOnly = false →
    s.sch.regime = .timed → [schRunning, schVerdict, schCommit].contains s.schState = true → w.half ≠ .high →
    bitsOf w.val.toNat 4 0 = 4 → (s.store .sch 0x010 w).flag .sch SCH.CTRL_UNTIMED = false →
    s.earliestStart true ≤ s.fld .sch SCH.NEXT_START → ∃ t, exec (.arm w) s = .next t ∧ t.schState = s.schState ∧
      t.sch = { s.sch with next := some (s.fld .sch SCH.NEXT_START), armPhase := s.clk.phase }) ∧
  (∀ (s : State) (w : RegW), s.reaches .sch = true → w.half ≠ .high → bitsOf w.val.toNat 4 0 = 8 →
    (s.sch.regime = .none → (s.schState = schArmed ∨ s.schState = schHeld) → ∃ t, exec (.stop w) s = .next t ∧
      t.schState = schLoaded ∧ t.sch.armed = none ∧ t.sch.img = s.sch.img ∧ t.mem = s.mem) ∧
    (s.sch.regime = .timed → ∃ t, exec (.stop w) s = .next t ∧ t.schState = s.schState ∧ t.sch = { s.sch with stop := true }) ∧
    (s.sch.regime = .untimed → ∃ t, exec (.stop w) s = .next t ∧ t.schState = schLoaded ∧ t.sch.regime = .none ∧
      t.sch.img = s.sch.img)) ∧
  (∀ (s : State) (w : RegW), s.reaches .sch = true → s.schBusy = false → s.locked = false → w.half ≠ .high →
    bitsOf w.val.toNat 4 0 = 16 → ∃ t, exec (.unload w) s = .next t ∧ t.schState = schEmpty ∧ t.sch.img = none ∧
      t.sch.img2 = none ∧ t.tiles.desc = [] ∧ t.mem = s.mem)) ∧
  ((∀ (s : State) (w : RegW), s.reaches .sch = true → s.schBusy = true → w.half ≠ .high → wHits w COM.CNT_CLR = false →
    bitsOf w.val.toNat 4 0 ∈ [1, 2, 16] →
    ∃ t, (exec (.load w) s = .next t ∧ exec (.load2 w) s = .next t ∧ exec (.unload w) s = .next t) ∧ t.schState = s.schState ∧
      t.sch = s.sch ∧ t.fld .sch SCH.CMD_IGNORED_CNT = min (s.fld .sch SCH.CMD_IGNORED_CNT + 1) (2 ^ 64 - 1)) ∧
  (∀ (s : State) (w : RegW), s.reaches .sch = true → s.locked = false → w.half ≠ .high → wHits w COM.CNT_CLR = false →
    bitsOf w.val.toNat 4 0 = 4 → (s.sch.img = none ∨ ∃ m, s.sch.img = some m ∧ bitOf w.val.toNat 9 = false ∧
      (s.schState = schLoaded ∨ s.schState = schHeld) ∧
      (m.untimedOnly = true ∨ s.fld .sch SCH.NEXT_START < s.earliestStart false)) →
    ∃ t, exec (.arm w) s = .next t ∧ t.schState = s.schState ∧ t.sch = s.sch ∧
      t.fld .sch SCH.ARM_REFUSED_CNT = min (s.fld .sch SCH.ARM_REFUSED_CNT + 1) (2 ^ 64 - 1) ∧
      bitOf (t.fld .sch COM.EVENT) SCH.EV_ARM_REFUSED = true))

/-- A load that ends publishes the digest of the image of the LENGTH that its header gives, and its error code: without an error the
image is taken, and a primary one leads to LOADED; with one it is not, and a primary one leaves the module EMPTY; a second one
leads back to the state before it (R50, R52, R53, R316). -/
def Obligations.ImageLoadEnds : Prop :=
  ∀ (s : State) (l : Loading), s.sch.loading = some l →
    let n := s.peekNat .inter (l.base + 8) 8
    let r := ({ s with sch := { s.sch with loading := none } }).readMem false 0 .inter [] l.base n
    let m := imageOf l.base r.1.data
    let s1 := r.2.publishDigest (if l.second then SCH.IMG2_DIGEST else SCH.IMG_DIGEST) (imageDigest r.1.data)
    let code := s1.loadCode r.1.data m l.second (r.1.poison || n != l.len)
    ∃ t, exec .imageLoadComplete s = .next t ∧ t.sch.loading = none ∧
      (∀ i, i < 6 → t.fld .sch (if l.second then SCH.IMG2_DIGEST i else SCH.IMG_DIGEST i) =
        bitsOf (imageDigest r.1.data).toNat (64 * i + 63) (64 * i)) ∧
      (code = 0 → bitOf (t.fld .sch COM.EVENT) SCH.EV_LOAD_DONE = true) ∧
      (0 < code → bitOf (t.fld .sch COM.EVENT) SCH.EV_LOAD_ERROR = true) ∧
      (l.second = false → code = 0 → t.schState = schLoaded ∧ t.sch.img = some m ∧ t.fld .sch SCH.STATUS_LOAD_ERR = 0) ∧
      (l.second = false → 0 < code → t.schState = schEmpty ∧ t.sch.img = s.sch.img ∧
        t.fld .sch SCH.STATUS_LOAD_ERR = code % 16) ∧
      (l.second = true → t.sch.img = s.sch.img ∧ t.fld .sch SCH.STATUS_LOAD2_ERR = code % 16 ∧ (l.prev < 8 → t.schState = l.prev) ∧
        (code = 0 → t.sch.img2 = some m) ∧ (0 < code → t.sch.img2 = s.sch.img2))

/-- The life of a step: at the armed tick a timed step starts when every condition of R16 holds, locks the RWL fields and is counted,
and otherwise the module is HELD; an untimed step starts when its ARM has taken effect and its sequence pass is done; the untimed U
streams start when every other stream has ended, and the step's end raises the step index and holds the module (R60, R61, R65,
R74). -/
def Obligations.StepsStartAndEnd : Prop :=
  (∀ (s : State) (tick : Nat) (run : Bool), s.sch.armed = some (tick, run) → s.schState = schArmed →
    s.flag .sch SCH.CTRL_UNTIMED = false → s.running = true →
    let s1 := (s.advanceTo (s.phaseOfTick tick)).settleZones
    ((s1.timedReady && s1.timedImage) = true → ∃ t, exec .stepStart s = .next t ∧ t.schState = schRunning ∧
      t.sch.regime = .timed ∧ t.locked = true ∧ t.sch.startTick = tick ∧ t.sch.startPhase = s.phaseOfTick tick ∧
      t.sch.armed = none ∧ t.fld .sch SCH.STEP_CNT = min (s.fld .sch SCH.STEP_CNT + 1) (2 ^ 64 - 1)) ∧
    ((s1.timedReady && s1.timedImage) = false → ∃ t, exec .stepStart s = .next t ∧ t.schState = schHeld ∧
      t.sch.regime = s.sch.regime ∧ t.sch.armed = none ∧ t.locked = false)) ∧
  (∀ (s : State), s.schState = schArmed → s.flag .sch SCH.CTRL_UNTIMED = true → s.running = true →
    s.batches.length ≤ s.sch.seqDone → s.zonesMoving = false → ∃ t, exec .untimedStepStart s = .next t ∧
      t.schState = schRunning ∧ t.sch.regime = .untimed ∧ t.locked = false ∧ t.sch.startPhase = s.clk.phase) ∧
  (∀ s : State, s.sch.regime = .untimed → s.sch.uStarted = false → s.running = true → s.streamsEnded = true →
    s.fab.be = [] → s.ltr.outQ = [] → s.ltr.retQ = [] →
    exec .untimedUStart s = .next { s.advanceTo s.tilesDone with sch := { s.sch with uStarted := true } }) ∧
  (∀ s : State, s.sch.regime = .untimed → s.sch.uStarted = true → s.running = true → s.uEnded = true →
    ∃ t, exec .untimedStepEnd s = .next t ∧ t.schState = schHeld ∧ t.sch.regime = .none ∧ t.locked = false ∧
      t.fld .sch SCH.STEP_INDEX = (s.fld .sch SCH.STEP_INDEX + 1) % 2 ^ 32)

/-- Digest and verdict: at a digest tick of a job the module offers that job's digest, and at the last one of the primary job it
waits for the verdict; the first result of the last digest tick that comes in time decides the verdict of its job, valid exactly
when counts and CRCs agree, no cause is set and nothing is missing (R20, R62, R229, R230, R318). -/
def Obligations.DigestsDecideTheVerdict : Prop :=
  (∀ (s : State) (second : Bool) (tick : Nat), s.sch.regime = .timed → s.running = true → s.nextDigest = some (second, tick) →
    let a := s.advanceTo (s.sch.startPhase + 4 * tick)
    ∃ t, exec .digestTick s = .next t ∧ t.sch.regime = .timed ∧ t.clk = a.clk ∧
      (second = false → t.sch.digested = s.sch.digested + 1 ∧ t.fab.digest = some (a.digestNow false) ∧
        t.fab.digestAt = a.clk.phase ∧ (tick = s.fld .sch SCH.LAST_DIGEST → s.clk.phase ≤ s.sch.startPhase + 4 * tick →
          s.schState = schRunning → t.schState = schVerdict)) ∧
      (second = true → t.sch.digested2 = s.sch.digested2 + 1 ∧ t.fab.digest2 = some (a.digestNow true) ∧
        t.fab.digestAt2 = a.clk.phase ∧ t.schState = s.schState)) ∧
  (∀ (s : State) (r : DigestRes) (rest : List DigestRes), takeFirst DigestRes.tick s.sch.results = some (r, rest) →
    4 * s.lastDigestOf r.second ≤ r.edge → r.tick ≤ 4 * (s.lastDigestOf r.second + 3000) →
    let ok := bitsOf r.data.toNat 63 0 = bitsOf r.data.toNat 127 64 ∧
        bitsOf r.data.toNat 191 128 = bitsOf r.data.toNat 255 192 ∧ bitsOf r.data.toNat 261 256 = 0 ∧ r.missing = false
    (r.second = false → s.sch.regime = .timed → s.sch.valid = none → ∃ t, exec .digestResult s = .next t ∧ t.sch.results = rest ∧
      (t.sch.valid = some true ↔ ok) ∧ t.sch.valid.isSome = true ∧ (t.sch.valid = some true → t.fld .sch SCH.VERDICT = 0)) ∧
    (r.second = true → s.sch.verdict2 = true → ∃ t, exec .digestResult s = .next t ∧ t.sch.results = rest ∧
      t.sch.valid = s.sch.valid ∧ t.sch.verdict2 = false ∧ (t.flag .rack RACK.STATUS_LAST2_VALID = true ↔ ok)))

/-- At the verdict tick a valid step goes to its commit; an invalid one, or one whose result has not come, discards the U streams and
is HELD, or LOADED after a STOP, an absent result counting DIGEST_LATE with cause 1, for second runnings too; the commit's end
raises the step index and COMMIT_DONE, and leads to LOADED after a STOP or with no start named, and else to ARMED for the start that
an ARM has named or that AUTO gives (R62 to R64, R230, R318). -/
def Obligations.VerdictLeadsToCommitOrHold : Prop :=
  (∀ (s : State) (tick : Nat), s.nextVerdict = some (false, tick) →
    (s.sch.valid = some true → ∃ t, exec .verdictTick s = .next t ∧ t.schState = schCommit ∧ t.fronts = s.fronts ∧
      t.clk.phase = max s.clk.phase (s.sch.startPhase + 4 * tick)) ∧
    (s.sch.valid ≠ some true → ∃ t, exec .verdictTick s = .next t ∧
      t.schState = (if s.sch.stop then schLoaded else schHeld) ∧ t.sch.regime = .none ∧ t.uEnded = true ∧
      t.sch.valid = some false ∧ t.fld .sch SCH.STEP_INDEX = s.fld .sch SCH.STEP_INDEX ∧
      (s.sch.valid = none → t.fld .sch SCH.VERDICT = 2 ∧
        t.fld .swx SWX.DIGEST_LATE_CNT = min (s.fld .swx SWX.DIGEST_LATE_CNT + 1) (2 ^ 64 - 1)))) ∧
  (∀ (s : State) (tick : Nat), s.nextVerdict = some (true, tick) → ∃ t, exec .verdictTick s = .next t ∧
    t.schState = s.schState ∧ t.sch.verdict2 = false ∧ t.flag .rack RACK.STATUS_LAST2_VALID = false ∧
    t.fld .swx SWX.DIGEST_LATE_CNT = min (s.fld .swx SWX.DIGEST_LATE_CNT + 1) (2 ^ 64 - 1)) ∧
  (∀ s : State, s.schState = schCommit → s.running = true → s.uEnded = true →
    ∃ t, exec .commitDone s = .next t ∧ t.sch.regime = .none ∧
      t.fld .sch SCH.STEP_INDEX = (s.fld .sch SCH.STEP_INDEX + 1) % 2 ^ 32 ∧
      bitOf (t.fld .sch COM.EVENT) SCH.EV_COMMIT_DONE = true ∧
      (s.sch.stop = true ∨ s.sch.next = none ∧ s.flag .sch SCH.CTRL_AUTO = false → t.schState = schLoaded ∧ t.sch.armed = none) ∧
      (∀ x, s.sch.stop = false → s.sch.next = some x → t.schState = schArmed ∧ t.sch.armed = some (x, true)) ∧
      (s.sch.stop = false → s.sch.next = none → s.flag .sch SCH.CTRL_AUTO = true → t.schState = schArmed ∧
        t.sch.armed = some (s.sch.startTick + s.fld .sch SCH.STEP_PERIOD, true)))

/-- A schedule fault is counted for its job, and the first of a step is recorded with its code, stream, tile, unit and issue tick and
with HT; later ones leave the record (R70, R72). -/
def Obligations.FirstScheduleFaultIsRecorded : Prop :=
  ∀ (s : State) (f : SFault) (w : FaultAt), w.stream < 4 → w.tile < 128 → w.unit < 16 →
    (s.schedFault false f w).fld .sch SCH.FAULT_CNT = min (s.fld .sch SCH.FAULT_CNT + 1) (2 ^ 64 - 1) ∧
    (s.schedFault true f w).fld .sch SCH.FAULT2_CNT = min (s.fld .sch SCH.FAULT2_CNT + 1) (2 ^ 64 - 1) ∧
    (s.schedFault true f w).fld .sch SCH.FAULT_CNT = s.fld .sch SCH.FAULT_CNT ∧
    (∀ second, s.flag .sch SCH.FAULT_FIRST_VALID = true →
      (s.schedFault second f w).fld .sch SCH.FAULT_FIRST = s.fld .sch SCH.FAULT_FIRST) ∧
    (∀ second, s.flag .sch SCH.FAULT_FIRST_VALID = false →
      (s.schedFault second f w).flag .sch SCH.FAULT_FIRST_VALID = true ∧
      (s.schedFault second f w).fld .sch SCH.FAULT_FIRST_CODE = f.code ∧
      (s.schedFault second f w).fld .sch SCH.FAULT_FIRST_STREAM = w.stream ∧
      (s.schedFault second f w).fld .sch SCH.FAULT_FIRST_TILE = w.tile ∧
      (s.schedFault second f w).fld .sch SCH.FAULT_FIRST_UNIT = w.unit ∧
      (s.schedFault second f w).fld .sch SCH.FAULT_FIRST_ISSUE = w.issue % 2 ^ 32 ∧
      (s.schedFault second f w).fld .sch SCH.FAULT_TIME = s.ht)

/-- Feeders: a controller refills the quarter of a ring that waits for it, in its window in a timed step and as it empties in an
untimed one; a run whose quarter has not come when its first slot arrives is counted at its port, is a STREAM_UNDERRUN of the job of
its channel, and closes the port to best-effort heads; the pass over the next batch of sequences is complete by its bound, by step
start where the step is timed (R57, R220, R301, R302, R326). -/
def Obligations.FeedersComplete : Prop :=
  (∀ (s : State) (n : Fin 521) (k : Fin 8) (ecc : List EccErr) (q : Waiting), s.running = true →
    s.waitingAt n.val k.val (s.front n.val).waiting = some q →
    (∀ x, s.sch.regime = .timed → s.refillWindow k.val winFeed n.val q.since (s.front n.val).used = some x →
      exec (.feedRefill n ⟨k, ecc⟩) s = .next ((s.advanceTo (s.sch.startPhase + 4 * x.start)).serveQuarter n.val winFeed n.val k.val ecc
        (s.front n.val) q x.start)) ∧
    (s.sch.regime = .untimed → exec (.feedRefill n ⟨k, ecc⟩) s =
      .next (s.serveQuarter n.val winFeed n.val k.val ecc (s.front n.val) q s.stepTick))) ∧
  (∀ (s : State) (n : Fin 32) (k : Fin 8) (ecc : List EccErr) (q : Waiting), s.running = true →
    let key := runKey n.val
    let f : Front := { s.front key with waiting := s.runWaiting n.val (s.front key) }
    s.waitingAt key k.val f.waiting = some q →
    (∀ x, s.sch.regime = .timed → s.refillWindow k.val winRuns n.val q.since f.used = some x →
      exec (.runsRefill n ⟨k, ecc⟩) s =
        .next ((s.advanceTo (s.sch.startPhase + 4 * x.start)).serveQuarter key winRuns n.val k.val ecc f q x.start)) ∧
    (s.sch.regime = .untimed →
      exec (.runsRefill n ⟨k, ecc⟩) s = .next (s.serveQuarter key winRuns n.val k.val ecc f q s.stepTick))) ∧
  (∀ (s : State) (n : Fin 32) (i : Nat), s.running = true → s.sch.regime = .timed →
    let f := s.front (runKey n.val)
    let slot := fun j => s.sch.startPhase + (s.run n.val j).start * outPeriod n.val
    let late := fun j => ∀ q ∈ f.usable, q.1 = j / quarterRuns → slot j < q.2
    f.ptr ≤ i → i < f.len → late i → (∀ j, f.ptr ≤ j → j < i → ¬late j) →
    ∃ t, exec (.runUnderrun n) s = .next t ∧ n.val ∈ t.fab.closed ∧ (t.front (runKey n.val)).ptr = i + 1 ∧
      t.clk.phase = max s.clk.phase (slot i) ∧
      (let second := s.chanSecond (BitVec.ofNat 16 (s.run n.val i).channel)
       t.fld .sch SCH.FAULT_CNT = min (s.fld .sch SCH.FAULT_CNT + if second then 0 else 1) (2 ^ 64 - 1) ∧
       t.fld .sch SCH.FAULT2_CNT = min (s.fld .sch SCH.FAULT2_CNT + if second then 1 else 0) (2 ^ 64 - 1)) ∧
      (∀ p : Fin 12, p.val = n.val → t.fld (.lnk p) LNK.RUN_UNDERRUN_CNT =
        min (s.fld (.lnk p) LNK.RUN_UNDERRUN_CNT + 1) (2 ^ 64 - 1))) ∧
  (∀ (s : State) (tick : Nat) (b : Batch), s.running = true → s.nextStart = some tick →
    s.batches[s.sch.seqDone]? = some b →
    (s.flag .sch SCH.CTRL_UNTIMED = true ∨ s.seqEnd s.sch.seqDone ≤ s.phaseOfTick tick) → ∃ t, exec .seqPass s = .next t ∧
      t.sch.seqDone = s.sch.seqDone + 1 ∧ t.clk.phase = max s.clk.phase (s.seqEnd s.sch.seqDone) ∧
      t = (({ s with sch := { s.sch with seqDone := s.sch.seqDone + 1 } } : State).advanceTo (s.seqEnd s.sch.seqDone)).passBatch
        s.sch.seqDone b)

/-! The hydrometer. -/

/-- The hydrometer's events: a tap reaches its record 256 ns after its time and touches no other record (R288); at the record's time
after a step end one record is written for each enabled tensor, and the tensor's counts start again (R289); the snapshot tick writes
once in a step the entries of the tensors with AUTO or NOISE, visible 1,000 + 16 × entries ns later (R292); a valid verdict starts
the selection, which makes one pending for each AUTO tensor (R293); a write of a configuration entry is stored where it is allowed,
counted where it is refused, and ignored while the lock holds, and one of a pending selection is stored (R283, R294). -/
def Obligations.HydrometerCompletes : Prop :=
  (∀ (s : State) (t : Tap) (rest : List Tap), firstTap s.hyd.taps = some (t, rest) → ∃ u, exec .hydTapEvent s = .next u ∧
    u.hyd.taps = rest ∧ u.clk.phase = max s.clk.phase (t.at_ + 1024) ∧
    smGet HydRec.initial u.hyd.recs t.tensor = (smGet HydRec.initial s.hyd.recs t.tensor).add (s.hydEntry t.tensor) t.data ∧
    (∀ id, id ≠ t.tensor → smGet HydRec.initial u.hyd.recs id = smGet HydRec.initial s.hyd.recs id) ∧
    (s.due = [] → u.mem = s.mem)) ∧
  (∀ (s : State) (d : RecordDue), s.sch.recordDue = some d → ∃ u, exec .stepRecordWrite s = .next u ∧
    u.sch.recordDue = none ∧ u.clk.phase = max s.clk.phase (s.recordTime d) ∧
    (∀ id, s.hydIds hEnable = [id] →
      let r := smGet HydRec.initial (s.settleTaps d.at_).hyd.recs id
      smGet HydRec.initial u.hyd.recs id = r.cleared ∧
      ((∀ i, i < 512 → (interGran ((s.recordRange id).1 + i)).isSome = true) → u.peek .inter (s.recordRange id).1 512 =
        stepRecord (s.hydEntry id) id d.valid d.index ((smGet none d.sel id).getD (BitVec.ofNat 4 (hCeil (s.hydEntry id)), 127)) r))) ∧
  (∀ s : State, s.sch.regime ≠ .none → s.hyd.snapped = false → s.fld .hyd HYD.SNAP_TICK ≠ 0 →
    let t := s.sch.startPhase + 4 * s.fld .hyd HYD.SNAP_TICK
    ∃ u, exec .snapshot s = .next u ∧ u.hyd.snapped = true ∧ u.clk.phase = max s.clk.phase t ∧ u.hyd.selActive = s.hyd.selActive ∧
      (∀ id, s.hydIds (fun e => hAuto e || hNoise e) = [id] → (interGran (s.snapRange id).1).isSome = true → s.due = [] →
        (u.advanceTo (max (t + 4 * 1016) (s.serviceFrom t [s.snapRange id]))).peek .inter (s.snapRange id).1 256 =
          snapEntry (smGet HydRec.initial (s.settleTaps t).hyd.recs id))) ∧
  (∀ s : State, s.sch.valid = some true → s.fld .hyd HYD.SNAP_TICK ≠ 0 → s.hyd.readDone = none →
    ∃ u, exec .formatSelection s = .next u ∧ u.hyd.readDone.isSome = true ∧ u.hyd.selActive = s.hyd.selActive ∧
      u.mem.hbm = s.mem.hbm ∧ (∀ id, s.hydIds hAuto = [id] →
        let v := leNat (s.readMem false 0 .inter [] (s.redRange id).1 256).1.data
        smGet none u.hyd.selPending id = some ((selectFormat (s.hydEntry id) ((List.range 32).map fun k => elemAt 32 v k)
          (valueOf fFP32 (elemAt 32 v 32))).getD (s.selection id)))) ∧
  (∀ (s : State) (w : RegW), s.reaches .hyd = true →
    let v := BitVec.ofNat 64 (mergeBits s.hydTabData.toNat (wData w) (Half.mask w.half))
    (s.fld .hyd HYD.TAB_SEL_TABLE = 0 → s.locked = false → hydReject (s.fld .glb GLB.FEAT_ACTIVE) v = false →
      ∃ u, exec (.hydTabWrite w) s = .next u ∧ u.hydEntry (s.fld .hyd HYD.TAB_SEL_INDEX) = v ∧
      (∀ id, id ≠ s.fld .hyd HYD.TAB_SEL_INDEX → u.hydEntry id = s.hydEntry id) ∧ u.regs = s.regs) ∧
    (s.fld .hyd HYD.TAB_SEL_TABLE = 0 → s.locked = false → hydReject (s.fld .glb GLB.FEAT_ACTIVE) v = true →
      exec (.hydTabWrite w) s = .next (s.tally .hyd HYD.TABLE_REJECT_CNT HYD.EV_TABLE_REJECT)) ∧
    (s.fld .hyd HYD.TAB_SEL_TABLE = 0 → s.locked = true → ∃ u, exec (.hydTabWrite w) s = .next u ∧ u.hyd = s.hyd ∧
      u.fld .sch SCH.LOCK_WRITE_CNT = min (s.fld .sch SCH.LOCK_WRITE_CNT + 1) (2 ^ 64 - 1)) ∧
    (s.fld .hyd HYD.TAB_SEL_TABLE ≠ 0 → s.fld .hyd HYD.TAB_SEL_TABLE ≠ 2 → exec (.hydTabWrite w) s = .next s) ∧
    (s.fld .hyd HYD.TAB_SEL_TABLE = 2 → ∃ u, exec (.hydTabWrite w) s = .next u ∧ u.hyd.config = s.hyd.config ∧
      smGet none u.hyd.selPending (s.fld .hyd HYD.TAB_SEL_INDEX) = (if bitOf v.toNat 16 then
        some (BitVec.ofNat 4 v.toNat, BitVec.ofNat 8 (bitsOf v.toNat 15 8)) else none)))

/-- A core reset, module reset and power-on reset each clear every record, snapshot state and selection of the hydrometer and every
counter of its page, and closing the negotiation leaves the table (R298). -/
def Obligations.ResetsClearTheHydrometer : Prop :=
  (∀ s : State, s.coreClear.hyd = Hyd.initial ∧ s.moduleClear.hyd = Hyd.initial ∧ s.powerOn.hyd = Hyd.initial ∧
    ∀ off, 0x040 ≤ off → off < 0x100 → s.coreClear.reg (pageBase .hyd + off) = 0 ∧
      s.moduleClear.reg (pageBase .hyd + off) = 0 ∧ s.powerOn.reg (pageBase .hyd + off) = 0) ∧
  (∀ (s : State) (w : RegW), s.stage = stageReady → s.deaf = false → s.host.d3hot = false →
    wHits w GLB.CTRL_CORE_RESET = true → wHits w GLB.CTRL_MODULE_RESET = false → wHits w GLB.CTRL_FABRIC_RESET = false →
    ∃ t, exec (.coreReset w) s = .next t ∧ t.hyd = Hyd.initial) ∧
  (∀ (s : State) (w : RegW), ∃ t, exec (.featClose w) s = .next t ∧ t.hyd.config = s.hyd.config)

/-! Instructions of the tile fronts. -/

/-- ARR_LOAD, ARR_STREAM and ARR_DRAIN complete where they issue cleanly, in a timed step as in an untimed one, loads and streams in
the array's state at their time, after a load that found no room has been suppressed; and SHADOW_COLLISION is that suppression: the
incoming block goes, the block held is marked POISON (R97 to R106). -/
def Obligations.ArrayRowsComplete : Prop :=
  (∀ (i : TileIssue) (s : State), let s1 := s.arrayAt i.tile (s.sch.startPhase + issueStamp i.word)
    let j := loadJob i (s.descriptor i.tile.val i.word.desc) s1
    s1.cleanIssue i j = true → exec (.arrLoad i) s = .next (s1.issued i j)) ∧
  (∀ (i : TileIssue) (s : State) (t : Phase), t = (if s.sch.regime = .timed then s.sch.startPhase + issueStamp i.word
      else max s.clk.phase (((s.arr i.tile).candidate.map Block.fullAt).getD 0)) →
    let s1 := s.arrayAt i.tile t
    let j := streamJob i (s.descriptor i.tile.val i.word.desc) t s1
    s1.cleanIssue i j = true → exec (.arrStream i) s = .next (s1.issued i j)) ∧
  Completes .arrDrain drainJob ∧
  (∀ (t : Fin 128) (s : State) (h b : Block), s.sch.regime = .timed → (s.arr t).held = some h → (s.arr t).incoming = some b →
    b.issuedAt + 8 * s.aclk t < s.clk.phase → ∃ u, exec (.shadowCollision t) s = .next u ∧
      (u.arr t).incoming = none ∧ (u.arr t).held = some { h with poison := true } ∧ (u.arr t).active = (s.arr t).active ∧
      bitOf (u.fld (.tarr t) COM.EVENT) TARR.EV_SHADOW_COLLISION = true ∧ u.mem = s.mem ∧ u.tiles.spad = s.tiles.spad)

/-- The seven instructions of the mill (R126 to R145) and the 49 of the vector unit (R162 to R181) complete where they issue cleanly;
and a MALFORMED instruction of a tile front in a timed step, whatever its unit, is suppressed under its schedule fault (R70), stated
for one row of every unit. -/
def Obligations.MillAndVectorRowsComplete : Prop :=
  (Completes .decode decodeJob ∧ Completes .decodeCompact decodeCompactJob ∧ Completes .scan scanJob ∧
  Completes .encode encodeJob ∧ Completes .encodeCoo encodeCooJob ∧ Completes .encode24 encode24Job ∧
  Completes .encodeTp24 encodeTp24Job) ∧
  (Completes .copy (vecJob copyOp) ∧ Completes .add (vecJob addOp) ∧ Completes .sub (vecJob subOp) ∧
  Completes .mul (vecJob mulOp) ∧ Completes .fma (vecJob fmaOp) ∧ Completes .div (vecJob divOp) ∧
  Completes .max (vecJob maxOp) ∧ Completes .min (vecJob minOp) ∧ Completes .abs (vecJob absOp) ∧
  Completes .neg (vecJob negOp) ∧ Completes .fill (vecJob fillOp) ∧ Completes .exp2 (vecJob (fnOp 0 .exp2)) ∧
  Completes .exp (vecJob (fnOp 1 .exp)) ∧ Completes .log2 (vecJob (fnOp 2 .log2)) ∧
  Completes .recip (vecJob (fnOp 3 .recip)) ∧ Completes .rsqrt (vecJob (fnOp 4 .rsqrt)) ∧
  Completes .sqrt (vecJob (fnOp 5 .sqrt)) ∧ Completes .tanh (vecJob (fnOp 6 .tanh)) ∧
  Completes .sigmoid (vecJob (fnOp 7 .sigmoid)) ∧ Completes .silu (vecJob (fnOp 8 .silu)) ∧
  Completes .geluTanh (vecJob (fnOp 9 .gelu)) ∧ Completes .sin (vecJob (fnOp 10 .sin)) ∧
  Completes .cos (vecJob (fnOp 11 .cos)) ∧ Completes .rotary (vecJob rotaryOp)) ∧
  (Completes .rsum (vecJob (reduceOp 0 combSum)) ∧ Completes .rmax (vecJob (reduceOp 1 combMax)) ∧
  Completes .rmin (vecJob (reduceOp 2 combMin)) ∧ Completes .rsumsq (vecJob (reduceOp 3 combSumsq)) ∧
  Completes .ramax (vecJob (reduceOp 4 combAmax)) ∧ Completes .scanSum (vecJob (scanOp 8 combSum)) ∧
  Completes .scanMax (vecJob (scanOp 9 combMax)) ∧ Completes .scanMin (vecJob (scanOp 10 combMin)) ∧
  Completes .scanLin (vecJob scanLinOp) ∧ Completes .softmax (fun i => vecJob (softmaxOp i) i) ∧
  Completes .smState (vecJob smStateOp) ∧ Completes .smMerge (vecJob smMergeOp) ∧
  Completes .smRescale (vecJob smRescaleOp) ∧ Completes .smFinal (fun i => vecJob (smFinalOp i) i) ∧
  Completes .smBwd (vecJob smBwdOp) ∧
  Completes .rmsnorm (fun i => vecJob (normOp 0 false (i.word.uspec.getLsbD 0)) i) ∧
  Completes .layernorm (fun i => vecJob (normOp 1 true (i.word.uspec.getLsbD 0)) i) ∧
  Completes .topk (vecJob topkOp) ∧ Completes .sortByNnz (vecJob sortByNnzOp) ∧ Completes .gather (vecJob gatherOp) ∧
  Completes .scatter (vecJob (scatterOp 1 false)) ∧ Completes .scatterAdd (vecJob (scatterOp 2 true)) ∧
  Completes .random (vecJob randomOp) ∧ Completes .dropout (fun i => vecJob (dropoutOp i) i) ∧
  Completes .spdInverse (fun i => vecJob (spdInverseOp i) i)) ∧
  (Malformed .arrDrain drainJob ∧ Malformed .decode decodeJob ∧ Malformed .add (vecJob addOp) ∧
  Malformed .rsum (vecJob (reduceOp 0 combSum)) ∧ Malformed .gather (vecJob gatherOp) ∧
  Malformed .xferWrite xferWriteJob ∧ Malformed .handoff handoffJob)

/-- The five instructions of the XFER engine complete where they issue cleanly, timed or not, BUF_READ in the cooperage's state at its
time (R438 to R443). -/
def Obligations.XferRowsComplete : Prop :=
  (∀ ecc, Completes (fun i => .xferRead i ecc) (fun i => xferReadJob i ecc)) ∧ Completes .xferWrite xferWriteJob ∧
  Completes .xferSend xferSendJob ∧ Completes .handoff handoffJob ∧
  (∀ (i : TileIssue) (ecc : List EccErr) (s : State),
    let s1 := (if s.sch.regime = .timed then s.advanceTo (s.stampPhase i) else s).coopCycle
    s1.cleanIssue i (bufReadJob i ecc s1) = true → exec (.bufRead i ecc) s = .next (s1.issued i (bufReadJob i ecc s1)))

/-- A vector, mill or array instruction, with no act of another unit due, touches no byte of HBM, no descriptor, no scheduler image and
no other tile's scratchpad, whatever its outcome, timed or not. -/
def Obligations.TileRowsLeaveOtherStores : Prop :=
  ∀ (c : Instr) (i : TileIssue), c ∈ [.add i, .fma i, .exp i, .rsum i, .softmax i, .topk i, .scatter i, .decode i, .encode i,
      .arrDrain i] →
    ∀ s t : State, s.due = [] → exec c s = .next t → t.mem.hbm = s.mem.hbm ∧ t.tiles.desc = s.tiles.desc ∧ t.sch.img = s.sch.img ∧
      t.kln = s.kln ∧ t.ltr = s.ltr ∧ t.rack = s.rack ∧
      ∀ u : Fin 128, u ≠ i.tile → ∀ a, a < spadSize → smGet 0 t.tiles.spad (spadKey u.val a) = smGet 0 s.tiles.spad (spadKey u.val a)

/-! Number formats. -/

/-- INT4, INT8, INT16 and INT32 are two's complement, each integer of their ranges having its one code; and an INT8 code i of an MX
block has the value i × 2^-6 under the scale 1 (R80). -/
def Obligations.IntegersAreTwosComplement : Prop :=
  (∀ (f w : Nat), (f, w) ∈ [(fINT4, 4), (fINT8, 8), (fINT16, 16), (fINT32, 32)] → ∀ x : Int,
    -(2 ^ (w - 1) : Int) ≤ x → x ≤ 2 ^ (w - 1) - 1 →
      unsgn w x < 2 ^ w ∧ valueOf f (unsgn w x) = fpInt x 0 ∧ ∀ c, c < 2 ^ w → valueOf f c = fpInt x 0 → c = unsgn w x) ∧
  (∀ (ts : Fp) (x : Int), -128 ≤ x → x ≤ 127 → elemValue 1 fINT8 ts 0x7F (unsgn 8 x) = fpInt x (-6))

/-- Rounding gives every finite code of every format back, as its own value: no code is read in one place and written in another
(R77, R80 to R82, R89); stochastic rounding does so too, whatever its random number (R94); and rounding into T2 never writes code
0b10, which reads as 0 (R81). -/
def Obligations.RoundingKeepsCodes : Prop :=
  (∀ (f code : Nat) (sat : Bool), f ≤ 14 → code < 2 ^ fmtWidth f → (f = fT2 → code ≠ 2) → (valueOf f code).isFin = true →
    (rne f sat (valueOf f code)).code = code) ∧
  (∀ (f code r : Nat), f ≤ 7 → code < 2 ^ fmtWidth f → (valueOf f code).isFin = true → (sr f (valueOf f code) r).code = code) ∧
  valueOf fT2 2 = fpZero ∧ (∀ (x : Fp) (sat : Bool), (rne fT2 sat x).code ≠ 2)

/-! HBM and its windows. -/

/-- The interleaved map (R322): the granule of an address below 384 GiB, one granule of the 512 pseudo-channels for each granule of
addresses and no address for none; and none at or beyond 384 GiB.  The stack-local map (R323) is a bijection onto the granules of
its own stack, defined below 48 GiB; the worked example of R324 names one granule both ways. -/
def Obligations.AddressMapsAreBijections : Prop :=
  (∀ a, a < 384 * 2 ^ 30 → interGran a =
    some (physGran (a / 256 % 512 ^^^ (bitsOf (a / 256) 17 9 ^^^ bitsOf (a / 256) 26 18 ^^^ bitsOf (a / 256) 30 27)) (a / 256 / 512))) ∧
  (∀ a, 384 * 2 ^ 30 ≤ a → interGran a = none) ∧
  (∀ a b g, interGran a = some g → interGran b = some g → a / 256 = b / 256) ∧
  (∀ pc o, pc < 512 → o < granPerPc → ∃ a, interGran a = some (physGran pc o) ∧ granPc (physGran pc o) = pc ∧
    granIdx (physGran pc o) = o) ∧
  (∀ (k : Fin 8) a, a < 48 * 2 ^ 30 → localGran k.val a = some (physGran (64 * k.val + (a / 256 % 64 ^^^ (bitsOf (a / 256) 11 6 ^^^
    bitsOf (a / 256) 17 12 ^^^ bitsOf (a / 256) 23 18 ^^^ bitsOf (a / 256) 27 24))) (a / 256 / 64))) ∧
  (∀ (k : Fin 8) a g, localGran k.val a = some g → granStack g = k.val ∧ a < 48 * 2 ^ 30) ∧
  (∀ (k : Fin 8) a, 48 * 2 ^ 30 ≤ a → localGran k.val a = none) ∧
  (∀ (k : Fin 8) a b g, localGran k.val a = some g → localGran k.val b = some g → a / 256 = b / 256) ∧
  (∀ (k : Fin 8) pc o, pc / 64 = k.val → o < granPerPc → ∃ a, localGran k.val a = some (physGran pc o)) ∧
  interGran 0x0000_1234_5600 = some (physGran 328 2330) ∧ localGran 5 0x0246_B600 = some (physGran 328 2330)

/-- A write of bytes that all lie in their window and that is seen at once is read back from there; every other byte of that window
stays as it was, and so does every byte of HBM whose granule the write does not touch; a granule written whole takes the mark it was
written with, and counters apart nothing else changes (R324, R329).  A write to be seen later leaves memory as it is until its time;
then, with nothing else due, it is read back (R68). -/
def Obligations.WrittenBytesReadBack : Prop :=
  ∀ (s : State) (edge : Nat) (w : Win) (a : Nat) (data : List Byte) (marks : List Bool) (till : Phase),
    (∀ i, i < data.length → (w.gran (a + i)).isSome = true) →
    let t := s.writeMem edge w a data marks till
    (till ≤ s.clk.phase →
      t.peek w a data.length = data ∧
      (∀ b, (b < a ∨ a + data.length ≤ b) → (w.gran b).isSome = true → hbmByte t.mem.hbm w b = hbmByte s.mem.hbm w b) ∧
      (∀ key, (∀ i, i < data.length → w.gran (a + i) ≠ some (key / 256)) →
        smGet (0 : Byte) t.mem.hbm key = smGet (0 : Byte) s.mem.hbm key) ∧
      (a % 256 = 0 → data.length = 256 → ∀ b, marks = [b] → t.granPoison w a = b) ∧
      t = { s with mem := { s.mem with hbm := t.mem.hbm, poison := t.mem.poison }, regs := t.regs }) ∧
    (s.clk.phase < till →
      t = { s with due := t.due } ∧
      (s.due = [] → (t.advanceTo till).peek w a data.length = data ∧ (t.advanceTo till).clk.phase = till))

/-- Windows: outside timed steps a controller that serves takes its whole part of the host's write buffer at once and reads its
part of every waiting read, and in one it does so in its next SERVICE window, three granules of a pseudo-channel in each 16 ns
less what other windows moved in them, after the records and sequence passes that come first (R326, R327, R331); the records of
the lauter engine become visible 80 ns after its window, outside timed steps at once (R249); a POOL window opens at its START.
Refresh: each REF window takes 48 of a bank's 12,288 rows, so that the 256th comes back to the first row, and counts; a refresh
management window counts; outside timed steps both are dated when they were due; neither touches a byte of HBM (R328). -/
def Obligations.WindowsAndRefreshComplete : Prop :=
  ((∀ (s : State) (k : Fin 8) (ecc : List EccErr), s.sch.regime ≠ .timed → s.memServes k.val = true → ∃ t,
    exec (.memRequestServe ⟨k, ecc⟩) s = .next t ∧
    t.mem.wbuf = s.mem.wbuf.filter (fun b => stackOf b.1 ≠ some k.val) ∧ t.clk = s.clk ∧
    (∀ r ∈ t.mem.reads, ∀ p ∈ r.owed, stackOf p.1 ≠ some k.val)) ∧
  (∀ (s : State) (k : Fin 8) (ecc : List EccErr) (a : Nat) (b : Byte), s.sch.regime ≠ .timed → s.memServes k.val = true →
    s.mem.wbuf = [(a, b)] → stackOf a = some k.val → s.host.lq = [] →
    ∃ t, exec (.memRequestServe ⟨k, ecc⟩) s = .next t ∧ hbmByte t.mem.hbm .inter a = b) ∧
  (∀ (s : State) (k : Fin 8) (ecc : List EccErr), s.sch.regime ≠ .timed → s.memServes k.val = false →
    exec (.memRequestServe ⟨k, ecc⟩) s = .next s) ∧
  (∀ (s : State) (k : Fin 8) (ecc : List EccErr) (w : MemWin), s.sch.regime = .timed → s.nextWindow k.val winService 0 = some w →
    ∃ u, u = (s.serviceFirst (s.sch.startPhase + 4 * (w.start + w.len))).toTick (w.start + w.len) ∧
      exec (.serviceWindow ⟨k, ecc⟩) s = .next (u.serveHost ⟨some (3 * w.len / 16), u.windowMoved w, ecc, 0⟩ k.val)) ∧
  (∀ (s : State) (k : Fin 8) (w : MemWin), s.sch.regime = .timed → s.nextWindow k.val winLauter 0 = some w → ∃ t,
    exec (.lauterWindow k) s = .next t ∧
    t = (s.toTick (w.start + w.len + 80)).showRecords k.val (s.sch.startPhase + 4 * w.start) ∧
    t.clk.phase = max s.clk.phase (s.sch.startPhase + 4 * (w.start + w.len + 80)) ∧
    t.ltr.unseen = s.ltr.unseen.filter fun u => !u.shownBy k.val (s.sch.startPhase + 4 * w.start)) ∧
  (∀ (s : State) (k : Fin 8) (p : Phase) (a : Nat) (data : List Byte), s.sch.regime ≠ .timed → p ≤ s.clk.phase →
    (∀ i, i < data.length → (interGran (a + i)).isSome = true) → stackOf a = some k.val →
    s.ltr.unseen = [⟨p, none, a, data, false⟩] →
    ∃ t, exec (.lauterWindow k) s = .next t ∧ t.ltr.unseen = [] ∧ t.peek .inter a data.length = data) ∧
  (∀ (s : State) (k : Fin 8) (pool : Fin 16) (w : MemWin), s.sch.regime = .timed →
    s.nextWindow k.val winPool pool.val = some w → ∃ t, exec (.poolWindow k pool) s = .next t ∧
      t.clk.phase = max s.clk.phase (s.sch.startPhase + 4 * w.start) ∧ s.DueOnly t)) ∧
  ((∀ (s : State) (k : Fin 8), s.fld (.mem k) MEM.STATUS_STATE = memReady →
    s.maintenanceDue k.val winRef 500000 (smGet 0 s.mem.refAt k.val) = true → ∃ t, exec (.refWindow k) s = .next t ∧
    smGet 0 t.mem.refreshRow k.val = (smGet 0 s.mem.refreshRow k.val + 48) % 12288 ∧
    t.fld (.mem k) MEM.REF_CNT = min (s.fld (.mem k) MEM.REF_CNT + 1) (2 ^ 64 - 1) ∧
    smGet 0 t.mem.refAt k.val = s.maintenanceAt 500000 (smGet 0 s.mem.refAt k.val) ∧
    t = { s with regs := t.regs, mem := { s.mem with refreshRow := t.mem.refreshRow, refAt := t.mem.refAt } }) ∧
  (∀ (s : State) (k : Fin 8), s.fld (.mem k) MEM.STATUS_STATE = memReady →
    s.maintenanceDue k.val winRfm 2000000 (smGet 0 s.mem.rfmAt k.val) = true → ∃ t, exec (.rfmWindow k) s = .next t ∧
    t.fld (.mem k) MEM.RFM_CNT = min (s.fld (.mem k) MEM.RFM_CNT + 1) (2 ^ 64 - 1) ∧
    smGet 0 t.mem.rfmAt k.val = s.maintenanceAt 2000000 (smGet 0 s.mem.rfmAt k.val) ∧
    t = { s with regs := t.regs, mem := { s.mem with rfmAt := t.mem.rfmAt } }))

/-! Links and switches. -/

/-- A codeword at an ADMITTED port whose arrival is on its grid: of its ten positions, each cell that passes its CRC-16 is counted and
stands at the switch's input 64 ns and the port's delay after the codeword's launch edge, in its own slot; each that fails goes there
as a lost slot and is counted as a drop; the code's corrected symbols are counted.  Off the grid no cell goes further, and the good
ones are counted as discarded.  Four codewords in a row that the code cannot correct take the port DOWN.  A port that is up and not
ADMITTED takes no cell; one that is not up takes nothing (R207 to R211, R233).  FTYPE 1 begins a time symbol, and the ninth
continuation after it delivers the symbol as of its first codeword (R208). -/
def Obligations.CodewordsDeliverCells : Prop :=
  (∀ (s : State) (p : Fin 12) (cw : Codeword) (e : Nat), s.portState p.val = portAdmitted → cw.symErr ≤ 6 →
    s.launchEdge p.val (BitVec.ofNat 80 cw.arrival) = some e →
    let fails := fun (b : SlotBits) => decide (b.crc.toNat ≠ cellCrc16 b.cell.toNat)
    let cells := (cw.slots.take 10).filterMap id
    ∃ t, exec (.codewordRx p cw) s = .next t ∧
      t.fab.flight = s.fab.flight ++ ((cw.slots.take 10).zipIdx.filterMap fun x => x.1.map fun b =>
        (⟨s.phaseOfHt (e + 4 * (64 + s.portDelayNs p.val) + x.2 * outPeriod p.val), edgeSw (portEast p.val), p.val, 0,
          cellOf b.cell.toNat, goalOf (cellOf b.cell.toNat), fails b⟩ : Flight)) ∧
      t.fld (.lnk p) LNK.CELL_RX_CNT = min (s.fld (.lnk p) LNK.CELL_RX_CNT + cells.countP (fun b => !fails b)) (2 ^ 64 - 1) ∧
      t.fld (.lnk p) LNK.CRC_DROP_CNT = min (s.fld (.lnk p) LNK.CRC_DROP_CNT + cells.countP fails) (2 ^ 64 - 1) ∧
      t.fld (.lnk p) LNK.FEC_CORR_CNT = min (s.fld (.lnk p) LNK.FEC_CORR_CNT + cw.symErr) (2 ^ 64 - 1)) ∧
  (∀ (s : State) (p : Fin 12) (cw : Codeword), s.portState p.val = portAdmitted → cw.symErr ≤ 6 →
    s.launchEdge p.val (BitVec.ofNat 80 cw.arrival) = none →
    ∃ t, exec (.codewordRx p cw) s = .next t ∧ t.fab.flight = s.fab.flight ∧
      t.fld (.lnk p) LNK.DESKEW_DROP_CNT = min (s.fld (.lnk p) LNK.DESKEW_DROP_CNT +
        ((cw.slots.take 10).filterMap id).countP (fun b => b.crc.toNat = cellCrc16 b.cell.toNat)) (2 ^ 64 - 1)) ∧
  (∀ (s : State) (p : Fin 12) (cw : Codeword), s.portUp p.val = true → 6 < cw.symErr →
    ∃ t, exec (.codewordRx p cw) s = .next t ∧
      t.fld (.lnk p) LNK.FEC_UNCORR_CNT = min (s.fld (.lnk p) LNK.FEC_UNCORR_CNT + 1) (2 ^ 64 - 1) ∧
      t.portState p.val = (if 3 ≤ smGet 0 s.fab.badRun p.val then portDown else s.portState p.val)) ∧
  (∀ (s : State) (p : Fin 12) (cw : Codeword), s.portUp p.val = true → s.portState p.val ≠ portAdmitted → cw.symErr ≤ 6 →
    exec (.codewordRx p cw) s =
      .next ((s.fecVerdict p cw.symErr).takeTimePart p.val cw.ftype.toNat cw.tdata (BitVec.ofNat 80 cw.arrival))) ∧
  (∀ (s : State) (p : Fin 12) (cw : Codeword), s.portUp p.val = true → cw.symErr ≤ 6 → cw.ftype = 1 →
    ∃ t, exec (.codewordRx p cw) s = .next t ∧ (t.htPort p.val).symParts = 1 ∧
      (t.htPort p.val).symBits.toNat = cw.tdata.toNat ∧ (t.htPort p.val).symAt = BitVec.ofNat 80 cw.arrival) ∧
  (∀ (s : State) (p : Fin 12) (cw : Codeword), s.portUp p.val = true → s.portState p.val ≠ portAdmitted → cw.symErr ≤ 6 →
    cw.ftype = 2 → (s.htPort p.val).symParts = 9 →
    exec (.codewordRx p cw) s = .next (((s.fecVerdict p cw.symErr).setHtPort p.val { s.htPort p.val with symParts := 0 }).takeSymbol
      p.val (((s.htPort p.val).symBits ||| BitVec.ofNat 260 (cw.tdata.toNat * 2 ^ 234)).toNat % 2 ^ 256) (s.htPort p.val).symAt)) ∧
  (∀ (s : State) (p : Fin 12) (cw : Codeword), s.portUp p.val = false → exec (.codewordRx p cw) s = .next s)

/-- A switch takes the first scheduled head, body cell or best-effort head that stands at an input once the cells that come before it
have gone (R223); with none before it, the cell leaves its input and is taken as its kind is: a head that has already been deflected
is counted and discarded, a body cell without a path is stray and counted, and a best-effort head that finds no output is counted
and dropped (R222, R224, R225).  A best-effort message enters its router at a cycle edge, a cell each MCLK cycle, where its first
output has room for all of it, and waits where it has not (R225).  The REDUCE cells of a channel that have one slot edge are combined
there (R226). -/
def Obligations.SwitchCommandsComplete : Prop :=
  (∀ (s : State) (sw : Sw) (i : Fin 32) (loss : Nat) (f : Flight),
    (s.firstFlight (fun f => f.isAt sw i && f.isHead) = some f → exec (.headCell sw i loss) s = .next (s.takeInOrder f loss)) ∧
    (s.firstFlight (fun f => f.isAt sw i && f.isBody) = some f → exec (.bodyCell sw i loss) s = .next (s.takeInOrder f loss)) ∧
    (s.firstFlight (fun f => f.isAt sw i && f.isBeHead) = some f → exec (.beHeadCell sw i loss) s = .next (s.takeInOrder f loss))) ∧
  (∀ (s : State) (sw : Sw) (i : Fin 32) (loss : Nat) (f : Flight), s.cellsBefore f = [] →
    (s.advanceTo f.at_).fab.flight.find? f.same = some f →
    let s1 := s.advanceTo f.at_
    let s2 := { s1 with fab := { s1.fab with flight := s1.fab.flight.filter fun x => !f.same x } }
    let u := ((s2.advanceTo f.at_).settle f.at_).release f.sw f.input f.lane
    (s.firstFlight (fun f => f.isAt sw i && f.isHead) = some f →
      exec (.headCell sw i loss) s = .next (s2.headAt f loss) ∧
      (f.cell.deflected = true → ∃ t, exec (.headCell sw i loss) s = .next t ∧ t.out = u.out ∧ t.fab.flight = u.fab.flight ∧
        t.fld .swx SWX.DEFLECT_DISCARD_CNT = min (u.fld .swx SWX.DEFLECT_DISCARD_CNT + 1) (2 ^ 64 - 1))) ∧
    (s.firstFlight (fun f => f.isAt sw i && f.isBody) = some f →
      exec (.bodyCell sw i loss) s = .next (s2.bodyAt f loss) ∧
      ((s2.advanceTo f.at_).latchAt f.sw f.input f.lane = none → f.lost = false → ∃ t, exec (.bodyCell sw i loss) s = .next t ∧
        t.fld .swx SWX.STRAY_BODY_CNT = min ((s2.advanceTo f.at_).fld .swx SWX.STRAY_BODY_CNT + 1) (2 ^ 64 - 1) ∧
        t.out = s2.out ∧ t.fab.flight = (s2.advanceTo f.at_).fab.flight)) ∧
    (s.firstFlight (fun f => f.isAt sw i && f.isBeHead) = some f →
      exec (.beHeadCell sw i loss) s = .next (s2.beHeadAt f loss) ∧
      (((u.beWants f.sw f.cell).1.find? fun o => (u.freeLane f.sw o 1 f.at_).isSome) = none →
        u.anyFree f.sw (cellLen f.cell) f.at_ = none → ∃ t, exec (.beHeadCell sw i loss) s = .next t ∧ t.out = u.out ∧
        t.fab.flight = u.fab.flight ∧
        t.fld .swx SWX.NO_OUTPUT_CNT = min (u.fld .swx SWX.NO_OUTPUT_CNT + 1) (2 ^ 64 - 1)))) ∧
  (∀ (s : State) (t : Fin 128) (i : Nat) (m : BeMsg) (c : FCell) (cs : List FCell),
    findIdx (fun m => m.tile = t.val) s.fab.be = some (i, m) → m.cells = c :: cs →
    let s1 := s.advanceTo (nextEdge 2 (max s.clk.phase m.readyAt))
    let waits := (s1.fab.flight.any fun f => f.sw = .router t && f.input = m.input && f.lane = 1) ||
      (((s1.beWants (.router t) c).1.head?).bind fun o => s1.freeLane (.router t) o m.cells.length s1.clk.phase).isNone
    (waits = true → exec (.beInject t) s = .next s) ∧
    (waits = false → ∃ u, exec (.beInject t) s = .next u ∧ u.fab.be = s.fab.be.eraseIdx i ∧
      u.fab.flight = s1.fab.flight ++
        m.cells.zipIdx.map (fun x => ⟨s1.clk.phase + 2 * x.2, .router t, m.input, 1, x.1, .be, false⟩) ∧
      (m.chunk = none → u.rack = s.rack ∧ u.regs = s1.regs) ∧
      (∀ k, m.chunk = some k →
        (smGet Chunk.initial u.rack.chunks k).sent = some (s1.clk.phase + 2 * m.cells.length) ∧
        u.fld .rack RACK.CHUNK_SENT_CNT = min (s1.fld .rack RACK.CHUNK_SENT_CNT + 1) (2 ^ 64 - 1)))) ∧
  (∀ (s : State) (sw : Sw) (ch : BitVec 16) (f : Flight),
    s.firstFlight (fun f => f.combines && f.sw = sw && f.cell.channel = ch) = some f →
    exec (.reduceCombine sw ch) s = .next (s.takeInOrder f 0) ∧
    (s.cellsBefore f = [] → (s.advanceTo f.at_).fab.flight.find? f.same = some f → s.sch.regime = .timed →
      let x := (s.advanceTo f.at_).advanceTo f.at_
      let e := (s.advanceTo f.at_).chanEntry ch
      let mine := fun (g : Flight) => g.combines && g.sw = sw && g.cell.channel = ch && g.at_ = f.at_
      let s1 := { x with fab := { x.fab with flight := x.fab.flight.filter fun g => !mine g } }
      let r := (sortOn Flight.input (x.fab.flight.filter mine)).foldl (fun acc g => State.redInput acc sw e f.at_ g)
        ([], s1.settle f.at_)
      exec (.reduceCombine sw ch) s = .next (if r.1.isEmpty then r.2 else r.2.combine sw ch e f.at_ r.1))) ∧
  (∀ (s : State) (sw : Sw) (ch : BitVec 16), s.firstFlight (fun f => f.combines && f.sw = sw && f.cell.channel = ch) = none →
    s.digestAlone sw ch = true → exec (.reduceCombine sw ch) s = .next (s.combineAlone sw ch))

/-- The states of a link port: setting ENABLE starts training and clears the failed lanes of a DISABLED port; training ends LOCKED, with
every lane locked and both sides told of each other; clearing ENABLE leads to DISABLED; a cause takes a port that is up DOWN,
counted and dated; 1 ms later it trains again when AUTO_RETRAIN is set, and setting that bit starts the millisecond (R233, R234,
R445). -/
def Obligations.PortsFollowTheirStates : Prop :=
  (∀ (s : State) (p : Fin 12) (w : RegW), s.reaches (.lnk p) = true → s.locked = false → s.boot.fabricBusy = false →
    s.flag (.lnk p) LNK.CTRL_ENABLE = false → wHits w LNK.CTRL_ENABLE = true → ∃ t, exec (.lnkEnable p w) s = .next t ∧
      t.portState p.val = portTraining ∧ t.flag (.lnk p) LNK.CTRL_ENABLE = true ∧ (t.htPort p.val).exchanges = 0 ∧
      (s.portState p.val = portDisabled → t.fld (.lnk p) LNK.LANE_FAIL = 0)) ∧
  (∀ (s : State) (p : Fin 12) (w : RegW), s.reaches (.lnk p) = true → s.locked = false → wCovers w LNK.CTRL_ENABLE = true →
    wHits w LNK.CTRL_ENABLE = false → ∃ t, exec (.lnkDisable p w) s = .next t ∧ t.portState p.val = portDisabled ∧
      t.flag (.lnk p) LNK.CTRL_ENABLE = false) ∧
  (∀ (s : State) (p : Fin 12) (w : RegW), s.reaches (.lnk p) = true → s.locked = false → s.portState p.val = portDown →
    s.flag (.lnk p) LNK.CTRL_ENABLE = true → s.flag (.lnk p) LNK.CTRL_AUTO_RETRAIN = false → wHits w LNK.CTRL_ENABLE = true →
    wHits w LNK.CTRL_AUTO_RETRAIN = true → ∃ t, exec (.autoRetrain p w) s = .next t ∧ t.portState p.val = portDown ∧
      smGet 0 t.fab.downAt p.val = s.clk.phase ∧ t.flag (.lnk p) LNK.CTRL_AUTO_RETRAIN = true) ∧
  (∀ (s : State) (p : Fin 12) (hall : BitVec 16) (valid : Bool) (port : BitVec 4), s.portState p.val = portTraining →
    ∃ t, exec (.portTrained p hall valid port) s = .next t ∧ t.portState p.val = portLocked ∧
      t.fld (.lnk p) LNK.STATUS_LANE_LOCK = 2 ^ portLanes p.val - 1 ∧ t.fld (.lnk p) LNK.PEER_HALL_ID = hall.toNat ∧
      t.fld (.lnk p) LNK.PEER_PORT = port.toNat ∧ t.flag (.lnk p) LNK.PEER_VALID = valid ∧
      bitOf (t.fld (.lnk p) COM.EVENT) LNK.EV_UP = true ∧
      t.out = s.out ++ [.peerId p.val (BitVec.ofNat 16 s.hallId) (s.flag .swx SWX.HALL_ID_VALID) p.val]) ∧
  (∀ (s : State) (p : Fin 12) (cause : DownCause), s.portUp p.val = true → (∀ f, cause = .lanes f → f.toNat % 2 ^ portLanes p.val ≠ 0) →
    ∃ t, exec (.portDown p cause) s = .next t ∧ t.portState p.val = portDown ∧
      t.fld (.lnk p) LNK.DOWN_CNT = min (s.fld (.lnk p) LNK.DOWN_CNT + 1) (2 ^ 64 - 1) ∧
      t.fld (.lnk p) LNK.DOWN_TIME = s.ht ∧ bitOf (t.fld (.lnk p) COM.EVENT) LNK.EV_DOWN = true ∧
      smGet 0 t.fab.downAt p.val = s.clk.phase ∧
      (∀ f, cause = .lanes f → t.fld (.lnk p) LNK.LANE_FAIL = s.fld (.lnk p) LNK.LANE_FAIL ||| f.toNat % 2 ^ portLanes p.val)) ∧
  (∀ (s : State) (p : Fin 12), s.portState p.val = portDown → s.flag (.lnk p) LNK.CTRL_AUTO_RETRAIN = true →
    s.flag (.lnk p) LNK.CTRL_ENABLE = true → s.boot.fabricBusy = false → smGet 0 s.fab.downAt p.val + 4000000 ≤ s.clk.phase →
    ∃ t, exec (.retrainTimer p) s = .next t ∧ t.portState p.val = portTraining)

/-- ADMIT admits a LOCKED port at once outside timed steps, and in one leaves it LOCKED with its admission pending until the step
boundary (R234); writing SWX_HALL_ID stores the hall ID, sets VALID and tells every peer of a port that is up (R231, R445); a
peer's message is shown in LNK_PEER. -/
def Obligations.AdmissionAndHallIds : Prop :=
  (∀ (s : State) (p : Fin 12) (w : RegW), s.reaches (.lnk p) = true → s.flag (.lnk p) LNK.CTRL_ENABLE = true →
    s.portState p.val = portLocked → wHits w LNK.CTRL_ADMIT = true → (s.locked = false → wHits w LNK.CTRL_ENABLE = true) →
    (s.sch.regime ≠ .timed → ∃ t, exec (.portAdmit p w) s = .next t ∧ t.portState p.val = portAdmitted ∧
      bitOf (t.fld (.lnk p) COM.EVENT) LNK.EV_ADMITTED = true) ∧
    (s.sch.regime = .timed → ∃ t, exec (.portAdmit p w) s = .next t ∧ t.portState p.val = portLocked ∧
      t.flag (.lnk p) LNK.STATUS_ADMIT_PEND = true ∧ t.admitPending.portState p.val = portAdmitted)) ∧
  (∀ (s : State) (w : RegW), s.reaches .swx = true → s.locked = false → w.half ≠ .high → ∃ t, exec (.swxHallIdWrite w) s = .next t ∧
    t.fld .swx SWX.HALL_ID_HALL_ID = w.val.toNat % 2 ^ 16 ∧ t.flag .swx SWX.HALL_ID_VALID = true ∧
    t.out = s.out ++ ((List.range 12).filter s.portUp).map (fun p => .peerId p (BitVec.ofNat 16 w.val.toNat) true p)) ∧
  (∀ (s : State) (p : Fin 12) (hall : BitVec 16) (valid : Bool) (port : BitVec 4), s.portUp p.val = true →
    ∃ t, exec (.peerIdMessage p hall valid port) s = .next t ∧ t.fld (.lnk p) LNK.PEER_HALL_ID = hall.toNat ∧
      t.fld (.lnk p) LNK.PEER_PORT = port.toNat ∧ t.flag (.lnk p) LNK.PEER_VALID = valid ∧
      (∀ a, a ≠ fldAddr (.lnk p) LNK.PEER → t.reg a = s.reg a) ∧ t = { s with regs := t.regs })

/-! Banks and the cooperage. -/

/-- Bank power (R188): a request from a settled state starts its transition, which takes 100 ns on the way to ON, 20 ns else, and
100 ns and 1,024 VCLK cycles out of OFF, and shows WAKING on the way to ON; one for the state that the bank has changes nothing; what
needs VCLK waits while the zone is OFF, and any request waits for a transition in progress; at its end the bank has the state, a bank
that was OFF reads as zeros, and no other byte changes; the banks of a tile that was reset become ON (R192); a locked write is
ignored. -/
def Obligations.BankTransitionsFollow : Prop :=
  (∀ (s : State) (t : Fin 128) (b : Fin 16) (n c : Nat) (cmd : Instr), (c, cmd) ∈ [(bankOn, .bankOnRequest t b),
      (bankRetention, .bankRetentionRequest t b), (bankOff, .bankOffRequest t b)] → s.reaches (.tspd t) = true →
    (s.locked = false → s.bankTr t b.val = none → s.bankState t b.val = n → n < 3 →
      (c = n → ∃ u, exec cmd s = .next u ∧ u.bankState t b.val = n ∧ u.bankTr t b.val = none ∧ u.tiles.spad = s.tiles.spad) ∧
      (c ≠ n → s.fld (.zn (zoneOf t.val)) ZN.STATUS_OP < 3 →
        let d := if n = bankOff then 400 + 1024 * Unit_.period .vec (s.fld (.zn (zoneOf t.val)) ZN.STATUS_OP)
          else if c = bankOn then 400 else 80
        ∃ u, exec cmd s = .next u ∧ u.bankState t b.val = bankShown n c ∧ u.tiles.spad = s.tiles.spad ∧
          u.bankTr t b.val = some ⟨c, s.clk.phase + (if n = bankOff then 400 else d), s.clk.phase + d, decide (n = bankOff)⟩) ∧
      (c ≠ n → s.fld (.zn (zoneOf t.val)) ZN.STATUS_OP = 3 → c ≠ bankOff → (c = bankOn ∨ n = bankOff) →
        ∃ u, exec cmd s = .next u ∧ u.bankState t b.val = n ∧ u.bankTr t b.val = none ∧ u.bankAsked t b.val = c ∧
          smGet false u.tiles.bankWait (bankKey t b.val) = true)) ∧
    (s.locked = false → (s.bankTr t b.val).isSome = true → ∃ u, exec cmd s = .next u ∧ u.bankTr t b.val = s.bankTr t b.val ∧
      u.bankAsked t b.val = c ∧ smGet false u.tiles.bankWait (bankKey t b.val) = true) ∧
    (s.locked = true → ∃ u, exec cmd s = .next u ∧ u.bankState t b.val = s.bankState t b.val ∧ u.tiles = s.tiles)) ∧
  (∀ (s : State) (t : Fin 128) (b : Fin 16) (tr : BankTr), s.bankTr t b.val = some tr →
    exec (.bankTransitionDone t b) s =
      .next ((if tr.clears then (s.advanceTo tr.endsAt).clearBank t b.val else s.advanceTo tr.endsAt).bankReached t b.val tr.target) ∧
    (tr.target < 4 → smGet false s.tiles.bankWait (bankKey t b.val) = false → s.due = [] →
      ∃ u, exec (.bankTransitionDone t b) s = .next u ∧
      u.bankState t b.val = tr.target ∧ u.bankTr t b.val = none ∧ u.clk.phase = max s.clk.phase tr.endsAt ∧
      (∀ a, a < spadSize → smGet (0 : Byte) u.tiles.spad (spadKey t.val a) =
        if tr.clears && decide (bankOf a = b.val) then 0 else smGet (0 : Byte) s.tiles.spad (spadKey t.val a)) ∧
      (∀ v : Fin 128, v ≠ t → ∀ a, a < spadSize →
        smGet (0 : Byte) u.tiles.spad (spadKey v.val a) = smGet (0 : Byte) s.tiles.spad (spadKey v.val a)))) ∧
  (∀ (s : State) (t : Fin 128) (b : Fin 16) (tr : BankTr), s.bankTr t b.val = none → s.bankState t b.val = bankWaking →
    s.fld (.zn (zoneOf t.val)) ZN.STATUS_OP ≠ 3 →
    s.wakeAt (zoneOf t.val) (s.fld (.zn (zoneOf t.val)) ZN.STATUS_OP) = some tr →
    smGet false s.tiles.bankWait (bankKey t b.val) = false → ∃ u, exec (.bankTransitionDone t b) s = .next u ∧
      u.bankState t b.val = bankOn ∧ u.clk.phase = max s.clk.phase tr.endsAt)

/-- Allocation (R195 to R198): with nothing sent before it, a request whose pool has a free buffer of its class, or of a larger one
after fall-back steps of two cycles each, reserves the free buffer with the lowest ID of that class and completes four cycles later; a
request that R196 refuses, a ninth one of its cycle, and one that finds no buffer complete with nothing at fourteen, and are counted;
completions come in order of time.
Release (R199 to R201): a release that a port takes acts in its cycle: the owner of a named buffer frees it, any other unit's release
leaves it and is counted as foreign; a counted buffer goes down by one and is freed with the last; a buffer that is not live is a
stray release; the ninth of a cycle is counted and ignored. -/
def Obligations.AllocationsAndReleases : Prop :=
  (∀ (s : State) (r : AllocReq), s.running = true → ∃ t, exec (.allocRequest r) s = .next t ∧
    t = { s.coopCycle with coop := { s.coopCycle.coop with due := s.coopCycle.coop.due ++
      [⟨s.clk.phase, r.unit, .ask r.pool.val r.size r.init⟩] } } ∧
    (s.coop.due = [] → s.coop.waiting = [] →
      let c := s.coopCycle
      let none_ := fun (u : State) => exec .allocComplete t = .next u ∧ u.out = s.out ++ [.alloc r.unit none] ∧
        u.clk.phase = max s.clk.phase ((s.clk.phase / 2 + 14) * 2) ∧ u.coop.bufs = s.coop.bufs
      (∀ (q : Pool) (id steps : Nat), c.coop.accepted < 8 → c.pool r.pool.val = some q → reqBad (some q) r.size r.init = false →
        c.search q 6 (classFor r.size) 0 = (some id, steps) → id < 2 ^ 16 →
        ∃ u, exec .allocComplete t = .next u ∧ u.out = s.out ++ [.alloc r.unit (some (BitVec.ofNat 16 id))] ∧
          u.clk.phase = max s.clk.phase ((s.clk.phase / 2 + 4 + 2 * steps) * 2) ∧
          u.buf id = ⟨true, if q.named then 0 else r.init.toNat, if q.named then r.init else 0, 0⟩ ∧
          (s.buf id).live = false ∧ (∀ j, j ≠ id → u.buf j = s.buf j) ∧
          u.fld .coop COOP.ALLOC_CNT = min (s.fld .coop COOP.ALLOC_CNT + 1) (2 ^ 64 - 1) ∧
          (∀ j, q.classBase (classFor r.size + steps) ≤ j → j < id → (s.buf j).live = true ∨ c.coop.freed.contains j = true)) ∧
      (c.coop.accepted < 8 → reqBad (c.pool r.pool.val) r.size r.init = true → ∃ u, none_ u ∧
        u.fld .coop COOP.REQ_BAD_CNT = min (s.fld .coop COOP.REQ_BAD_CNT + 1) (2 ^ 64 - 1)) ∧
      (8 ≤ c.coop.accepted → ∃ u, none_ u ∧
        u.fld .coop COOP.PORT_LIMIT_CNT = min (s.fld .coop COOP.PORT_LIMIT_CNT + 1) (2 ^ 64 - 1)) ∧
      (∀ (q : Pool) (steps : Nat), c.coop.accepted < 8 → c.pool r.pool.val = some q → reqBad (some q) r.size r.init = false →
        c.search q 6 (classFor r.size) 0 = (none, steps) → ∃ u, none_ u ∧
        u.fld .coop COOP.FAIL_CNT = min (s.fld .coop COOP.FAIL_CNT + 1) (2 ^ 64 - 1)))) ∧
  (∀ (s : State) (r : AllocRes) (rest : List AllocRes), takeFirst AllocRes.at_ s.coopNow.coop.waiting = some (r, rest) →
    ∃ t, exec .allocComplete s = .next t ∧ t.coop.waiting = rest ∧ t.out = s.coopNow.out ++ [.alloc r.unit r.buffer] ∧
      t.clk.phase = max s.clk.phase r.at_ ∧ t.coop.bufs = s.coopNow.coop.bufs ∧ ∀ x ∈ s.coopNow.coop.waiting, r.at_ ≤ x.at_) ∧
  (∀ (s : State) (unit buffer : BitVec 16), s.running = true → ∃ t, exec (.release unit buffer) s = .next t ∧
    t = { s.coopCycle with coop := { s.coopCycle.coop with due := s.coopCycle.coop.due ++
      [⟨s.clk.phase, unit, .release buffer.toNat⟩] } } ∧
    (s.coop.due = [] →
      let c := s.coopCycle
      let b := s.buf buffer.toNat
      let u := t.coopNow
      (8 ≤ c.coop.releases → u.coop.bufs = s.coop.bufs ∧
        u.fld .coop COOP.PORT_LIMIT_CNT = min (s.fld .coop COOP.PORT_LIMIT_CNT + 1) (2 ^ 64 - 1)) ∧
      (c.coop.releases < 8 →
        u.fld .coop COOP.RELEASE_CNT = min (s.fld .coop COOP.RELEASE_CNT + 1) (2 ^ 64 - 1) ∧
        (∀ j, j ≠ buffer.toNat → u.buf j = s.buf j) ∧
        (b.live = false → u.coop.bufs = s.coop.bufs ∧
          u.fld .coop COOP.STRAY_CNT = min (s.fld .coop COOP.STRAY_CNT + 1) (2 ^ 64 - 1)) ∧
        (∀ n p, s.poolOf buffer.toNat = some (n, p) → b.live = true →
          (p.named = true → b.owner = unit → u.buf buffer.toNat = Buf.initial) ∧
          (p.named = true → b.owner ≠ unit → u.buf buffer.toNat = b ∧
            u.fld .coop COOP.FOREIGN_CNT = min (s.fld .coop COOP.FOREIGN_CNT + 1) (2 ^ 64 - 1)) ∧
          (p.named = false → 1 < b.count → u.buf buffer.toNat = { b with count := b.count - 1 }) ∧
          (p.named = false → b.count ≤ 1 → u.buf buffer.toNat = Buf.initial)))))

/-! The lauter engine. -/

/-- The four instructions of the lauter program complete where they issue cleanly, timed or not (R243, R245, R255 to R257).
The lauter engine's queues and arrivals in a timed step: the first choice that waits for a channel departs as far as its channel's
runs have room, leaves its queue with its last part, and stays where it is when its next part has no room (R251); once no run of a
channel is ahead, its choices that are still queued are discarded and counted, each a lost cell, and before that none is (R251); the
first whole message of a phase is taken from those that have arrived, and an untimed step discards it (R252, R255, R257, R259). -/
def Obligations.LauterRowsAndQueues : Prop :=
  (LtrCompletes .dispatch .dispatch dispatchRun ∧
  (∀ ecc, LtrCompletes (fun w => .returnRows ⟨w, ecc⟩) .return_ (fun w => returnRun .return_ w ecc)) ∧
  (∀ ecc, LtrCompletes (fun w => .gradReturn ⟨w, ecc⟩) .gradReturn (fun w => returnRun .gradReturn w ecc)) ∧
  (∀ ecc, LtrCompletes (fun w => .gradOut ⟨w, ecc⟩) .gradOut (fun w => gradOutRun w ecc))) ∧
  ((∀ (s : State) (ch : BitVec 16) (ecc : List EccErr) (c : Choice), s.sch.regime = .timed →
    let s1 := s.advanceTo (c.readyAt - s.entryLead centralEntry)
    let r := s1.departChoice 8 ecc c s1.clk.phase
    let done := fun (u : State) => match r.1.1, c.releaseId with
      | none, some id => u.releaseAt r.1.2 lauterUnit id
      | _, _ => u
    (s.ltr.outQ.find? (fun c => c.channel = ch) = some c → exec (.lauterChoiceDepart ⟨ch, ecc⟩) s =
      .next (done { r.2 with ltr := { r.2.ltr with outQ := replaceChoice ch r.1.1 r.2.ltr.outQ } })) ∧
    (s.ltr.outQ.find? (fun c => c.channel = ch) = none → s.ltr.retQ.find? (fun c => c.channel = ch) = some c →
      exec (.lauterChoiceDepart ⟨ch, ecc⟩) s =
        .next (done { r.2 with ltr := { r.2.ltr with retQ := replaceChoice ch r.1.1 r.2.ltr.retQ } })) ∧
    (∀ t u, s.ltr.outQ.find? (fun c => c.channel = ch) = some c → c.part + 1 = partCount c.len →
      s1.departPart c ecc = some (t, u) → c.releaseId = none → exec (.lauterChoiceDepart ⟨ch, ecc⟩) s =
        .next { u with ltr := { u.ltr with outQ := replaceChoice ch none u.ltr.outQ } }) ∧
    (s.ltr.outQ.find? (fun c => c.channel = ch) = some c → c.part < partCount c.len → s1.departPart c ecc = none →
      exec (.lauterChoiceDepart ⟨ch, ecc⟩) s = .next s1)) ∧
  (∀ (s : State) (ch : BitVec 16), s.sch.regime = .timed →
    (s.runAhead ch = true → exec (.runShort ch) s = .next s) ∧
    (s.runAhead ch = false → ∃ t, exec (.runShort ch) s = .next t ∧
      t.ltr.outQ = s.ltr.outQ.filter (fun c => c.channel ≠ ch) ∧ t.ltr.retQ = s.ltr.retQ.filter (fun c => c.channel ≠ ch) ∧
      t.fld .ltr LTR.RUN_SHORT_CNT = min (s.fld .ltr LTR.RUN_SHORT_CNT +
        (s.ltr.outQ ++ s.ltr.retQ).countP (fun c => c.channel = ch)) (2 ^ 64 - 1) ∧
      t.fld .bst BST.STEP_INVALID_CNT = min (s.fld .bst BST.STEP_INVALID_CNT +
        (s.ltr.outQ ++ s.ltr.retQ).countP (fun c => c.channel = ch)) (2 ^ 64 - 1) ∧ t.fab = s.fab)) ∧
  (∀ (s : State) (m : Msg) (p : Nat → Bool) (act : Msg → LtrMsg → State → State) (c : Instr),
    (p, act, c) ∈ ([(fun p => p = 0, intakeArrive, .lauterPartArrival), (fun p => p = 2, gradArrive, .gradArrival),
      (fun p => p = 1 || p = 3, returnArrive, .returnArrival)] : List ((Nat → Bool) × (Msg → LtrMsg → State → State) × Instr)) →
    let s1 := s.settle s.clk.phase
    let s2 := { s1 with fab := { s1.fab with arrived := s1.fab.arrived.erase m } }
    s1.firstLauter p = some m → exec c s = .next (if s1.sch.regime = .timed then act m m.ltr s2 else s2)))

/-- Quotas: a write of 1 to QUOTA_SWAP asks for a swap and changes no table; at the step start the table QUOTA is copied whole over
QUOTA_ACTIVE when its check passes, and otherwise QUOTA_ACTIVE stays and the refusal is counted (R241, R242).  A write that commits a
table entry stores the entry that LTR_TAB_SEL selects and no other: a QUOTA entry always, and one of another table than QUOTA_ACTIVE,
less the bits that its layout does not name, when no lock holds and, of EXPERT and MEMBER, the quotas in force still pass; it is
refused and counted when they do not; and no write reaches QUOTA_ACTIVE (R239, R241, R261). -/
def Obligations.QuotasSwapWhole : Prop :=
  (∀ (s : State) (w : RegW), s.reaches .ltr = true → wHits w LTR.CTRL_QUOTA_SWAP = true → ∃ t, exec (.quotaSwap w) s = .next t ∧
    t.flag .ltr LTR.STATUS_SWAP_PEND = true ∧ t.ltr = s.ltr) ∧
  (∀ s : State, s.flag .ltr LTR.STATUS_SWAP_PEND = true → s.quotaCheck .quota = none →
    s.quotaSwapAt.flag .ltr LTR.STATUS_SWAP_PEND = false ∧
    (∀ i, i < 1024 → s.quotaSwapAt.ltr_ .quotaActive i = s.ltr_ .quota i) ∧
    (∀ (t : LtrTab) i, i < t.size → t ≠ .quotaActive → s.quotaSwapAt.ltr_ t i = s.ltr_ t i)) ∧
  (∀ (s : State) (f : QuotaFail), s.flag .ltr LTR.STATUS_SWAP_PEND = true → s.quotaCheck .quota = some f →
    s.quotaSwapAt.ltr = s.ltr ∧ s.quotaSwapAt.flag .ltr LTR.STATUS_SWAP_PEND = false ∧
    s.quotaSwapAt.fld .ltr LTR.QUOTA_REJECT_CNT = min (s.fld .ltr LTR.QUOTA_REJECT_CNT + 1) (2 ^ 64 - 1)) ∧
  (∀ (s : State) (w : RegW), s.reaches .ltr = true →
    let i := s.fld .ltr LTR.TAB_SEL_INDEX
    ∃ t, exec (.ltrTabWrite w) s = .next t ∧
      (w.half = .low → t.ltr = s.ltr) ∧
      (w.half ≠ .low →
        let v := ((List.range 4).map fun j => t.fld .ltr (LTR.TAB_DATA j) * 2 ^ (64 * j)).sum
        let stored := fun (k : LtrTab) =>
          t.ltr_ k i = k.keep v ∧ ∀ (k2 : LtrTab) j, j < k2.size → (k2 ≠ k ∨ j ≠ i) → t.ltr_ k2 j = s.ltr_ k2 j
        (s.fld .ltr LTR.TAB_SEL_TABLE = LtrTab.quota.id → i < 1024 → stored .quota) ∧
        (∀ k : LtrTab, k ∈ [LtrTab.layer, .receive, .desc] → s.fld .ltr LTR.TAB_SEL_TABLE = k.id → i < k.size → s.locked = false →
          stored k) ∧
        (∀ k : LtrTab, k ∈ [LtrTab.expert, .member] → s.fld .ltr LTR.TAB_SEL_TABLE = k.id → i < k.size → s.locked = false →
          ((s.setLtr k i v).quotaCheck .quotaActive = none → stored k) ∧
          (∀ f, (s.setLtr k i v).quotaCheck .quotaActive = some f → t.ltr = s.ltr ∧
            t.fld .ltr LTR.TABLE_REJECT_CNT = min (s.fld .ltr LTR.TABLE_REJECT_CNT + 1) (2 ^ 64 - 1))) ∧
        (∀ k : LtrTab, k ≠ .quota → k ≠ .quotaActive → s.fld .ltr LTR.TAB_SEL_TABLE = k.id → i < k.size → s.locked = true →
          t.ltr = s.ltr) ∧
        (s.fld .ltr LTR.TAB_SEL_TABLE = LtrTab.quotaActive.id → t.ltr = s.ltr)))

/-! Kilns and racks. -/

/-- The hand-off port of a kiln (R330): a 16-byte record at offset 0 is decided as R266 says, in no window; any other write is ignored
and counted.  An accepted record is latched for its tensor and no other, counted, and shown as handed; a refused one changes no
latched hand-off (R265, R266). -/
def Obligations.HandoffsAreDecided : Prop :=
  ∀ (s : State) (k : Fin 8) (x : CtrlWrite), s.kln.ctrlQ.find? (fun x => x.k = k.val) = some x →
    let s1 := ({ s with kln := { s.kln with ctrlQ := s.kln.ctrlQ.erase x } }).advanceTo x.at_
    let v := x.data.toNat
    (x.off ≠ 0 ∨ x.size ≠ 16 → ∃ t, exec (.handoffRecord k) s = .next t ∧ t.kln.handed = s.kln.handed ∧
      t.fld (.mem k) MEM.CTRL_BAD_CNT = min (s.fld (.mem k) MEM.CTRL_BAD_CNT + 1) (2 ^ 64 - 1)) ∧
    (x.off = 0 → x.size = 16 → (∀ r, s1.handDecide k.val v x.second = some r → ∃ t, exec (.handoffRecord k) s = .next t ∧
      t.kln.handed = s.kln.handed ∧ t.fld (.kln k) r.cnt = min (s.fld (.kln k) r.cnt + 1) (2 ^ 64 - 1)) ∧
      (s1.handDecide k.val v x.second = none → ∃ t, exec (.handoffRecord k) s = .next t ∧
        smGet none t.kln.handed (klnKey k.val (v % 4096)) = some ⟨(s.handFormat (v % 4096) v).1, (s.handFormat (v % 4096) v).2,
          bitOf v 24, BitVec.ofNat 16 (bitsOf v 47 32)⟩ ∧
        (∀ key, key ≠ klnKey k.val (v % 4096) → smGet none t.kln.handed key = smGet none s.kln.handed key) ∧
        t.fld (.kln k) KLN.HANDOFF_CNT = min (s.fld (.kln k) KLN.HANDOFF_CNT + 1) (2 ^ 64 - 1)))

/-- UPDATE completes where it issues cleanly, timed or not: it occupies its kiln and is counted; without a hand-off or a valid shard
it counts that and writes nothing; with a hand-off of another epoch it is stale, and the commit incomplete (R268, R276 to R278); with
one of its own epoch it updates the shard.
The update of an element (R269, R270): a master, remainder or momentum that is not finite is left as it is, and counted; a gradient
that is not finite counts as zero; a step that would make the master infinite leaves master and remainder; and SIGNVOTE has no
momentum to change. -/
def Obligations.UpdateCompletes : Prop :=
  (∀ (s : State) (k : Fin 8) (w : Issue) (ecc : List EccErr), s.uClean k.val (updateJob k.val w ecc s) w = true →
    let n := w.arg1.toNat
    let t := s.uTime k.val .kln w
    let a := s.advanceTo t
    let s1 := (a.uOccupy k.val .kln (t + kOcc (if shValid (s.shard k.val n) then s.shard k.val n else 0))).count (klnPage k.val)
      KLN.UPDATE_CNT
    let s2 := { s1 with kln := { s1.kln with updated := s1.kln.updated ++
      [(klnKey k.val n, t + kOcc (if shValid (s.shard k.val n) then s.shard k.val n else 0) + 400)] } }
    exec (.update k w ecc) s = .next (s.uIssued k.val (updateJob k.val w ecc s) w) ∧
    ((smGet none s.kln.handed (klnKey k.val n) = none ∨ shValid (s.shard k.val n) = false) → ∃ u,
      exec (.update k w ecc) s = .next u ∧ u.mem = a.mem ∧
      u.fld (.kln k) KLN.NO_GRAD_CNT = min (a.fld (.kln k) KLN.NO_GRAD_CNT + 1) (2 ^ 64 - 1) ∧
      u.fld (.kln k) KLN.UPDATE_CNT = min (a.fld (.kln k) KLN.UPDATE_CNT + 1) (2 ^ 64 - 1)) ∧
    (∀ h, smGet none s.kln.handed (klnKey k.val n) = some h → shValid (s.shard k.val n) = true →
      (h.epoch ≠ s.epochOf n → ∃ u, exec (.update k w ecc) s = .next u ∧ u.mem = a.mem ∧
        u.fld (.kln k) KLN.UPDATE_STALE_CNT = min (a.fld (.kln k) KLN.UPDATE_STALE_CNT + 1) (2 ^ 64 - 1) ∧
        u.flag (.kln k) KLN.STATUS_COMMIT_INCOMPLETE = true) ∧
      (h.epoch = s.epochOf n → exec (.update k w ecc) s = .next ((kUpdate k.val w ecc n h t s2).passU k.val w)))) ∧
  ((∀ (vote : Bool) (h : HyperVal) (x : KElem) (g : Fp), x.finite vote = false → kElem vote h x g = ⟨x, false, true, false⟩) ∧
  (∀ (vote : Bool) (h : HyperVal) (x : KElem) (g : Fp), x.finite vote = true → g.isFin = false →
    (kElem vote h x g).el = (kElem vote h x fpZero).el ∧ (kElem vote h x g).gradBad = true ∧ (kElem vote h x g).stateBad = false) ∧
  (∀ (vote : Bool) (h : HyperVal) (x : KElem) (g : Fp), (kElem vote h x g).ovf = true →
    (kElem vote h x g).el.w = x.w ∧ (kElem vote h x g).el.r = x.r) ∧
  (∀ (h : HyperVal) (x : KElem) (g : Fp), (kElem true h x g).el.m = x.m))

/-- Kiln tables: a SHARD entry that the checks of R263 pass is stored, and one they refuse is not, the check's number being recorded;
while the lock holds it is ignored; a HYPER entry is stored at any time, and the other tables never; HYPER_SWAP asks for a swap, and
at the step start the whole of HYPER becomes active or the refusal is counted (R263, R264, R281). -/
def Obligations.KilnTablesFollow : Prop :=
  (∀ (s : State) (k : Fin 8) (w : RegW), s.reaches (.kln k) = true →
    let t := s.fld (.kln k) KLN.TAB_SEL_INDEX
    ∃ u, exec (.klnTabWrite k w) s = .next u ∧
      let v := ((List.range 8).map fun i => u.fld (.kln k) (KLN.TAB_DATA i) * 2 ^ (64 * i)).sum
      (w.half = .low → u.kln = s.kln) ∧
      (w.half ≠ .low →
        (s.fld (.kln k) KLN.TAB_SEL_TABLE = 0 → s.locked = false →
          (s.shardCheck k.val t v = 0 → u.shard k.val t = v ∧ ∀ j, j < 4096 → j ≠ t → u.shard k.val j = s.shard k.val j) ∧
          (s.shardCheck k.val t v ≠ 0 → u.kln = s.kln ∧
            u.fld (.kln k) KLN.REJECT_INFO = t + s.shardCheck k.val t v * 2 ^ 12 + 2 ^ 31 ∧
            u.fld (.kln k) KLN.TABLE_REJECT_CNT = min (s.fld (.kln k) KLN.TABLE_REJECT_CNT + 1) (2 ^ 64 - 1))) ∧
        (s.fld (.kln k) KLN.TAB_SEL_TABLE = 0 → s.locked = true → u.kln = s.kln) ∧
        (s.fld (.kln k) KLN.TAB_SEL_TABLE = 1 →
          (smGet 0 u.kln.hyper (klnKey k.val t)).toNat = v % 2 ^ 128 ∧
          u.kln.shard = s.kln.shard ∧ u.kln.hyperActive = s.kln.hyperActive) ∧
        (2 ≤ s.fld (.kln k) KLN.TAB_SEL_TABLE → u.kln = s.kln))) ∧
  (∀ (s : State) (k : Fin 8) (w : RegW), s.reaches (.kln k) = true → wHits w KLN.CTRL_HYPER_SWAP = true →
    ∃ u, exec (.hyperSwap k w) s = .next u ∧ u.flag (.kln k) KLN.STATUS_SWAP_PEND = true ∧ u.kln = s.kln) ∧
  (∀ (s : State) (k : Fin 8), s.flag (.kln k) KLN.STATUS_SWAP_PEND = true →
    ((∀ t, t < 4096 → shValid (s.shard k.val t) = true → hyperCheck (smGet 0 s.kln.hyper (klnKey k.val t)) = 0) →
      (∀ e ∈ s.kln.shard, smGet 0 s.kln.shard e.1 = e.2) →
      ∀ t, t < 4096 → smGet 0 (s.hyperSwapAt k.val).kln.hyperActive (klnKey k.val t) = smGet 0 s.kln.hyper (klnKey k.val t)) ∧
    (∀ t, t < 4096 → shValid (s.shard k.val t) = true → hyperCheck (smGet 0 s.kln.hyper (klnKey k.val t)) ≠ 0 →
      (s.hyperSwapAt k.val).kln = s.kln ∧ (s.hyperSwapAt k.val).fld (.kln k) KLN.HYPER_REJECT_CNT =
        min (s.fld (.kln k) KLN.HYPER_REJECT_CNT + 1) (2 ^ 64 - 1)))

/-- Rack instructions complete where they issue cleanly, timed or not.  OPEN within its fence opens its entry, clears the marks of its
chunks and raises the tensor's epoch once in a step; beyond it the entry stays closed for the step under the fence's fault.  SEND of
an entry that is open goes on by ARG2 chunks, as far as the shard goes.  CLOSE closes the entry, sets the shard's IDX_BASE where it
is asked for, and counts a mismatch.  SEND and CLOSE of an entry that is not open, or whose fence failed in the step, do nothing
(R309, R310, R312, R313). -/
def Obligations.RackInstructionsComplete : Prop :=
  ∀ (s : State) (k : Fin 8) (w : Issue),
    let e := w.arg0.toNat
    let v := s.rackEntry k.val e
    let t := s.uTime k.val .rack w
    let a := s.advanceTo t
    (s.uClean k.val ⟨.rack, 0, s.rackWordBad w || !w.epoch || w.arg2 != 0 || !rkValid v || w.arg1.toNat ≠ rkTensor v, [],
        rackOpenIssue k.val w⟩ w = true →
      (a.fenceHolds (rkTensor v) w t = true → ∃ u, exec (.openRack k w) s = .next u ∧
        u.rackOpen k.val e = ⟨true, (s.rackOpen k.val e).fenced, 0⟩ ∧ (∀ j, j < 2 ^ 32 → u.chunk k.val e j = Chunk.initial) ∧
        u.epochOf (rkTensor v) = s.epochOf (rkTensor v) +
          (if rkCopy v || rkSink v || s.rack.bumped.contains (rkTensor v) then 0 else 1) ∧ u.mem = a.mem) ∧
      (a.fenceHolds (rkTensor v) w t = false → ∃ u, exec (.openRack k w) s = .next u ∧
        u.rackOpen k.val e = ⟨false, true, 0⟩ ∧ u.epochOf (rkTensor v) = s.epochOf (rkTensor v) ∧
        bitOf (u.fld .rack COM.EVENT) RACK.EV_EPOCH_FENCE = true ∧
        u.fld .rack RACK.FENCE_CNT = min (a.fld .rack RACK.FENCE_CNT + 1) (2 ^ 64 - 1))) ∧
    (∀ ecc : List EccErr, let j : UJob := ⟨.rack, 1, s.rackWordBad w || w.epoch || w.arg1 != 0 || w.arg2 = 0, [],
        rackSendIssue k.val w ecc⟩
      s.uClean k.val j w = true →
      exec (.rackSend k w ecc) s = .next (s.uIssued k.val j w) ∧
      ((s.rackOpen k.val e).acts = true → ∃ u, exec (.rackSend k w ecc) s = .next u ∧
        (u.rackOpen k.val e).sendPtr = (s.rackOpen k.val e).sendPtr + min w.arg2.toNat
          (rackChunks v (s.shard k.val (rkTensor v)) - (s.rackOpen k.val e).sendPtr)) ∧
      ((s.rackOpen k.val e).acts = false → exec (.rackSend k w ecc) s = .next (a.passU k.val w))) ∧
    (s.uClean k.val ⟨.rack, 2, s.rackWordBad w || w.epoch || w.arg1 != 0 || w.arg2 != 0, [], rackCloseIssue k.val w⟩ w = true →
      ((s.rackOpen k.val e).acts = true → ∃ u, exec (.closeRack k w) s = .next u ∧
        u.rackOpen k.val e = ⟨false, false, (s.rackOpen k.val e).sendPtr⟩ ∧ u.mem = a.mem ∧
        (a.rackComplete k.val e t = true → u.shard k.val (rkTensor v) = s.shard k.val (rkTensor v) -
          (if rkSetIdx v then shIdx (s.shard k.val (rkTensor v)) * 2 ^ 64 else 0) + (if rkSetIdx v then rkNewIdx v * 2 ^ 64 else 0)) ∧
        (a.rackComplete k.val e t = false → u.kln = s.kln ∧
          u.fld .rack RACK.INCOMPLETE_CNT = min (a.fld .rack RACK.INCOMPLETE_CNT + 1) (2 ^ 64 - 1))) ∧
      ((s.rackOpen k.val e).acts = false → exec (.closeRack k w) s = .next (a.passU k.val w)))

/-- Chunks and tables of the racks: a queued chunk leaves in an untimed step as best-effort messages, the last of which marks it SENT as
it leaves, and in a timed one in its channel's runs, marked SENT when its last part has gone, while parts without room wait; the
first whole message for a rack is decided by R311, and one for a tensor that is open nowhere is stray; a write that commits a table
entry stores an epoch of 16 bits, or a rack entry that R306 accepts, and refuses and counts any other; under the lock it changes
nothing (R303, R306, R310, R311, R314). -/
def Obligations.RackCommandsComplete : Prop :=
  (∀ (s : State) (k : Fin 8) (ch : BitVec 16) (p : RackPart),
    s.rack.queue.find? (fun p => p.entry / 64 = k.val && p.channel = ch) = some p →
    let same := fun (q : RackPart) => q.entry / 64 = k.val && q.channel = ch && q.entry = p.entry && q.chunk = p.chunk
    let parts := s.rack.queue.filter same
    (s.sch.regime = .untimed → ∃ t ms l, exec (.rackChunkDepart k ch) s = .next t ∧
      t.rack = { s.rack with queue := s.rack.queue.filter fun q => !same q } ∧ t.regs = s.regs ∧
      t.fab = { s.fab with be := s.fab.be ++ ms ++ [l] } ∧ (ms ++ [l]).length = parts.length ∧ (∀ m ∈ ms, m.chunk = none) ∧
      l.chunk = some (p.entry * 2 ^ 32 + p.chunk)) ∧
    (s.sch.regime = .timed → let r := State.departParts k.val parts s.clk.phase s
      ∃ t, exec (.rackChunkDepart k ch) s = .next t ∧
        t.rack.queue = s.rack.queue.filter (fun q => !same q || r.1.2.contains q) ∧ t.fab = r.2.fab ∧
        (r.1.2 = [] → (t.chunk k.val (p.entry % 64) p.chunk).sent = some r.1.1 ∧
          t.fld .rack RACK.CHUNK_SENT_CNT = min (r.2.fld .rack RACK.CHUNK_SENT_CNT + 1) (2 ^ 64 - 1)) ∧
        (r.1.2 ≠ [] → t.rack.chunks = r.2.rack.chunks))) ∧
  (∀ (s : State) (m : Msg), let s1 := s.settle s.clk.phase
    s1.fab.arrived.find? (fun m => m.sink = .rack) = some m →
    exec .rackPartArrival s =
      .next (({ s1 with fab := { s1.fab with arrived := s1.fab.arrived.erase m } }).rackArrive m) ∧
    (s1.openEntry (bitsOf m.data 14 12) (m.data % 4096) = none → ∃ t, exec .rackPartArrival s = .next t ∧ t.mem = s1.mem ∧
      t.rack = s1.rack ∧ t.fld .rack RACK.STRAY_CNT = min (s1.fld .rack RACK.STRAY_CNT + 1) (2 ^ 64 - 1))) ∧
  (∀ (s : State) (w : RegW), s.reaches .rack = true →
    let i := s.fld .rack RACK.TAB_SEL_INDEX
    let k := s.fld .rack RACK.TAB_SEL_CTRL
    ∃ t, exec (.rackTabWrite w) s = .next t ∧
      let v := ((List.range 4).map fun j => t.fld .rack (RACK.TAB_DATA j) * 2 ^ (64 * j)).sum
      let refused := t.rack = s.rack ∧
        t.fld .rack RACK.TABLE_REJECT_CNT = min (s.fld .rack RACK.TABLE_REJECT_CNT + 1) (2 ^ 64 - 1)
      ((w.half = .low ∨ s.locked = true) → t.rack = s.rack) ∧
      (w.half ≠ .low → s.locked = false →
        (s.fld .rack RACK.TAB_SEL_TABLE = 0 → (v < 2 ^ 16 → (t.epochOf i).toNat = v ∧ ∀ j, j ≠ i → t.epochOf j = s.epochOf j) ∧
          (2 ^ 16 ≤ v → refused)) ∧
        (s.fld .rack RACK.TAB_SEL_TABLE = 1 → i < 64 →
          (rackReject s.racking v (s.shard k (rkTensor v)) = false → t.rackEntry k i = v ∧
            ∀ k2 i2, i2 < 64 → (k2 ≠ k ∨ i2 ≠ i) → t.rackEntry k2 i2 = s.rackEntry k2 i2) ∧
          (rackReject s.racking v (s.shard k (rkTensor v)) = true → refused))))

/-! The host. -/

/-- The BAR2 window and the function: a write is posted into the write buffer, without its bytes beyond the interleaved window, and one
that finds the buffer full stays with the host; a read in a timed step waits for the windows of its controllers, one that lies
wholly beyond the window returns zeros marked POISON at once, and outside a timed step, with nothing before it and no poison, a
read returns the bytes that HBM holds; a request that BAR2 does not answer changes nothing; the size is changed; the link's
training is recorded, a lesser one than x8 at 64 GT/s as a downgrade; DOE discovery and management requests are answered while
Zhexal runs, and by nothing otherwise (R213, R324, R334, R339, R340, R346; the DOE answers and the reply's contents are the model's, log
72 and 73). -/
def Obligations.HostCommandsComplete : Prop :=
  (∀ (s : State) (off : BitVec 36) (data : List Byte), s.bar2Open = true → off.toNat + data.length ≤ s.bar2Size →
    let keep := (data.zipIdx.map fun x => (s.bar2Addr off.toNat + x.2, x.1)).filter fun b => (interGran b.1).isSome
    (s.mem.wbuf.length + keep.length ≤ 262144 →
      (keep.length = data.length →
        exec (.bar2Write off data) s = .next { s with mem := { s.mem with wbuf := s.mem.wbuf ++ keep } }) ∧
      (keep.length < data.length → ∃ t, exec (.bar2Write off data) s = .next t ∧ t.mem = { s.mem with wbuf := s.mem.wbuf ++ keep } ∧
        t.fld (.mem 0) MEM.ADDR_RANGE_CNT = min (s.fld (.mem 0) MEM.ADDR_RANGE_CNT + 1) (2 ^ 64 - 1))) ∧
    (262144 < s.mem.wbuf.length + keep.length → s.sch.regime = .timed → exec (.bar2Write off data) s = .next s) ∧
    (262144 < s.mem.wbuf.length + keep.length → 262144 < s.serveNow.mem.wbuf.length + keep.length →
      exec (.bar2Write off data) s = .next s.serveNow) ∧
    (262144 < s.mem.wbuf.length + keep.length → s.serveNow.mem.wbuf.length + keep.length ≤ 262144 → ∃ t,
      exec (.bar2Write off data) s = .next t ∧ t.mem = { s.serveNow.mem with wbuf := s.serveNow.mem.wbuf ++ keep })) ∧
  (∀ (s : State) (off : BitVec 36) (len : Nat), s.bar2Open = true → 0 < len → off.toNat + len ≤ s.bar2Size →
    let a := s.bar2Addr off.toNat
    ((∃ i, i < len ∧ (interGran (a + i)).isSome = true) → s.sch.regime = .timed → ∃ t r, exec (.bar2Read off len) s = .next t ∧
      t.mem = { s.mem with reads := s.mem.reads ++ [r] } ∧ r.addr = a ∧ r.len = len ∧ r.got = [] ∧
      r.owed = ((pieces a len).filter fun p => (interGran p.1).isSome) ∧
      (r.poison = true ↔ ∃ i, i < len ∧ interGran (a + i) = none) ∧ (r.poison = false → t.out = s.out)) ∧
    ((∀ i, i < len → interGran (a + i) = none) → ∃ t before after, exec (.bar2Read off len) s = .next t ∧ t.mem = s.mem ∧
      t.out = s.out ++ before ++ [.bar2Data a (List.replicate len 0) true] ++ after) ∧
    ((∀ i, i < len → (interGran (a + i)).isSome = true) → (∀ i, i < len → s.granPoison .inter (a + i) = false) →
      s.sch.regime ≠ .timed → (∀ k : Fin 8, s.memServes k.val = true) → s.mem.reads = [] → s.mem.wbuf = [] → s.host.lq = [] →
      ∃ t, exec (.bar2Read off len) s = .next t ∧ t.mem.reads = [] ∧ t.mem.hbm = s.mem.hbm ∧
        t.out = s.out ++ [.bar2Data a (s.peek .inter a len) false])) ∧
  (∀ (s : State) (off : BitVec 36) (len : Nat) (data : List Byte),
    (s.bar2Open = false ∨ s.bar2Size < off.toNat + data.length → exec (.bar2Write off data) s = .next s) ∧
    (s.bar2Open = false ∨ len = 0 ∨ s.bar2Size < off.toNat + len → exec (.bar2Read off len) s = .next s)) ∧
  (∀ (s : State) (n : Fin 7), (s.deaf = true → exec (.bar2Resize n) s = .next s) ∧
    (s.deaf = false → ∃ t, exec (.bar2Resize n) s = .next t ∧ t.bar2Size = 2 ^ (30 + n.val) ∧ t.mem = s.mem)) ∧
  (∀ (s : State) (speed : LinkSpeed) (width : LinkWidth) (flit : Bool) (cfg : PcieCfg),
    (s.deaf = true → exec (.pcieLinkUp speed width flit cfg) s = .next s) ∧
    (s.deaf = false → ∃ t, exec (.pcieLinkUp speed width flit cfg) s = .next t ∧ t.host.linkUp = true ∧ t.host.cfg = cfg ∧
      t.fld .hif HIF.STATUS_WIDTH = LinkWidth.lanes width ∧ t.fld .hif HIF.STATUS_SPEED = LinkSpeed.code speed ∧
      t.fld .hif HIF.STATUS_FLIT = flit.toNat ∧
      (speed ≠ .gt64 ∨ width ≠ .x8 → bitOf (t.fld .hif COM.EVENT) HIF.EV_LINK_DOWNGRADE = true) ∧
      (speed = .gt64 → width = .x8 → t.fld .hif COM.EVENT = s.fld .hif COM.EVENT))) ∧
  (∀ (s : State) (i : BitVec 8), (s.zhexalRuns = false → exec (.doeDiscovery i) s = .next s) ∧ (s.zhexalRuns = true →
    (i = 0 → exec (.doeDiscovery i) s = .next (s.send (.doe 0 1 0 1))) ∧
    (i = 1 → exec (.doeDiscovery i) s = .next (s.send (.doe 1 1 1 0))) ∧
    (2 ≤ i.toNat → exec (.doeDiscovery i) s = .next (s.send (.doe i.toNat 0xFFFF 0 0))))) ∧
  (∀ (s : State) (c : FCell), (s.zhexalRuns = false → exec (.managementRequest c) s = .next s) ∧
    (s.zhexalRuns = true → ∃ t hall r, exec (.managementRequest c) s = .next t ∧
      t.out = s.out ++ [.manage hall r] ∧ t.regs = s.regs ∧ t.mem = s.mem))

/-- A change of power state acts on the function alone: in D3hot no page answers, and all else, steps, queues and registers, stays;
the return to D0 keeps every one of them (R335). -/
def Obligations.PowerStateKeepsEverything : Prop :=
  ∀ (s : State) (d : Bool), exec (.powerStateChange d) s = .next { s with host := { s.host with d3hot := d } } ∧
    (∀ p, ({ s with host := { s.host with d3hot := true } } : State).answers p = false) ∧
    ({ s with host := { s.host with d3hot := true } } : State).bar2Open = false ∧
    (s.host.d3hot = false → ∃ t, exec (.powerStateChange true) s = .next t ∧ exec (.powerStateChange false) t = .next s)

/-- Loader queues: a doorbell within its ring is taken at the next tick, one beyond it is counted and ignored (R343); ENABLE starts a
queue with its pointers at 0, and clearing it takes effect at the next tick (R345); a ready queue reads its next entry and takes
the host's bytes, an entry that R341 refuses none, and while another queue waits a turn is 4,096 bytes; a host read that has
waited for longer than HIF_CPL_TIMEOUT ends in its error and is reported (R342); and a descriptor whose bytes are all visible
completes with its tag, its status, its phase and the time (R341). -/
def Obligations.LoaderQueuesFollow : Prop :=
  (∀ (s : State) (q : Fin 16) (w : RegW), s.reaches .hif = true →
    let v := wData w % 2 ^ 16
    let a := s.settleQueue q.val
    (w.half ≠ .high → v < a.sqSize q.val →
      exec (.lqSqTail q w) s = .next (a.setQueue q.val { a.queue q.val with tailAt := some (BitVec.ofNat 16 v, a.ht) })) ∧
    (w.half ≠ .high → a.sqSize q.val ≤ v → exec (.lqSqTail q w) s = .next (a.count .hif HIF.DOORBELL_BAD_CNT)) ∧
    (w.half ≠ .high → v < a.cqSize q.val →
      exec (.lqCqHead q w) s = .next (a.setQueue q.val { a.queue q.val with headAt := some (BitVec.ofNat 16 v, a.ht) })) ∧
    (w.half ≠ .high → a.cqSize q.val ≤ v → exec (.lqCqHead q w) s = .next (a.count .hif HIF.DOORBELL_BAD_CNT)) ∧
    (w.half = .high → ∀ c ∈ [Instr.lqSqTail q w, Instr.lqCqHead q w], ∃ t, exec c s = .next t ∧ t.host = s.host ∧
      t.fld .hif (HIF.LQ_SQ_TAIL q.val) = s.fld .hif (HIF.LQ_SQ_TAIL q.val) ∧
      t.fld .hif (HIF.LQ_CQ_HEAD q.val) = s.fld .hif (HIF.LQ_CQ_HEAD q.val))) ∧
  (∀ (s : State) (q : Fin 16) (v : BitVec 16) (at_ : Nat),
    ((s.queue q.val).tailAt = some (v, at_) → (s.settleQueue q.val).fld .hif (HIF.LQ_SQ_TAIL q.val) =
      if at_ < s.ht then v.toNat else s.fld .hif (HIF.LQ_SQ_TAIL q.val)) ∧
    ((s.queue q.val).headAt = some (v, at_) → (s.settleQueue q.val).fld .hif (HIF.LQ_CQ_HEAD q.val) =
      if at_ < s.ht then v.toNat else s.fld .hif (HIF.LQ_CQ_HEAD q.val)) ∧
    ((s.queue q.val).offAt = some at_ → (s.settleQueue q.val).queueOn q.val = (!decide (at_ < s.ht) && s.queueOn q.val) ∧
      ((s.settleQueue q.val).queue q.val).aborting = (decide (at_ < s.ht) || (s.queue q.val).aborting))) ∧
  (∀ (s : State) (q : Fin 16) (w : RegW) (c : Instr), c ∈ [Instr.lqEnable q w, Instr.lqDisable q w] → s.reaches .hif = true →
    let f := HIF.LQ_CTRL_ENABLE q.val
    let b := (s.settleQueue q.val).store .hif f.off w
    (s.flag .hif f = false → b.flag .hif f = true → ∃ t, exec c s = .next t ∧ t.queueOn q.val = true ∧
      t.fld .hif (HIF.LQ_SQ_HEAD q.val) = 0 ∧ t.fld .hif (HIF.LQ_SQ_TAIL q.val) = 0 ∧
      t.fld .hif (HIF.LQ_CQ_HEAD q.val) = 0 ∧ t.fld .hif (HIF.LQ_CQ_TAIL q.val) = 0 ∧ t.queue q.val = Lq.initial ∧
      (Lq.initial).pass = true) ∧
    (s.flag .hif f = true → b.flag .hif f = false →
      exec c s = .next (b.setQueue q.val { b.queue q.val with offAt := some s.ht })) ∧
    (b.flag .hif f = s.flag .hif f → exec c s = .next b)) ∧
  (∀ (s : State) (q : Fin 16) (e : BitVec 256) (host : HostRead),
    let a := s.settleQueue q.val
    let st := descStatus (a.queue q.val).aborting e.toNat
    let d := (HostRead.bytes host).take (deLen e.toNat)
    let ready : Bool := s.stage = stageReady && a.queueReady q.val
    (s.stage ≠ stageReady → exec (.lqDescriptor q e host) s = .next s) ∧
    (s.stage = stageReady → (a.queue q.val).inFlight = none → a.queueReady q.val = false →
      exec (.lqDescriptor q e host) s = .next a) ∧
    (ready = true → ∃ t rest, exec (.lqDescriptor q e host) s = .next t ∧ (t.queue q.val).inFlight = some e ∧
      t.out = s.out ++ .descriptorRead (BitVec.ofNat 64
        (s.fld .hif (HIF.LQ_SQ_BASE q.val) * 4096 + 32 * a.fld .hif (HIF.LQ_SQ_HEAD q.val))) :: rest ∧
      t.fld .hif (HIF.LQ_SQ_HEAD q.val) = (a.fld .hif (HIF.LQ_SQ_HEAD q.val) + 1) % a.sqSize q.val % 2 ^ 16 ∧
      (st ≠ lqOk → (t.queue q.val).status = st ∧ (t.queue q.val).reading = false ∧ (t.queue q.val).todo = [] ∧ rest = [])) ∧
    (ready = true → st = lqOk → s.sch.regime = .timed → (∀ p, p < 16 → p ≠ q.val → (a.queue p).reading = false) → ∃ t,
      exec (.lqDescriptor q e host) s = .next t ∧ (t.queue q.val).got = d.length ∧
      (t.queue q.val).todo = (d.zipIdx.map fun x => (deHbm e.toNat + x.2, x.1)) ∧
      (t.queue q.val).reading = (!(HostRead.failed host) && decide (d.length < deLen e.toNat)) ∧
      (t.queue q.val).status = if HostRead.failed host then lqHostErr else lqOk) ∧
    (∀ e0, s.stage = stageReady → (a.queue q.val).inFlight = some e0 →
      ((a.queue q.val).reading = false ∨ a.lqTurn ≠ some q.val → exec (.lqDescriptor q e host) s = .next a) ∧
      ((a.queue q.val).reading = true → a.lqTurn = some q.val → s.sch.regime = .timed →
        (∃ p, p < 16 ∧ p ≠ q.val ∧ (a.queue p).reading = true) →
        let d := (HostRead.bytes host).take (min 4096 (deLen e0.toNat - (a.queue q.val).got))
        ∃ t, exec (.lqDescriptor q e host) s = .next t ∧ (t.queue q.val).got = (a.queue q.val).got + d.length ∧
          (t.queue q.val).todo =
            (a.queue q.val).todo ++ (d.zipIdx.map fun x => (deHbm e0.toNat + (a.queue q.val).got + x.2, x.1)) ∧
          t.host.lqNext = (q.val + 1) % 16))) ∧
  (∀ (s : State) (q : Fin 16),
    let l := s.queue q.val
    let due : Bool := l.inFlight.isSome && l.reading && decide (l.readAt + s.fld .hif HIF.CPL_TIMEOUT * 4000 < s.clk.phase)
    (due = false → exec (.hifCplTimeout q) s = .next s) ∧
    (due = true → ∃ t, exec (.hifCplTimeout q) s = .next t ∧ (t.queue q.val).status = lqHostErr ∧
      (t.queue q.val).reading = false ∧ (t.queue q.val).inFlight = l.inFlight ∧
      t.host.aer.uncorrectable = s.host.aer.uncorrectable ||| BitVec.ofNat 32 (2 ^ 14))) ∧
  (∀ (s : State) (q : Fin 16),
    let a := s.settleQueue q.val
    let l := a.queue q.val
    (l.inFlight = none ∨ l.reading = true ∨ l.todo ≠ [] → exec (.lqCompletion q) s = .next a) ∧
    (∀ e, l.inFlight = some e → l.reading = false → l.todo = [] →
      let late : Bool := l.status = lqOk && deNeedBy e.toNat ≠ 0 && decide (deNeedBy e.toNat < l.visibleAt)
      let st := if late then lqLate else l.status
      let next := (a.fld .hif (HIF.LQ_CQ_TAIL q.val) + 1) % a.cqSize q.val
      ∃ t rest, exec (.lqCompletion q) s = .next t ∧ (t.queue q.val).inFlight = none ∧
        t.fld .hif (HIF.LQ_CQ_TAIL q.val) = next % 2 ^ 16 ∧
        (t.queue q.val).pass = (if next = 0 then !l.pass else l.pass) ∧
        t.fld .hif HIF.LQ_DESC_CNT = min (a.fld .hif HIF.LQ_DESC_CNT + 1) (2 ^ 64 - 1) ∧
        t.fld .hif HIF.LQ_LATE_CNT = (if st = lqLate then min (a.fld .hif HIF.LQ_LATE_CNT + 1) (2 ^ 64 - 1)
          else a.fld .hif HIF.LQ_LATE_CNT) ∧
        (l.status ≠ lqOk → l.status ≠ lqLate →
          t.fld .hif HIF.LQ_ERR_CNT = min (a.fld .hif HIF.LQ_ERR_CNT + 1) (2 ^ 64 - 1)) ∧
        t.out = s.out ++ .completion
          (BitVec.ofNat 64 (a.fld .hif (HIF.LQ_CQ_BASE q.val) * 4096 + 16 * a.fld .hif (HIF.LQ_CQ_TAIL q.val)))
          (BitVec.ofNat 128 (deTag e.toNat + st * 2 ^ 16 + l.pass.toNat * 2 ^ 19 +
            a.fld .hif (HIF.LQ_SQ_HEAD q.val) * 2 ^ 20 + l.visibleAt * 2 ^ 64)) :: rest))

/-- Negotiation (R347, R348): the last ACCEPT stands, its bits 16 and up ignored; CLOSE publishes ACTIVE under the dependences of
the features, once; any later write to either register is ignored and counted; and an FLR opens it again with every queue off and
the core resetting, and finds a module that is not READY in a reset that takes it in (R336, R391).  A module with a failed block and
no owner offers 0xDFFE, and of the worked example ACTIVE is 0x86C0. -/
def Obligations.NegotiationFollows : Prop :=
  (∀ (s : State) (w : RegW), s.reaches .glb = true → s.flag .hif HIF.STATUS_CLOSED = false →
    (w.half = .high → exec (.featAccept w) s = .next s) ∧
    (w.half ≠ .high → ∃ t, exec (.featAccept w) s = .next t ∧ t.fld .glb GLB.FEAT_ACCEPT = wData w % 2 ^ 16 ∧
      t.fld .glb GLB.FEAT_ACTIVE = s.fld .glb GLB.FEAT_ACTIVE)) ∧
  (∀ (s : State) (w : RegW), s.reaches .glb = true → s.flag .hif HIF.STATUS_CLOSED = false →
    (wHits w GLB.FEAT_CLOSE = false → exec (.featClose w) s = .next s) ∧
    (wHits w GLB.FEAT_CLOSE = true → ∃ t, exec (.featClose w) s = .next t ∧ t.flag .hif HIF.STATUS_CLOSED = true ∧
      (∀ i, i < 16 → bitOf (t.fld .glb GLB.FEAT_ACTIVE) i =
        ((bitOf (s.fld .glb GLB.FEAT_OFFER) i && bitOf (s.fld .glb GLB.FEAT_ACCEPT) i &&
          (!([1, 4, 5, 8, 14].contains i) || (bitOf (s.fld .glb GLB.FEAT_OFFER) 0 && bitOf (s.fld .glb GLB.FEAT_ACCEPT) 0)) &&
          (i ≠ 10 || s.host.cfg.ptmEnable)) || (i = 13 && s.signedForced))))) ∧
  (∀ (s : State) (w : RegW) (c : Instr), c ∈ [Instr.featAccept w, Instr.featClose w] → s.reaches .glb = true →
    s.flag .hif HIF.STATUS_CLOSED = true → ∃ t, exec c s = .next t ∧
      t.fld .glb GLB.FEAT_ACCEPT = s.fld .glb GLB.FEAT_ACCEPT ∧ t.fld .glb GLB.FEAT_ACTIVE = s.fld .glb GLB.FEAT_ACTIVE ∧
      t.fld .hif HIF.FEAT_IGNORED_CNT = min (s.fld .hif HIF.FEAT_IGNORED_CNT + 1) (2 ^ 64 - 1)) ∧
  (∀ s : State, (s.stage ≠ stageReady → exec .flr s = .next s) ∧
    (s.stage = stageReady → ∃ t, exec .flr s = .next t ∧ t.flag .hif HIF.STATUS_CLOSED = false ∧
      t.fld .glb GLB.FEAT_ACTIVE = 0 ∧ t.fld .glb GLB.FEAT_ACCEPT = 0 ∧ t.fld .hif HIF.STATUS_LQ_ACTIVE = 0 ∧
      (∀ q : Fin 16, t.flag .hif (HIF.LQ_CTRL_ENABLE q.val) = false) ∧
      t.boot.coreBusy = true ∧ t.schState = schEmpty ∧ t.host.lq = [])) ∧
  (∀ s : State, s.flag .bst BST.STATUS_FAILED = true → s.ownerOn = false → s.signedForced = false → s.offer = 0xDFFE) ∧
  (∀ s : State, s.fld .glb GLB.FEAT_OFFER = 0xDFFE → s.fld .glb GLB.FEAT_ACCEPT = 0xC7F3 → s.host.cfg.ptmEnable = true →
    s.signedForced = false → s.activeFeatures = 0x86C0)

/-! Supply, temperature, zones. -/

/-- The input and the stops (R351 to R355, R404): a sample within the limits of the input is shown, stops nothing and leaves the
schedule, PWR_WARN# following 39.0 and 40.0 V, and 58.0 and 57.0 V, a dip being counted at its end; one below 35.0 V or above 60.0 V
takes the module down in an orderly way, recorded with its cause; an input current above 63.0 A for more than 20 µs is a hard stop;
a hard stop sends one fault cell on each ADMITTED port, records its cause with HT, holds ALERT# low and clears HT, and one that finds
the module stopped changes at most the recorded cause, within one SCLK cycle; 100 ms of good input start the module again, as a
power-on reset if the input was lost; a peer's fault cell is counted and the first one recorded; and a module whose wipe has failed
answers none of them (R381). -/
def Obligations.SupplyAndStopsFollow : Prop :=
  (∀ (s : State) (v i : BitVec 16), s.deaf = true → exec (.inputSample v i) s = .next { s with pwr := { s.pwr with
    lost := s.pwr.lost || decide (v.toNat < 2000),
    goodSince := if 4000 ≤ v.toNat ∧ v.toNat ≤ 5600 then some (s.pwr.goodSince.getD s.clk.phase) else none } }) ∧
  (∀ (s : State) (v i : BitVec 16), s.deaf = false → ∃ t, exec (.inputSample v i) s = .next t ∧
    (s.stopped = true → t.stopped = true ∧ t.fld .pwr PWR.VIN = v.toNat) ∧
    (s.stopped = false → v.toNat < 3500 ∨ 6000 < v.toNat → t.pwr.down = true ∧ t.pwr.hardStop = false ∧
      t.fld .pwr PWR.LAST_STOP_CAUSE = (if v.toNat < 3500 then 1 else 2) ∧ t.flag .pwr PWR.LAST_STOP_VALID = true ∧
      t.fld .pwr PWR.LAST_STOP_HT = s.ht % 2 ^ 48 ∧ t.ht = 0 ∧ t.alertLow = true ∧ t.stage = 0) ∧
    (s.stopped = false → 3500 ≤ v.toNat → v.toNat ≤ 6000 → 6300 < i.toNat →
      s.pwr.inOverFrom.getD s.clk.phase + 80000 < s.clk.phase →
      t.pwr.hardStop = true ∧ t.fld .pwr PWR.LAST_STOP_CAUSE = 3 ∧ t.ht = 0 ∧ t.alertLow = true ∧ t.stage = 0) ∧
    (s.stopped = false → 3500 ≤ v.toNat → v.toNat ≤ 6000 →
      i.toNat ≤ 6300 ∨ s.clk.phase ≤ s.pwr.inOverFrom.getD s.clk.phase + 80000 →
      t.stopped = false ∧ t.fld .pwr PWR.VIN = v.toNat ∧ t.fld .pwr PWR.IIN = i.toNat ∧ t.sch = s.sch ∧ t.stage = s.stage ∧
      t.flag .pwr PWR.STATUS_UV_WARN = decide (v.toNat < if s.flag .pwr PWR.STATUS_UV_WARN then 4000 else 3900) ∧
      t.flag .pwr PWR.STATUS_OV_WARN = decide ((if s.flag .pwr PWR.STATUS_OV_WARN then 5700 else 5800) < v.toNat) ∧
      t.warnLow = (t.flag .pwr PWR.STATUS_UV_WARN || t.flag .pwr PWR.STATUS_OV_WARN) ∧
      (s.flag .pwr PWR.STATUS_UV_WARN = true → 4000 ≤ v.toNat →
        t.fld .pwr PWR.DIP_CNT = min (s.fld .pwr PWR.DIP_CNT + 1) (2 ^ 64 - 1) ∧ t.flag .pwr PWR.DIP_LAST_VALID = true ∧
        bitOf (t.fld .pwr COM.EVENT) PWR.EV_DIP_END = true))) ∧
  (∀ (s : State) (c : StopCause),
    let k := (StopCause.code c).1
    (s.deaf = true → exec (.hardStop c) s = .next s) ∧
    (s.deaf = false → s.stopped = true → s.pwr.stopAt ≠ s.sclk ∨ s.fld .pwr PWR.LAST_STOP_CAUSE ≤ k →
      exec (.hardStop c) s = .next s) ∧
    (s.deaf = false → s.stopped = true → s.pwr.stopAt = s.sclk → k < s.fld .pwr PWR.LAST_STOP_CAUSE → ∃ t,
      exec (.hardStop c) s = .next t ∧ t.stopped = true ∧ t.fld .pwr PWR.LAST_STOP_CAUSE = k ∧
      t.fld .pwr PWR.LAST_STOP_UNIT = (StopCause.code c).2 ∧ t.fld .pwr PWR.LAST_STOP_HT = s.fld .pwr PWR.LAST_STOP_HT) ∧
    (s.deaf = false → s.stopped = false → ∃ t, exec (.hardStop c) s = .next t ∧ t.pwr.hardStop = true ∧ t.pwr.down = false ∧
      t.fld .pwr PWR.LAST_STOP_CAUSE = k ∧ t.fld .pwr PWR.LAST_STOP_UNIT = (StopCause.code c).2 ∧
      t.fld .pwr PWR.LAST_STOP_HT = s.ht % 2 ^ 48 ∧ t.alertLow = true ∧ t.ht = 0 ∧ t.stage = 0 ∧
      t.out = s.out ++ (((List.range 12).filter fun p => decide (s.portState p = portAdmitted)).map fun p =>
        .faultCell p (s.faultCell k p)))) ∧
  (∀ s : State,
    let rested := ∃ g, s.pwr.goodSince = some g ∧ g + 400000000 ≤ s.clk.phase
    (s.pwr.down = false ∨ ¬rested → exec .powerRestart s = .next s) ∧
    (s.pwr.down = true → rested → s.pwr.lost = true → exec .powerRestart s = .next s.powerOn) ∧
    (s.pwr.down = true → rested → s.pwr.lost = false → ∃ t, exec .powerRestart s = .next t ∧ t.pwr.down = false ∧
      t.boot.startAt = s.clk.phase ∧ t.pins.fatalAlert = false ∧ t.fld .bst BST.LAST_RESET_SCOPE = scopeModule ∧
      t.fld .bst BST.LAST_RESET_SOURCE = fromRestart ∧ t.fld .bst BST.LAST_RESET_HT = s.ht % 2 ^ 48 ∧ t.sec.bonded = s.sec.bonded)) ∧
  (∀ (s : State) (p : Fin 12) (d : BitVec 320),
    (s.stage < stageFirmware ∨ s.stage = stageRecovery → exec (.faultCellRx p d) s = .next s) ∧
    (stageFirmware ≤ s.stage → s.stage ≠ stageRecovery → ∃ t, exec (.faultCellRx p d) s = .next t ∧
      t.fld .bst BST.PEER_FAULT_CNT = min (s.fld .bst BST.PEER_FAULT_CNT + 1) (2 ^ 64 - 1) ∧
      bitOf (t.fld .bst COM.EVENT) BST.EV_PEER_FAULT = true ∧
      (s.flag .bst BST.PEER_FAULT_VALID = true → t.fld .bst BST.PEER_FAULT = s.fld .bst BST.PEER_FAULT) ∧
      (s.flag .bst BST.PEER_FAULT_VALID = false → t.flag .bst BST.PEER_FAULT_VALID = true ∧
        t.fld .bst BST.PEER_FAULT_SRC_HALL = d.toNat % 2 ^ 16 ∧ t.fld .bst BST.PEER_FAULT_PORT = bitsOf d.toNat 19 16 ∧
        t.fld .bst BST.PEER_FAULT_LOCAL_PORT = p.val ∧ t.fld .bst BST.PEER_FAULT_CAUSE = bitsOf d.toNat 27 24)))

/-- Samples of temperature and rails: below what stops the module, the hottest sensor, the coolant and every rail are shown, HOT is
set from 100 °C on the die or 90 °C in a stack and cleared at 95 °C and 85 °C (R366), and a rail that has been
more than 10 mV off its nominal value for 10 µs is a fault of its zone (R364); 110 °C on the die, 100 °C in a stack, or a zone's current above twice its limit
for more than 5 µs stops the module (R354); a zone's limit clears 1 ms after it was last exceeded, and not before (R364); and a
coolant inlet above 40 °C for 1 s, and not before, is an event (R367). -/
def Obligations.SensorsAreShown : Prop :=
  (∀ (s : State) (die stks : List Int) (coolant : Int), die.length = 64 → stks.length = 8 →
    (∀ x ∈ die, -640 ≤ x ∧ x < 1760) → (∀ x ∈ stks, -640 ≤ x ∧ x < 1600) →
    ∃ t, exec (.sensorSample die stks coolant) s = .next t ∧ t.stopped = s.stopped ∧
      (∀ x ∈ die, x ≤ sgn 16 (t.fld .thm THM.MAX_TEMP)) ∧ sgn 16 (t.fld .thm THM.MAX_TEMP) ∈ die ∧
      t.fld .thm THM.COOLANT = unsgn 16 coolant ∧
      t.flag .thm THM.STATUS_HOT = (if s.flag .thm THM.STATUS_HOT then !(die.all (fun x => decide (x ≤ 1520)) &&
        stks.all fun x => decide (x ≤ 1360)) else die.any (fun x => decide (1600 ≤ x)) || stks.any fun x => decide (1440 ≤ x)) ∧
      (t.flag .thm THM.STATUS_STACK_HOT = true ↔ ∃ x ∈ stks, 1440 ≤ x)) ∧
  (∀ (s : State) (die stks : List Int) (coolant : Int), s.deaf = false → s.stopped = false → ∃ t,
    exec (.sensorSample die stks coolant) s = .next t ∧
      ((∃ x ∈ die, 1760 ≤ x) → t.pwr.hardStop = true ∧ t.fld .pwr PWR.LAST_STOP_CAUSE = 5 ∧ t.stage = 0) ∧
      ((∀ x ∈ die, x < 1760) → (∃ x ∈ stks, 1600 ≤ x) → t.pwr.hardStop = true ∧ t.fld .pwr PWR.LAST_STOP_CAUSE = 6 ∧ t.stage = 0)) ∧
  (∀ (s : State) (mv da : List Nat),
    (∀ z : Fin 8, s.zoneOp z.val = 3 ∨ da.getD z.val 0 ≤ 2 * peakLimit (s.zoneOp z.val)) → ∃ t,
      exec (.zoneRailSample mv da) s = .next t ∧ t.stopped = s.stopped ∧ ∀ z : Fin 8,
        t.fld (.zn z) ZN.STATUS_RAIL = mv.getD z.val 0 % 2 ^ 16 ∧ t.fld (.zn z) ZN.IRAIL = da.getD z.val 0 % 2 ^ 16 ∧
        (s.sensing = true → s.zoneOp z.val ≠ 3 → s.flag (.zn z) ZN.STATUS_TRANS = false →
          10 < gap (mv.getD z.val 0) (railNominal (s.zoneOp z.val)) →
          smGet (s.clk.phase + 1) s.pwr.railBadFrom z.val + 40000 ≤ s.clk.phase → t.flag (.zn z) ZN.STATUS_LIMIT = true)) ∧
  (∀ (s : State) (mv da : List Nat) (z : Fin 8), s.deaf = false → s.stopped = false → s.zoneOp z.val ≠ 3 →
    2 * peakLimit (s.zoneOp z.val) < da.getD z.val 0 →
    smGet (s.clk.phase + 1) s.pwr.railOverFrom z.val + 20000 < s.clk.phase → ∃ t,
      exec (.zoneRailSample mv da) s = .next t ∧ t.pwr.hardStop = true ∧ t.fld .pwr PWR.LAST_STOP_CAUSE = 4 ∧ t.stage = 0) ∧
  (∀ (s : State) (z : Fin 8),
    let due : Bool := s.flag (.zn z) ZN.STATUS_LIMIT && decide (smGet 0 s.pwr.limitAt z.val + 4000000 ≤ s.clk.phase)
    (due = true → exec (.zoneLimitClear z) s = .next (s.setFld (.zn z) ZN.STATUS_LIMIT 0)) ∧
    (due = false → exec (.zoneLimitClear z) s = .next s)) ∧
  (∀ s : State,
    let due := (∃ g, s.pwr.coolHotFrom = some g ∧ g + 4000000000 ≤ s.clk.phase) ∧ s.flag .thm THM.STATUS_COOLANT_HIGH = false
    (¬due → exec .coolantHigh s = .next s) ∧
    (due → ∃ t, exec .coolantHigh s = .next t ∧ t.flag .thm THM.STATUS_COOLANT_HIGH = true ∧
      bitOf (t.fld .thm COM.EVENT) THM.EV_COOLANT_HIGH = true))

/-- Zones (R359 to R362): a request that keeps its neighbours within one point sets every zone that is not at its request moving
while no image is loaded, one that does not is taken back and counted, and a locked one changes nothing; a point step moves each zone in
transition by one point towards its goal, and no other, and never during a step; a descent step lowers one zone's ballast by one
level, and no other's, until none is left; a window's energy is shown as the input power, the ballast follows the window in
progress while LOAD_SHAPING is active, and the 101st window of a span above 110 % of its declaration is counted. -/
def Obligations.ZonesMove : Prop :=
  (∀ (s : State) (z : Fin 8) (w : RegW), s.reaches (.zn z) = true → wCovers w ZN.CTRL_OP_REQ = true →
    let o := wData w % 4
    let cnt := if wHits w COM.CNT_CLR then 0 else s.fld (.zn z) ZN.REQ_BAD_CNT
    let req := fun (k : Nat) => if k = z.val then o else s.fld (znPage k) ZN.CTRL_OP_REQ
    let bad := zonePairs.any fun q => (q.1 = z.val || q.2 = z.val) && !(req q.1 ≤ req q.2 + 1 && req q.2 ≤ req q.1 + 1)
    (s.locked = true → ∃ t, exec (.opReq z w) s = .next t ∧ t.fld (.zn z) ZN.CTRL_OP_REQ = s.fld (.zn z) ZN.CTRL_OP_REQ ∧
      t.fld .sch SCH.LOCK_WRITE_CNT = min (s.fld .sch SCH.LOCK_WRITE_CNT + 1) (2 ^ 64 - 1)) ∧
    (s.locked = false → bad = true → ∃ t, exec (.opReq z w) s = .next t ∧
      t.fld (.zn z) ZN.CTRL_OP_REQ = s.fld (.zn z) ZN.CTRL_OP_REQ ∧ t.fld (.zn z) ZN.REQ_BAD_CNT = min (cnt + 1) (2 ^ 64 - 1) ∧
      ∀ k : Fin 8, t.fld (.zn k) ZN.STATUS_OP = s.fld (.zn k) ZN.STATUS_OP) ∧
    (s.locked = false → bad = false → ∃ t, exec (.opReq z w) s = .next t ∧ t.fld (.zn z) ZN.CTRL_OP_REQ = o ∧
      ∀ k : Fin 8, t.zoneOp k.val = s.zoneOp k.val ∧
        t.flag (.zn k) ZN.STATUS_TRANS = if s.sch.img = none then decide (s.zoneOp k.val ≠ req k.val)
          else s.flag (.zn k) ZN.STATUS_TRANS)) ∧
  (∀ (s : State) (z : Fin 8) (w : RegW), wCovers w ZN.CTRL_OP_REQ = false → ∃ t, exec (.opReq z w) s = .next t ∧
    ∀ k : Fin 8, t.fld (.zn k) ZN.CTRL_OP_REQ = s.fld (.zn k) ZN.CTRL_OP_REQ ∧ t.zoneOp k.val = s.zoneOp k.val) ∧
  (∀ s : State, (s.sch.regime ≠ .none ∨ s.zonesMoving = false → exec .zonePointStep s = .next s) ∧
    (s.sch.regime = .none → s.zonesMoving = true → ∃ t, exec .zonePointStep s = .next t ∧ ∀ z : Fin 8,
      (s.flag (.zn z) ZN.STATUS_TRANS = false → t.zoneOp z.val = s.zoneOp z.val) ∧
      (s.flag (.zn z) ZN.STATUS_TRANS = true → smGet 0 s.pwr.zoneTarget z.val < 4 →
        (s.zoneOp z.val < smGet 0 s.pwr.zoneTarget z.val → t.zoneOp z.val = s.zoneOp z.val + 1) ∧
        (smGet 0 s.pwr.zoneTarget z.val < s.zoneOp z.val → t.zoneOp z.val + 1 = s.zoneOp z.val) ∧
        t.flag (.zn z) ZN.STATUS_TRANS = decide (t.zoneOp z.val ≠ smGet 0 s.pwr.zoneTarget z.val)))) ∧
  (∀ s : State, s.pwr.descentAt = none → exec .ballastDescentStep s = .next s) ∧
  (∀ (s : State) (g : Phase), s.pwr.descentAt = some g →
    let a := s.advanceTo g
    (a.descentNext a.pwr.descentZone = none → ∃ t, exec .ballastDescentStep s = .next t ∧ t.pwr.descentAt = none ∧
      t.fld .pwr PWR.STATUS_DESCENT = 0) ∧
    (∀ z, a.descentNext a.pwr.descentZone = some z → ∃ t, exec .ballastDescentStep s = .next t ∧ t.clk = a.clk ∧
      (∀ k : Fin 8, t.fld (.zn k) ZN.STATUS_BALLAST = a.fld (.zn k) ZN.STATUS_BALLAST - if k.val = z then 1 else 0) ∧
      t.pwr.descentZone = (z + 1) % 8 ∧ t.pwr.descentAt = if t.ballastOn then some (g + a.descentGap) else none)) ∧
  (∀ (s : State) (e : Nat), (s.running = false → exec (.energyWindow e) s = .next s) ∧
    (s.running = true → ∃ t, exec (.energyWindow e) s = .next t ∧ t.pwr.lastEnergy = some e ∧
      t.fld .pwr PWR.PIN = min (e * 10) (2 ^ 32 - 1) ∧
      (∀ w x, s.shaping = true → s.declWindow s.clk.phase = some (w, x) → t.flag .pwr PWR.STATUS_SHAPING = true ∧
        ∀ z : Fin 8, t.fld (.zn z) ZN.STATUS_BALLAST = bitsOf x.ballast.toNat (4 * z.val + 3) (4 * z.val)) ∧
      (∀ w x, s.declWindow (s.clk.phase - 1) = some (w, x) → x.total * 11 < e * 10 → s.pwr.overSpan = 100 → s.pwr.overTold = false →
        t.fld .pwr PWR.EXCESS_CNT = min (s.fld .pwr PWR.EXCESS_CNT + 1) (2 ^ 64 - 1))))

/-- PMBus (R368): each command answers on the pages that it serves what the registers hold, in its format, and gets a NACK on every
other page, as all do once a wipe has failed (R381); a write to PAGE selects a page up to 9; CLEAR_FAULTS keeps a latched warning
only while its cause lasts; any other command gets a NACK and changes nothing.  The status bits, the exponent of LINEAR11 and the free
readings of the mesh rail are the model's (log 68). -/
def Obligations.PmbusAnswers : Prop :=
  (∀ (s : State) (p : BitVec 8), (s.deaf = false → p.toNat ≤ 9 →
      exec (.pmbusPage p) s = .next { s with pins := { s.pins with pmbusPage := p } }) ∧
    (s.deaf = true ∨ 9 < p.toNat → exec (.pmbusPage p) s = .next (s.send .nack))) ∧
  (∀ s : State, (s.deaf = true → exec .clearFaults s = .next (s.send .nack)) ∧
    (s.deaf = false → exec .clearFaults s = .next { s with pins := { s.pins with
      uvSeen := s.flag .pwr PWR.STATUS_UV_WARN
      ovSeen := s.flag .pwr PWR.STATUS_OV_WARN
      hotSeen := s.flag .thm THM.STATUS_HOT } })) ∧
  (∀ s : State, s.deaf = false → s.pins.pmbusPage = 0 →
    exec .statusInput s = .next (s.send (.pmbus [BitVec.ofNat 8 (s.pins.ovSeen.toNat * 64 + s.pins.uvSeen.toNat * 32)])) ∧
    exec .statusTemperature s = .next (s.send (.pmbus [BitVec.ofNat 8 (s.pins.hotSeen.toNat * 64)])) ∧
    exec .pmbusRevision s = .next (s.send (.pmbus [0x33])) ∧ exec .mfrId s = .next (s.send (.pmbus Config.mfrId)) ∧
    exec .readIin s = .next (s.send (.pmbus (leBytes 2 (linear11 (s.fld .pwr PWR.IIN : Nat) 100)))) ∧
    exec .readPin s = .next (s.send (.pmbus (leBytes 2 (linear11 (s.fld .pwr PWR.PIN : Nat) 1000)))) ∧
    exec .readTemperature2 s = .next (s.send (.pmbus (leBytes 2 (linear11 (sgn 16 (s.fld .thm THM.COOLANT)) 16)))) ∧
    exec .readTemperature1 s = .next (s.send (.pmbus (leBytes 2 (linear11 (sgn 16 (s.fld .thm THM.MAX_TEMP)) 16)))) ∧
    (∃ v, exec .readVin s = .next (s.send (.pmbus (leBytes 2 v))) ∧ v < 2 ^ 16 ∧
      (s.fld .pwr PWR.VIN ≤ 6553 → 200 * v ≤ 1024 * s.fld .pwr PWR.VIN + 100 ∧ 1024 * s.fld .pwr PWR.VIN ≤ 200 * v + 100)) ∧
    (∃ b, exec .statusWord s = .next (s.send (.pmbus (leBytes 2 b))) ∧ (bitOf b 13 = (s.pins.uvSeen || s.pins.ovSeen)) ∧
      bitOf b 2 = s.pins.hotSeen)) ∧
  (∀ (s : State) (z : Fin 8), s.deaf = false → s.pins.pmbusPage.toNat = z.val + 1 →
    (∃ t, exec .readVout s = .next t ∧ t.regs = s.regs ∧
      t.out = s.out ++ [.pmbus (leBytes 2 (linear11 (s.fld (.zn z) ZN.STATUS_RAIL : Nat) 1000))]) ∧
    (∃ t, exec .readIout s = .next t ∧ t.regs = s.regs ∧
      t.out = s.out ++ [.pmbus (leBytes 2 (linear11 (s.fld (.zn z) ZN.IRAIL : Nat) 10))]) ∧
    (∃ b, exec .statusWord s = .next (s.send (.pmbus (leBytes 2 b))) ∧ bitOf b 15 = s.flag (.zn z) ZN.STATUS_LIMIT) ∧
    exec .readTemperature1 s = .next (s.send (.pmbus (leBytes 2 (linear11 (sgn 16 (s.fld (.zn z) ZN.STATUS_TEMP)) 16))))) ∧
  (∀ (s : State) (c : Instr), s.deaf = false → s.pins.pmbusPage = 9 → c ∈ [Instr.readVout, Instr.readIout, Instr.statusWord] →
    ∃ t v, exec c s = .next t ∧ t.regs = s.regs ∧ t.out = s.out ++ [.pmbus (leBytes 2 v)]) ∧
  (∀ (s : State) (c : Instr), s.deaf = true ∨ s.pins.pmbusPage.toNat ≠ 0 → c ∈ [Instr.statusInput, Instr.statusTemperature,
    Instr.readVin, Instr.readIin, Instr.readTemperature2, Instr.readPin, Instr.pmbusRevision, Instr.mfrId] →
    exec c s = .next (s.send .nack)) ∧
  (∀ s : State,
    (s.deaf = true ∨ 8 < s.pins.pmbusPage.toNat → exec .readTemperature1 s = .next (s.send .nack)) ∧
    (s.deaf = true ∨ 9 < s.pins.pmbusPage.toNat → exec .statusWord s = .next (s.send .nack)) ∧
    (s.deaf = true ∨ s.pins.pmbusPage = 0 ∨ 9 < s.pins.pmbusPage.toNat → ∀ c ∈ [Instr.readVout, Instr.readIout], ∃ t,
      exec c s = .next t ∧ t.regs = s.regs ∧ t.out = s.out ++ [.nack])) ∧
  (∀ (s : State) (code : BitVec 8) (write : Bool), exec (.pmbusUnsupported code write) s = .next (s.send .nack))

/-! Security and attestation. -/

/-- The security controller (R376, R378, R379, R381, R382, R384, R388): the commands of a write to SEC_CTRL act lower bits first; a token
that is not accepted is counted, changes no fuse and costs the nonce; an accepted transition raises the life cycle by one, and a module
reset follows, with the bonded store empty unless the wipe fails; an accepted enrolment programs the owner and wipes nothing; SVN_COMMIT
never lowers the thermometer; a REC_WRITE outside RECOVERY writes no flash, and in it copies HBM to the slot; while a step is armed or
runs every command is ignored and counted; tamper wipes, and holds the module until its end; a generated tree, of fresh randomness
and signed under the last LMS1 index, starts at leaf 0. -/
def Obligations.SecurityCommandsFollow : Prop :=
  (∀ (s : State) (w : RegW) (c : Instr), c ∈ [Instr.lcApply w, Instr.svnCommit w, Instr.recWrite w] →
    let s0 := onlyIf (wHits w COM.CNT_CLR) (fun s => s.clearCounters .sec) s
    let p := s0.store .sec 0x010 w
    let lc := wHits w SEC.CTRL_LC_APPLY
    let svn := wHits w SEC.CTRL_SVN_COMMIT
    let rec_ := wHits w SEC.CTRL_REC_WRITE
    let busy := [schArmed, schRunning, schVerdict, schCommit].contains s.schState
    (s.answers .sec = false ∨ s.deaf = true → exec c s = .next s) ∧
    (s.answers .sec = true → s.deaf = false → s.testing = true → exec c s = .next s0) ∧
    (s.reaches .sec = true → exec c s = .next (onlyIf rec_ (State.secCommand State.recoverSlot)
      (onlyIf svn (State.secCommand State.commitSvn) (onlyIf lc (State.secCommand State.applyToken) p)))) ∧
    (s.reaches .sec = true → busy = true → ∃ t, exec c s = .next t ∧ t.sec = s.sec ∧ t.fld .sec SEC.CMD_IGNORED_CNT =
      min (s0.fld .sec SEC.CMD_IGNORED_CNT + (lc.toNat + svn.toNat + rec_.toNat)) (2 ^ 64 - 1)) ∧
    (s.reaches .sec = true → busy = false → svn = true → lc = false → rec_ = false → ∃ t, exec c s = .next t ∧
      t.sec = { s.sec with otp := { s.sec.otp with svn := t.sec.otp.svn } } ∧
      t.sec.otp.svn.val = max s.sec.otp.svn.val (min (s.fld .sec SEC.SVN_RUNNING) 64)) ∧
    (s.reaches .sec = true → busy = false → rec_ = true → lc = false → svn = false →
      (s.stage ≠ stageRecovery → exec c s = .next p) ∧
      (s.stage = stageRecovery → ∃ t, exec c s = .next t ∧ t.sec.otp = s.sec.otp ∧ t.sec.flash =
        flashPut s.sec.flash (slotBase (s.fld .sec SEC.REC_SLOT))
          (p.readMem false 0 .inter [] s.tokenAddr (min (s.fld .sec SEC.REC_LEN) (2 ^ 24))).1.data)) ∧
    (s.reaches .sec = true → busy = false → lc = true → svn = false → rec_ = false →
      let r := p.readMem false 0 .inter [] s.tokenAddr (tokenLen + sigLen)
      let v := leNat (r.1.data.take tokenLen)
      let ok := !r.1.poison && r.2.tokenOk v (r.1.data.take tokenLen) (r.1.data.drop tokenLen)
      (ok = false → ∃ t, exec c s = .next t ∧ t.sec = s.sec ∧ t.stage = s.stage ∧
        t.fld .sec SEC.LC_NONCE = (Config.freeReg r.2.fresh).toNat ∧
        t.fld .sec SEC.TOKEN_BAD_CNT = min (s0.fld .sec SEC.TOKEN_BAD_CNT + 1) (2 ^ 64 - 1)) ∧
      (ok = true → bitsOf v 39 32 = 1 → ∃ t, exec c s = .next t ∧ t.sec.otp = s.sec.otp.take v ∧
        t.sec.otp.lc = s.sec.otp.lc + 1 ∧ t.stage = 0 ∧
        (Config.wipeFails r.2.fresh = false → t.sec.bonded = Bonded.initial ∧ t.deaf = false ∧
          t.fld .bst BST.LAST_RESET_SOURCE = fromLifeCycle) ∧
        (Config.wipeFails r.2.fresh = true → t.deaf = true ∧ t.alertLow = true)) ∧
      (ok = true → bitsOf v 39 32 ≠ 1 → ∃ t, exec c s = .next t ∧ t.sec.otp = { s.sec.otp with
          ownerEcdsa := s.sec.otp.ownerEcdsa ||| BitVec.ofNat 384 (bitsOf v 575 192)
          ownerLms := s.sec.otp.ownerLms ||| BitVec.ofNat 384 (bitsOf v 959 576)
          forceSigned := s.sec.otp.forceSigned || bitOf v 960
          ownerValid := true } ∧
        t.sec.bonded = s.sec.bonded ∧ t.stage = 0 ∧ t.fld .bst BST.LAST_RESET_SOURCE = fromLifeCycle))) ∧
  (∀ (s : State) (c : TamperSource),
    let held := s.flag .sec SEC.STATUS_TAMPER_HOLD
    (s.deaf = true ∨ s.detects c = false → exec (.tamper c) s = .next s) ∧
    (s.deaf = false → s.detects c = true → ∃ t, exec (.tamper c) s = .next t ∧
      t.flag .sec SEC.STATUS_TAMPER_HOLD = true ∧ t.stage = 0 ∧ t.ht = 0 ∧ t.startHeld = true ∧ t.alertLow = true ∧
      t.fld .sec SEC.TAMPER_CNT = min ((if held then s.fld .sec SEC.TAMPER_CNT else 0) + 1) (2 ^ 64 - 1) ∧
      t.fld .sec SEC.TAMPER_FIRST = (if held then s.fld .sec SEC.TAMPER_FIRST
        else TamperSource.code c + 2 ^ 15 + s.ht % 2 ^ 48 * 2 ^ 16) ∧
      (Config.wipeFails s.fresh = false → t.sec.bonded = Bonded.initial ∧ t.deaf = false) ∧
      (Config.wipeFails s.fresh = true → t.deaf = true))) ∧
  (∀ s : State, (s.flag .sec SEC.STATUS_TAMPER_HOLD = false ∨ s.deaf = true → exec .tamperEnd s = .next s) ∧
    (s.flag .sec SEC.STATUS_TAMPER_HOLD = true → s.deaf = false → ∃ t, exec .tamperEnd s = .next t ∧
      t.flag .sec SEC.STATUS_TAMPER_HOLD = false ∧ t.pins.fatalAlert = false ∧ t.boot.startAt = s.clk.phase ∧
      t.fld .bst BST.LAST_RESET_SOURCE = fromTamper)) ∧
  (∀ s : State, (s.sec.growing = false → exec .lmsTreeGenerated s = .next s) ∧
    (s.sec.growing = true → ∃ t, exec .lmsTreeGenerated s = .next t ∧ t.sec.bonded.leaf = some 0 ∧
      t.sec.bonded.tree = some (idTree s.sec.bonded.cdi0 (s.sec.otp.lms1 - 1) (Config.freeReg s.fresh ++
        Config.freeReg (s.fresh + 1) ++ Config.freeReg (s.fresh + 2) ++ Config.freeReg (s.fresh + 3))) ∧
      t.sec.growing = false ∧ t.sec.otp = s.sec.otp))

/-- Attestation (R384, R386, R387): each request is answered while Zhexal runs, and by nothing otherwise; a signed answer uses the next
leaf before it leaves, counts, keeps the signature under its handle among the last sixteen and is over the nonce and the measurements;
an HSS signature of a generated tree is 5,332 bytes long; the last leaf ends the tree, which is a cold boot; without a tree the answer is
that it is not ready, or an error once no index is left; and a kept handle gives back its signature.  What else the signed message holds
is the model's (log 69). -/
def Obligations.AttestationAnswers : Prop :=
  (∀ s : State, s.zhexalRuns = true → exec .getVersion s = .next (s.send (.spdm .version)) ∧
    exec .getCapabilities s = .next (s.send (.spdm .capabilities)) ∧
    exec .negotiateAlgorithms s = .next (s.send (.spdm .algorithms)) ∧
    exec .getDigests s = .next (s.send (.spdm (.digests (sha384 s.chain)))) ∧
    (∀ off len : BitVec 16, ∃ part left, exec (.getCertificate off len) s = .next (s.send (.spdm (.certificate part left))) ∧
      part = (s.chain.drop off.toNat).take len.toNat ∧ (off.toNat + len.toNat ≤ s.chain.length →
        part.length = len.toNat ∧ off.toNat + len.toNat + left = s.chain.length))) ∧
  (∀ (s : State) (nonce : BitVec 256) (c : Instr) (blocks : List (List Byte)), s.zhexalRuns = true →
    (c, blocks) ∈ [(.challenge nonce, []), (.getMeasurements nonce, s.measurements)] →
    (s.sec.bonded.tree = none ∨ s.sec.bonded.leaf = none →
      exec c s = .next (s.send (.spdm (if s.flag .sec SEC.STATUS_LMS_EXHAUSTED then .error else .notReady)))) ∧
    (∀ tree leaf, s.sec.bonded.tree = some tree → s.sec.bonded.leaf = some leaf →
      let msg := leBytes 32 nonce.toNat ++ blocks.flatten
      let hss := hssSignature tree leaf msg
      let handle := Config.freeReg s.fresh ++ Config.freeReg (s.fresh + 1)
      ∃ t mid, exec c s = .next t ∧ t.fld .sec SEC.SIGN_CNT = min (s.fld .sec SEC.SIGN_CNT + 1) (2 ^ 64 - 1) ∧
        t.sec.handles = ((handle, hss) :: s.sec.handles).take 16 ∧
        t.out = s.out ++ mid ++
          [.spdm (.signed blocks (Config.ecdsaSign (Config.aliasKey s.sec.bonded.cdi1) msg) handle (sha384 hss))] ∧
        (leaf + 1 < 65536 → t.sec.bonded = { s.sec.bonded with leaf := some (leaf + 1) } ∧ mid = []) ∧
        (65536 ≤ leaf + 1 → t.sec.bonded.tree = none ∧ t.sec.bonded.leaf = none ∧
          (s.sec.otp.lms1 ≠ 4096 → t.sec.growing = true ∧ t.sec.otp.lms1 = s.sec.otp.lms1 + 1)))) ∧
  (∀ (cdi0 : BitVec 384) (index leaf : Nat) (seed : BitVec 256) (msg : List Byte),
    (hssSignature (idTree cdi0 index seed) leaf msg).length = 5332) ∧
  (∀ (s : State) (h : BitVec 128), s.zhexalRuns = true → exec (.vendorDefinedRequest h) s = .next (s.send (.spdm
    (match s.sec.handles.find? (fun x => x.1 = h) with
      | some x => .signature x.2
      | none => .error)))) ∧
  (∀ (s : State) (nonce : BitVec 256) (h : BitVec 128) (off len : BitVec 16) (c : Instr), s.zhexalRuns = false →
    c ∈ [.getVersion, .getCapabilities, .negotiateAlgorithms, .getDigests, .getCertificate off len, .challenge nonce,
      .getMeasurements nonce, .vendorDefinedRequest h] → exec c s = .next s)

/-! Resets and start-up. -/

/-- Resets (R236, R389 to R392, R418): a power-on reset leaves every register at its reset value but the nonce, and the bonded store empty;
a module reset keeps flash, fuses and bonded store, ends a hard stop, and is absorbed while a power-on reset runs, and PERST# holds the
module in it until it is released; a core reset empties the scheduler, the tiles and the engines, and leaves hall time, the links and
HBM; a fabric reset takes every port that is in use DOWN, and leaves a scheduler in a step HELD; both of one write run; neither is taken
inside a wider reset; each ends in its event. -/
def Obligations.ResetsReachTheirScopes : Prop :=
  (∀ s : State, ∃ t, exec .powerOn s = .next t ∧ t.stage = 0 ∧ t.ht = 0 ∧ t.sec.bonded = Bonded.initial ∧ t.sec.otp = s.sec.otp ∧
    t.sec.flash = s.sec.flash ∧ t.mem = Mems.initial ∧ t.sch = Sched.initial ∧
    ∀ a, a ≠ fldAddr .sec SEC.LC_NONCE → t.reg a = regReset a) ∧
  (∀ s : State, ∃ t, exec .perstAssert s = .next t ∧ t.boot.perst = true ∧ t.stage = 0 ∧ t.ht = 0 ∧ t.startHeld = true ∧
    t.sec.bonded = s.sec.bonded ∧ t.sec.otp = s.sec.otp ∧ t.sec.flash = s.sec.flash ∧ t.mem = Mems.initial ∧
    (s.powerOning = true → t.boot.powerStart = true) ∧
    (s.powerOning = false → t.pwr.hardStop = false ∧ t.fld .bst BST.LAST_RESET_SOURCE = fromPerst)) ∧
  (∀ s : State, (s.boot.perst = false → exec .perstRelease s = .next s) ∧ (s.boot.perst = true →
    exec .perstRelease s = .next { s with boot := { s.boot with perst := false, startAt := s.clk.phase } })) ∧
  (∀ (s : State) (w : RegW) (c : Instr), c ∈ [Instr.moduleReset w, Instr.coreReset w, Instr.fabricReset w] →
    let s0 := onlyIf (wHits w COM.CNT_CLR) (fun s => s.clearCounters .glb) s
    let module_ := wHits w GLB.CTRL_MODULE_RESET
    let core := wHits w GLB.CTRL_CORE_RESET
    let fabric := wHits w GLB.CTRL_FABRIC_RESET
    (s.answers .glb = false ∨ s.deaf = true → exec c s = .next s) ∧
    (s.answers .glb = true → s.deaf = false → module_ = true → s.powerOning = true → s.pwr.hardStop = false →
      exec c s = .next s0) ∧
    (s.answers .glb = true → s.deaf = false → module_ = true → s.powerOning = false ∨ s.pwr.hardStop = true → ∃ t,
      exec c s = .next t ∧ t.stage = 0 ∧ t.ht = 0 ∧ t.sec.bonded = s.sec.bonded ∧ t.sec.flash = s.sec.flash ∧
      t.sec.otp = s.sec.otp ∧ t.mem = Mems.initial ∧ t.pwr.hardStop = false ∧
      t.boot.coolFirst = (s.boot.coolFirst || s.pwr.hardStop) ∧ t.fld .bst BST.LAST_RESET_SCOPE = scopeModule ∧
      t.fld .bst BST.LAST_RESET_SOURCE = fromGlb ∧ t.fld .bst BST.LAST_RESET_HT = s.ht % 2 ^ 48) ∧
    (s.answers .glb = true → s.deaf = false → module_ = false → s.stage ≠ stageReady ∨ (core = false ∧ fabric = false) →
      exec c s = .next (s0.watchReady s)) ∧
    (s.answers .glb = true → s.deaf = false → module_ = false → s.stage = stageReady → core = true → fabric = false → ∃ t,
      exec c s = .next t ∧ t.sch = Sched.initial ∧ t.tiles = Tiles.initial ∧ t.coop = Coop.initial ∧
      t.ltr = Lauter.initial ∧ t.kln = Kilns.initial ∧ t.rack = Racks.initial ∧ t.hyd = Hyd.initial ∧ t.fronts = [] ∧ t.mem = s.mem ∧
      t.htm = s.htm ∧ t.clk = s.clk ∧ t.boot.coreBusy = true ∧ (∀ p : Fin 12, t.portState p.val = s.portState p.val) ∧
      t.fld .bst BST.LAST_RESET_SCOPE = scopeCore) ∧
    (s.answers .glb = true → s.deaf = false → module_ = false → s.stage = stageReady → core = false → fabric = true → ∃ t,
      exec c s = .next t ∧ t.boot.fabricBusy = true ∧ t.sch.regime = .none ∧
      (∀ p : Fin 12, t.portState p.val = if s.portState p.val = portDisabled then portDisabled else portDown) ∧
      t.fld .bst BST.LAST_RESET_SCOPE = scopeFabric ∧
      (s.sch.regime = .none → t.mem = s.mem ∧ t.tiles = s.tiles ∧ t.fab.flight = [] ∧ t.fab.latches = [] ∧
        t.fab.channels = s.fab.channels) ∧
      (s.sch.regime ≠ .none → t.schState = schHeld ∧ t.sch.img = s.sch.img)) ∧
    (s.answers .glb = true → s.deaf = false → module_ = false → s.stage = stageReady → core = true → fabric = true → ∃ t,
      exec c s = .next t ∧ t.boot.coreBusy = true ∧ t.boot.fabricBusy = true ∧ t.sch = Sched.initial ∧
      t.tiles = Tiles.initial ∧ t.mem = s.mem ∧ t.fab.flight = [] ∧ t.fld .bst BST.LAST_RESET_SCOPE = scopeBoth)) ∧
  (∀ s : State, (s.boot.coreBusy = false → exec .coreDone s = .next s) ∧
    (s.boot.coreBusy = true → ∃ t, exec .coreDone s = .next t ∧ t.boot.coreBusy = false ∧
      bitOf (t.fld .bst COM.EVENT) BST.EV_CORE_DONE = true ∧ t.tiles.readyAt = some s.clk.phase ∧
      t.fld .bst BST.CORE_RESET_CNT = min (s.fld .bst BST.CORE_RESET_CNT + 1) (2 ^ 64 - 1) ∧
      (s.boot.coreByFlr = true → bitOf (t.fld .hif COM.EVENT) HIF.EV_FLR = true) ∧
      (∀ k : Fin 8, s.fld (.mem k) MEM.STATUS_STATE = memSelfRefresh → t.fld (.mem k) MEM.STATUS_STATE = memReady))) ∧
  (∀ s : State, (s.boot.fabricBusy = false → exec .fabricDone s = .next s) ∧
    (s.boot.fabricBusy = true → ∃ t, exec .fabricDone s = .next t ∧ t.boot.fabricBusy = false ∧
      bitOf (t.fld .bst COM.EVENT) BST.EV_FABRIC_DONE = true ∧
      t.fld .bst BST.FABRIC_RESET_CNT = min (s.fld .bst BST.FABRIC_RESET_CNT + 1) (2 ^ 64 - 1) ∧
      (∀ p : Fin 12, t.portState p.val = if s.flag (.lnk p) LNK.CTRL_ENABLE then portTraining else portDisabled)))

/-- Start-up (R375, R384, R394 to R400): the rails lead to verification, unless something holds the module; a slot that passes runs,
one that fails is counted and the other is tried, and after both the module is in RECOVERY; a start without a tree takes the next
LMS1 index; a valid record of the self-test spares it, any other start tests the blocks, and a failed block is marked; a stack's
training ends READY or failed; when all have ended the module is READY and offers its features; SHUTDOWN at READY, with no step armed or
running, halts it for the self-test, whose record is written after the last block, and is otherwise ignored and counted; RETEST consumes
a record. -/
def Obligations.StartUpRuns : Prop :=
  (∀ (s : State) (a b c : Fin 3),
    (s.stage ≠ stageAux ∨ s.startHeld = true → exec (.auxRailsUp a b c) s = .next s) ∧
    (s.stage = stageAux → s.startHeld = false → ∃ t, exec (.auxRailsUp a b c) s = .next t ∧
      t.stage = stageRom ∧ t.boot.straps = a.val + 3 * b.val + 9 * c.val ∧ t.boot.trySlot = 0)) ∧
  (∀ s : State, (s.stage ≠ stageRom → exec .bootVerify s = .next s) ∧
    (s.stage = stageRom → s.slotOk s.boot.trySlot = true → ∃ t, exec .bootVerify s = .next t ∧
      t.stage = stageFirmware ∧ t.fld .sec SEC.STATUS_SLOT = s.boot.trySlot % 2 ∧
      t.sec.fsDigest = sha384 (s.imageBytes (slotBase s.boot.trySlot)) ∧
      t.sec.zxDigest = sha384 (s.imageBytes (s.zhexalAt s.boot.trySlot))) ∧
    (s.stage = stageRom → s.slotOk s.boot.trySlot = false → ∃ t, exec .bootVerify s = .next t ∧
      t.fld .sec SEC.BOOT_FAIL_CNT = min (s.fld .sec SEC.BOOT_FAIL_CNT + 1) (2 ^ 64 - 1) ∧
      (s.boot.trySlot = 0 → t.stage = stageRom ∧ t.boot.trySlot = 1) ∧
      (s.boot.trySlot ≠ 0 → t.stage = stageRecovery ∧ t.flag .sec SEC.STATUS_RECOVERY = true))) ∧
  (∀ s : State, (s.stage ≠ stageFirmware → exec .firmwareStart s = .next s) ∧
    (s.stage = stageFirmware → ∃ t, exec .firmwareStart s = .next t ∧
      (s.sec.bonded.leaf = none → s.sec.otp.lms1 ≠ 4096 → t.sec.growing = true ∧ t.sec.otp.lms1 = s.sec.otp.lms1 + 1) ∧
      (s.sec.bonded.leaf = none → s.sec.otp.lms1 = 4096 → t.flag .sec SEC.STATUS_LMS_EXHAUSTED = true) ∧
      (s.recordValid = true → t.stage = stageTraining ∧ t.flag .bst BST.STATUS_RECORD_USED = true ∧ t.recordValid = false ∧
        ∀ k : Fin 8, t.fld (.mem k) MEM.STATUS_STATE = memTraining) ∧
      (s.recordValid = false → t.stage = stageSelftest ∧ t.flag .bst BST.STATUS_TEST_AT_START = true ∧ t.boot.nextBlock = 0))) ∧
  (∀ (s : State) (r : TestResult),
    let on : Bool := (s.stage = stageSelftest || s.stage = stageShutdown) && decide (s.boot.nextBlock < 142)
    (on = false → exec (.selftestBlockDone r) s = .next s) ∧
    (on = true → ∃ t, exec (.selftestBlockDone r) s = .next t ∧ t.boot.nextBlock = s.boot.nextBlock + 1 ∧
      t.stage = (if s.boot.nextBlock = 141 ∧ s.stage = stageSelftest then stageTraining else s.stage) ∧
      bitOf (t.fld .bst (BST.RESULT (s.boot.nextBlock / 64))) (s.boot.nextBlock % 64) = decide (r = .fail) ∧
      (r = .fail → t.flag .bst BST.STATUS_FAILED = true))) ∧
  (∀ (s : State) (k : Fin 8) (r : TestResult),
    (s.fld (.mem k) MEM.STATUS_STATE ≠ memTraining → exec (.hbmTrainingDone k r) s = .next s) ∧
    (s.fld (.mem k) MEM.STATUS_STATE = memTraining → ∃ t, exec (.hbmTrainingDone k r) s = .next t ∧
      t.fld (.mem k) MEM.STATUS_STATE = (if r = .pass then memReady else memFail) ∧ t.boot.trained = s.boot.trained ++ [k.val])) ∧
  (∀ s : State, (s.stage ≠ stageTraining ∨ s.boot.trained.length ≠ 8 → exec .ready s = .next s) ∧
    (s.stage = stageTraining → s.boot.trained.length = 8 → ∃ t, exec .ready s = .next t ∧ t.stage = stageReady ∧
      t.fld .glb GLB.FEAT_OFFER = s.offer ∧ bitOf (t.fld .bst COM.EVENT) BST.EV_READY = true ∧
      t.tiles.readyAt = some s.clk.phase ∧ t.boot.powerStart = false)) ∧
  (∀ (s : State) (w : RegW) (c : Instr), c ∈ [Instr.shutdown w, Instr.retest w] →
    let s0 := onlyIf (wHits w COM.CNT_CLR) (fun s => s.clearCounters .bst) s
    let p := s0.store .bst 0x010 w
    let down := wHits w BST.CTRL_SHUTDOWN
    let again := wHits w BST.CTRL_RETEST
    let ready : Bool := s.stage = stageReady && [schEmpty, schLoaded, schHeld].contains s.schState
    (s.answers .bst = false ∨ s.deaf = true → exec c s = .next s) ∧
    (s.answers .bst = true → s.deaf = false → s.testing = true → exec c s = .next s0) ∧
    (s.reaches .bst = true → exec c s = .next (onlyIf again State.retest (onlyIf down State.shutdown p))) ∧
    (s.reaches .bst = true → down = true → ready = true → ∃ t, exec c s = .next t ∧
      t.stage = stageShutdown ∧ t.boot.nextBlock = 0 ∧ t.recordErased = true) ∧
    (s.reaches .bst = true → down = true → ready = false → ∃ t, exec c s = .next t ∧ t.stage = s.stage ∧
      t.fld .bst BST.CMD_IGNORED_CNT = min (s0.fld .bst BST.CMD_IGNORED_CNT + 1) (2 ^ 64 - 1)) ∧
    (s.reaches .bst = true → down = false → again = true → s.stage = stageReady → s.recordValid = true → ∃ t,
      exec c s = .next t ∧ t.recordValid = false ∧ t.stage = stageReady)) ∧
  (∀ s : State, (s.stage ≠ stageShutdown ∨ s.boot.nextBlock ≠ 142 → exec .selftestRecordWrite s = .next s) ∧
    (s.stage = stageShutdown → s.boot.nextBlock = 142 → ∃ t, exec .selftestRecordWrite s = .next t ∧
      t.stage = stageDone ∧ t.sec.flash = flashPut s.sec.flash recordAt s.recordBytes ∧
      bitOf (t.fld .bst COM.EVENT) BST.EV_SHUTDOWN_DONE = true))
end

