-- ==== Sys2Proof/Laws/Store.lean ====
section
/-! SUPPORT. Laws of the sparse stores: a read after a write, and the canonical form that every store operation keeps. -/
namespace Sys2Proof.Machine

variable {α : Type}

/-! A read after a write. -/

theorem smGet_smPut_same (d : α) (m : SMap α) (k : Nat) (v : α) : smGet d (smPut m k v) k = v := by
  induction m with
  | nil => simp [smPut, smGet]
  | cons e t ih =>
    simp only [smPut]
    split
    · simp [smGet]
    · split
      · simp [smGet]
      · next h _ => simp [smGet, h, ih]

theorem smGet_smPut_other (d : α) (m : SMap α) {k j : Nat} (v : α) (h : j ≠ k) : smGet d (smPut m k v) j = smGet d m j := by
  induction m with
  | nil => simp [smPut, smGet, h]
  | cons e t ih =>
    simp only [smPut]
    split
    · next hk => subst hk; simp [smGet, h]
    · split
      · simp [smGet, h]
      · simp [smGet, ih]

theorem smGet_smDel_same (d : α) (m : SMap α) (k : Nat) : smGet d (smDel m k) k = d := by
  induction m with
  | nil => rfl
  | cons e t ih =>
    simp only [smDel]
    split
    · exact ih
    · next h => simp [smGet, h, ih]

theorem smGet_smDel_other (d : α) (m : SMap α) {k j : Nat} (h : j ≠ k) : smGet d (smDel m k) j = smGet d m j := by
  induction m with
  | nil => rfl
  | cons e t ih =>
    simp only [smDel]
    split
    · next hk => subst hk; simp [smGet, h, ih]
    · simp [smGet, ih]

/-- A read after a write to the same key gives the value written. -/
@[simp] theorem smGet_smSet_same [DecidableEq α] (d : α) (m : SMap α) (k : Nat) (v : α) : smGet d (smSet d m k v) k = v := by
  unfold smSet
  split
  · next h => rw [smGet_smDel_same, h]
  · exact smGet_smPut_same d m k v

/-- A write leaves every other key alone. -/
theorem smGet_smSet_other [DecidableEq α] (d d' : α) (m : SMap α) {k j : Nat} (v : α) (h : j ≠ k) :
    smGet d (smSet d' m k v) j = smGet d m j := by
  unfold smSet
  split
  · exact smGet_smDel_other d m h
  · exact smGet_smPut_other d m v h

@[simp] theorem smGet_nil (d : α) (k : Nat) : smGet d [] k = d := rfl

/-! Canonical form. -/

/-- Whether every key of a store lies above `a`, as its first entry shows. -/
def headAbove (a : Nat) : SMap α → Bool
  | [] => true
  | (b, _) :: _ => decide (a < b)

theorem smWf_cons [DecidableEq α] (d : Nat → α) (e : Nat × α) (t : SMap α) :
    smWf d (e :: t) = (decide (e.2 ≠ d e.1) && headAbove e.1 t && smWf d t) := by
  obtain ⟨a, v⟩ := e
  cases t with
  | nil => simp [smWf, headAbove]
  | cons f u => obtain ⟨b, w⟩ := f; simp [smWf, headAbove]

theorem headAbove_trans {a b : Nat} (m : SMap α) (h : a < b) (hb : headAbove b m = true) : headAbove a m = true := by
  cases m with
  | nil => rfl
  | cons e t => simp [headAbove] at *; omega

theorem headAbove_smDel [DecidableEq α] {d : Nat → α} {a : Nat} {m : SMap α} (k : Nat) (hw : smWf d m = true)
    (h : headAbove a m = true) : headAbove a (smDel m k) = true := by
  induction m with
  | nil => rfl
  | cons e t ih =>
    rw [smWf_cons] at hw
    simp only [Bool.and_eq_true] at hw
    have ha : a < e.1 := by simpa [headAbove] using h
    simp only [smDel]
    split
    · exact ih hw.2 (headAbove_trans t ha hw.1.2)
    · simpa [headAbove] using h

theorem smWf_smDel [DecidableEq α] {d : Nat → α} {m : SMap α} (k : Nat) (hw : smWf d m = true) :
    smWf d (smDel m k) = true := by
  induction m with
  | nil => rfl
  | cons e t ih =>
    have hw' := hw
    rw [smWf_cons] at hw'
    simp only [Bool.and_eq_true] at hw'
    simp only [smDel]
    split
    · exact ih hw'.2
    · rw [smWf_cons]
      simp only [Bool.and_eq_true]
      exact ⟨⟨hw'.1.1, headAbove_smDel k hw'.2 hw'.1.2⟩, ih hw'.2⟩

theorem headAbove_smPut {a k : Nat} {m : SMap α} (v : α) (hk : a < k) (h : headAbove a m = true) :
    headAbove a (smPut m k v) = true := by
  cases m with
  | nil => simpa [smPut, headAbove] using hk
  | cons e t =>
    simp only [smPut]
    split
    · simpa [headAbove] using hk
    · split
      · simpa [headAbove] using hk
      · simpa [headAbove] using h

theorem smWf_smPut [DecidableEq α] {d : Nat → α} {m : SMap α} {k : Nat} {v : α} (hw : smWf d m = true) (hv : v ≠ d k) :
    smWf d (smPut m k v) = true := by
  induction m with
  | nil => simp [smPut, smWf, hv]
  | cons e t ih =>
    have hw' := hw
    rw [smWf_cons] at hw'
    simp only [Bool.and_eq_true] at hw'
    simp only [smPut]
    split
    · next hk =>
      rw [smWf_cons]
      simp only [Bool.and_eq_true]
      exact ⟨⟨by simpa using hv, by rw [hk]; exact hw'.1.2⟩, hw'.2⟩
    · split
      · next hlt =>
        rw [smWf_cons]
        simp only [Bool.and_eq_true]
        exact ⟨⟨by simpa using hv, by simpa [headAbove] using hlt⟩, hw⟩
      · next hne hlt =>
        rw [smWf_cons]
        simp only [Bool.and_eq_true]
        exact ⟨⟨hw'.1.1, headAbove_smPut v (by omega) hw'.1.2⟩, ih hw'.2⟩

/-- A write keeps the canonical form. -/
theorem smWf_smSet [DecidableEq α] {d : Nat → α} {m : SMap α} (k : Nat) (v : α) (hw : smWf d m = true) :
    smWf d (smSet (d k) m k v) = true := by
  unfold smSet
  split
  · exact smWf_smDel k hw
  · next h => exact smWf_smPut hw h

theorem headAbove_filter [DecidableEq α] {d : Nat → α} {a : Nat} {m : SMap α} (p : Nat × α → Bool) (hw : smWf d m = true)
    (h : headAbove a m = true) : headAbove a (m.filter p) = true := by
  induction m with
  | nil => rfl
  | cons e t ih =>
    rw [smWf_cons] at hw
    simp only [Bool.and_eq_true] at hw
    have ha : a < e.1 := by simpa [headAbove] using h
    rw [List.filter_cons]
    split
    · simpa [headAbove] using h
    · exact ih hw.2 (headAbove_trans t ha hw.1.2)

/-- Leaving entries out keeps the canonical form. -/
theorem smWf_filter [DecidableEq α] {d : Nat → α} {m : SMap α} (p : Nat × α → Bool) (hw : smWf d m = true) :
    smWf d (m.filter p) = true := by
  induction m with
  | nil => rfl
  | cons e t ih =>
    rw [smWf_cons] at hw
    simp only [Bool.and_eq_true] at hw
    rw [List.filter_cons]
    split
    · rw [smWf_cons]
      simp only [Bool.and_eq_true]
      exact ⟨⟨hw.1.1, headAbove_filter p hw.2 hw.1.2⟩, ih hw.2⟩
    · exact ih hw.2

/-- Every memory operation keeps the canonical form: a store of bytes. -/
theorem memSet_wf {m : List Host.Cell} (a : Nat) (bs : List Byte) (hw : Memory.wf m = true) :
    Memory.wf (memSet m a bs) = true := by
  induction bs generalizing m a with
  | nil => exact hw
  | cons b t ih => exact ih (a + 1) (smWf_smSet (d := fun _ => (0 : Byte)) a b hw)

theorem smFill_wf [DecidableEq α] {d : α} {m : SMap α} (a n : Nat) (v : α) (hw : smWf (fun _ => d) m = true) :
    smWf (fun _ => d) (smFill d m a n v) = true := by
  induction n generalizing m a with
  | zero => exact hw
  | succ n ih => exact ih (a + 1) (smWf_smSet (d := fun _ => d) a v hw)

theorem smDrop_wf [DecidableEq α] {d : Nat → α} {m : SMap α} (p : Nat → Bool) (hw : smWf d m = true) :
    smWf d (smDrop p m) = true := smWf_filter _ hw

/-- A byte outside a store of bytes is left alone. -/
theorem smGet_memSet_outside (m : List Host.Cell) (a : Nat) (bs : List Byte) {j : Nat} (h : j < a ∨ a + bs.length ≤ j) :
    smGet (0 : Byte) (memSet m a bs) j = smGet 0 m j := by
  induction bs generalizing m a with
  | nil => rfl
  | cons b t ih =>
    simp only [memSet]
    rw [ih]
    · exact smGet_smSet_other _ _ _ _ (by simp at h; omega)
    · simp at h; omega

theorem smGet_memSet_inside (m : List Host.Cell) (a : Nat) (bs : List Byte) {i : Nat} (h : i < bs.length) :
    smGet (0 : Byte) (memSet m a bs) (a + i) = bs[i] := by
  induction bs generalizing m a i with
  | nil => simp at h
  | cons b t ih =>
    simp only [memSet]
    cases i with
    | zero => rw [smGet_memSet_outside _ _ _ (by omega)]; simp
    | succ n =>
      have := ih (m := smSet 0 m a b) (a := a + 1) (i := n) (by simpa using h)
      rw [show a + (n + 1) = a + 1 + n by omega, this]; simp

/-- Reading back the bytes that were stored. -/
theorem memGet_memSet_same (m : List Host.Cell) (a : Nat) (bs : List Byte) : memGet (memSet m a bs) a bs.length = bs := by
  apply List.ext_getElem
  · simp [memGet]
  · intro i h1 h2
    simpa [memGet] using smGet_memSet_inside m a bs h2

end Sys2Proof.Machine
end

