-- ==== Sys2Proof/Laws/Regs.lean ====
section
/-! SUPPORT. Laws of registers and their fields: a read after a write, and what a write leaves alone. -/
namespace Sys2Proof.Machine

/-! Whole registers. -/

@[simp] theorem State.reg_setReg_same (s : State) (a : Nat) (v : Reg) : (s.setReg a v).reg a = v := by
  simp [State.reg, State.setReg]

theorem State.reg_setReg_other (s : State) {a b : Nat} (v : Reg) (h : b ≠ a) : (s.setReg a v).reg b = s.reg b := by
  simp only [State.reg, State.setReg]
  exact smGet_smSet_other _ _ _ _ h

/-! Bits of numbers. -/

theorem bitsOf_lt (v hi lo : Nat) : bitsOf v hi lo < 2 ^ (hi + 1 - lo) := Nat.mod_lt _ (Nat.two_pow_pos _)

/-- A number splits at a field into what is below it, the field, and what is above it. -/
theorem bitsOf_split (v : Nat) {hi lo : Nat} (h : lo ≤ hi) :
    v = v % 2 ^ lo + bitsOf v hi lo * 2 ^ lo + v / 2 ^ (hi + 1) * 2 ^ (hi + 1) := by
  have e : 2 ^ (hi + 1) = 2 ^ lo * 2 ^ (hi + 1 - lo) := by rw [← Nat.pow_add]; congr 1; omega
  have h1 := Nat.mod_add_div v (2 ^ lo)
  have h2 := Nat.mod_add_div (v / 2 ^ lo) (2 ^ (hi + 1 - lo))
  rw [Nat.div_div_eq_div_mul, ← e] at h2
  unfold bitsOf
  generalize v / 2 ^ (hi + 1) = q at *
  generalize v / 2 ^ lo % 2 ^ (hi + 1 - lo) = m at *
  rw [← h2] at h1
  rw [e]
  generalize v % 2 ^ lo = r at *
  rw [Nat.mul_add] at h1
  rw [← h1]
  rw [Nat.mul_comm m, Nat.mul_comm q, Nat.mul_assoc]
  omega

/-- The number that `putFld` makes. -/
theorem putFld_toNat (r : Reg) (f : Fld) (v : Nat) (hl : f.lo ≤ f.hi) (hh : f.hi < 64) :
    (putFld r f v).toNat =
      r.toNat % 2 ^ f.lo + v % 2 ^ (f.hi + 1 - f.lo) * 2 ^ f.lo + r.toNat / 2 ^ (f.hi + 1) * 2 ^ (f.hi + 1) := by
  have hs := bitsOf_split r.toNat hl
  have hr := r.isLt
  have e : 2 ^ (f.hi + 1) = 2 ^ (f.hi + 1 - f.lo) * 2 ^ f.lo := by rw [← Nat.pow_add]; congr 1; omega
  have hlow : r.toNat % 2 ^ f.lo < 2 ^ f.lo := Nat.mod_lt _ (Nat.two_pow_pos _)
  have hv : v % 2 ^ (f.hi + 1 - f.lo) < 2 ^ (f.hi + 1 - f.lo) := Nat.mod_lt _ (Nat.two_pow_pos _)
  have hmid : v % 2 ^ (f.hi + 1 - f.lo) * 2 ^ f.lo + 2 ^ f.lo ≤ 2 ^ (f.hi + 1) := by
    rw [e, ← Nat.succ_mul]; exact Nat.mul_le_mul_right _ hv
  have htop : (r.toNat / 2 ^ (f.hi + 1) + 1) * 2 ^ (f.hi + 1) ≤ 2 ^ 64 := by
    have h64 : 2 ^ 64 = 2 ^ (64 - (f.hi + 1)) * 2 ^ (f.hi + 1) := by rw [← Nat.pow_add]; congr 1; omega
    rw [h64]
    apply Nat.mul_le_mul_right
    rw [Nat.succ_le_iff, Nat.div_lt_iff_lt_mul (Nat.two_pow_pos _), ← h64]
    exact hr
  rw [Nat.succ_mul] at htop
  simp only [putFld, BitVec.toNat_ofNat]
  rw [Nat.mod_eq_of_lt]
  · omega
  · omega

theorem bitsOf_put (low q v hi lo : Nat) (hl : lo ≤ hi) (h : low < 2 ^ lo) (hv : v < 2 ^ (hi + 1 - lo)) :
    bitsOf (low + v * 2 ^ lo + q * 2 ^ (hi + 1)) hi lo = v := by
  have e : 2 ^ (hi + 1) = 2 ^ (hi + 1 - lo) * 2 ^ lo := by rw [← Nat.pow_add]; congr 1; omega
  have : low + v * 2 ^ lo + q * 2 ^ (hi + 1) = low + 2 ^ lo * (v + 2 ^ (hi + 1 - lo) * q) := by
    rw [e, Nat.mul_add, Nat.mul_comm v, ← Nat.mul_assoc q, Nat.mul_comm (2 ^ lo) (2 ^ (hi + 1 - lo) * q),
      Nat.mul_comm q]; omega
  unfold bitsOf
  rw [this, Nat.add_mul_div_left _ _ (Nat.two_pow_pos _), Nat.div_eq_of_lt h, Nat.zero_add, Nat.add_mul_mod_self_left,
    Nat.mod_eq_of_lt hv]

/-- A field reads back what was put into it, as far as it is wide. -/
theorem bitsOf_putFld (r : Reg) (f : Fld) (v : Nat) (hl : f.lo ≤ f.hi) (hh : f.hi < 64) :
    bitsOf (putFld r f v).toNat f.hi f.lo = v % 2 ^ (f.hi + 1 - f.lo) := by
  rw [putFld_toNat r f v hl hh]
  exact bitsOf_put _ _ _ _ _ hl (Nat.mod_lt _ (Nat.two_pow_pos _)) (Nat.mod_lt _ (Nat.two_pow_pos _))

/-- Two fields of one register that share no bit. -/
def Fld.apart (f g : Fld) : Bool := decide (f.hi < g.lo) || decide (g.hi < f.lo)

/-- A field below another is left alone. -/
theorem bitsOf_putFld_apart (r : Reg) (f g : Fld) (v : Nat) (hl : f.lo ≤ f.hi) (hh : f.hi < 64) (gl : g.lo ≤ g.hi)
    (h : g.apart f = true) : bitsOf (putFld r f v).toNat g.hi g.lo = bitsOf r.toNat g.hi g.lo := by
  have hs := bitsOf_split r.toNat hl
  have hb := bitsOf_lt r.toNat f.hi f.lo
  rw [putFld_toNat r f v hl hh]
  simp only [Fld.apart, Bool.or_eq_true, decide_eq_true_eq] at h
  have hv : v % 2 ^ (f.hi + 1 - f.lo) < 2 ^ (f.hi + 1 - f.lo) := Nat.mod_lt _ (Nat.two_pow_pos _)
  have e : 2 ^ (f.hi + 1) = 2 ^ (f.hi + 1 - f.lo) * 2 ^ f.lo := by rw [← Nat.pow_add]; congr 1; omega
  have below : ∀ m q : Nat, bitsOf (r.toNat % 2 ^ f.lo + m * 2 ^ f.lo + q * 2 ^ (f.hi + 1)) g.hi g.lo =
      if g.hi < f.lo then bitsOf (r.toNat % 2 ^ f.lo) g.hi g.lo
      else bitsOf (r.toNat % 2 ^ f.lo + m * 2 ^ f.lo + q * 2 ^ (f.hi + 1)) g.hi g.lo := by
    intro m q
    split
    · next hg =>
      have e2 : 2 ^ f.lo = 2 ^ (g.hi + 1) * 2 ^ (f.lo - (g.hi + 1)) := by rw [← Nat.pow_add]; congr 1; omega
      have e3 : 2 ^ (g.hi + 1) = 2 ^ g.lo * 2 ^ (g.hi + 1 - g.lo) := by rw [← Nat.pow_add]; congr 1; omega
      have : r.toNat % 2 ^ f.lo + m * 2 ^ f.lo + q * 2 ^ (f.hi + 1) =
          r.toNat % 2 ^ f.lo + 2 ^ (g.hi + 1) * (2 ^ (f.lo - (g.hi + 1)) * (m + q * 2 ^ (f.hi + 1 - f.lo))) := by
        rw [e, ← Nat.mul_assoc (2 ^ (g.hi + 1)), ← e2, Nat.mul_add, Nat.mul_comm m, ← Nat.mul_assoc q,
          Nat.mul_comm (2 ^ f.lo) (q * _)]; omega
      unfold bitsOf
      rw [this, e3, Nat.mul_assoc, Nat.add_mul_div_left _ _ (Nat.two_pow_pos _), Nat.add_mul_mod_self_left]
    · rfl
  rcases h with h | h
  · rw [below, if_pos h]
    conv => rhs; rw [hs, below, if_pos h]
  · have shift : ∀ x q : Nat, x < 2 ^ (f.hi + 1) → bitsOf (x + q * 2 ^ (f.hi + 1)) g.hi g.lo =
        q / 2 ^ (g.lo - (f.hi + 1)) % 2 ^ (g.hi + 1 - g.lo) := by
      intro x q hx
      have e2 : 2 ^ g.lo = 2 ^ (f.hi + 1) * 2 ^ (g.lo - (f.hi + 1)) := by rw [← Nat.pow_add]; congr 1; omega
      unfold bitsOf
      rw [e2, ← Nat.div_div_eq_div_mul, Nat.add_mul_div_right _ _ (Nat.two_pow_pos _), Nat.div_eq_of_lt hx, Nat.zero_add]
    have hlow : r.toNat % 2 ^ f.lo < 2 ^ f.lo := Nat.mod_lt _ (Nat.two_pow_pos _)
    have lt : ∀ m : Nat, m < 2 ^ (f.hi + 1 - f.lo) → r.toNat % 2 ^ f.lo + m * 2 ^ f.lo < 2 ^ (f.hi + 1) := by
      intro m hm
      have : m * 2 ^ f.lo + 2 ^ f.lo ≤ 2 ^ (f.hi + 1) := by rw [e, ← Nat.succ_mul]; exact Nat.mul_le_mul_right _ hm
      omega
    rw [shift _ _ (lt _ hv)]
    conv => rhs; rw [hs, shift _ _ (lt _ hb)]

/-! Fields of a state. -/

/-- A field that was just stored reads back, as far as it is wide. -/
theorem State.fld_setFld_same (s : State) (p : Page) (f : Fld) (v : Nat) (hl : f.lo ≤ f.hi) (hh : f.hi < 64) :
    (s.setFld p f v).fld p f = v % 2 ^ (f.hi + 1 - f.lo) := by
  simp only [State.fld, State.setFld, State.reg_setReg_same]
  exact bitsOf_putFld _ _ _ hl hh

/-- A field of another register is left alone. -/
theorem State.fld_setFld_otherReg (s : State) {p q : Page} {f g : Fld} (v : Nat) (h : fldAddr q g ≠ fldAddr p f) :
    (s.setFld p f v).fld q g = s.fld q g := by
  simp only [State.fld, State.setFld]
  rw [State.reg_setReg_other _ _ h]

/-- A field of the same register that shares no bit with it is left alone. -/
theorem State.fld_setFld_apart (s : State) (p : Page) {f g : Fld} (v : Nat) (ho : g.off = f.off) (hl : f.lo ≤ f.hi)
    (hh : f.hi < 64) (gl : g.lo ≤ g.hi) (h : g.apart f = true) : (s.setFld p f v).fld p g = s.fld p g := by
  have ha : fldAddr p g = fldAddr p f := by simp [fldAddr, ho]
  simp only [State.fld, State.setFld, ha, State.reg_setReg_same]
  exact bitsOf_putFld_apart _ _ _ _ hl hh gl h

/-! Pages. -/

/-- The page at 4 KiB place `q` of 64 KiB block `w` of BAR0. -/
def pageOf (w q : Nat) : Option Page :=
  match w with
  | 0 => chipPageAt q
  | 1 => if h : q < 8 then some (.zn ⟨q, h⟩) else none
  | 2 => if h : q < 8 then some (.kln ⟨q, h⟩) else none
  | 3 => if h : q < 8 then some (.mem ⟨q, h⟩) else none
  | 4 => if h : q < 12 then some (.lnk ⟨q, h⟩) else none
  | w => if h : 256 ≤ w ∧ w < 384 then tilePageAt ⟨w - 256, by omega⟩ q else none

theorem pageAt_of {a w q : Nat} (hw : a / 0x1_0000 = w) (hq : a / 0x1000 % 16 = q) : pageAt a = pageOf w q := by
  subst hw hq; rfl

theorem pageOf_high (n q : Nat) :
    pageOf (n + 5) q = if h : 256 ≤ n + 5 ∧ n + 5 < 384 then tilePageAt ⟨n + 5 - 256, by omega⟩ q else none := rfl

theorem pageOf_tile (t : Fin 128) {n : Nat} (q : Nat) (h : n = 251 + t.val) : pageOf (n + 5) q = tilePageAt t q := by
  have ht := t.isLt
  have e : ∀ hlt : n + 5 - 256 < 128, (⟨n + 5 - 256, hlt⟩ : Fin 128) = t := fun hlt => Fin.ext (by simp only; omega)
  rw [pageOf_high, dif_pos (by omega), e]

/-- An offset of a page lies in that page (R415, R416). -/
theorem pageAt_pageBase (p : Page) (off : Nat) (h : off < 0x1000) : pageAt (pageBase p + off) = some p := by
  have place : ∀ w q : Nat, q < 16 → pageBase p = w * 0x1_0000 + q * 0x1000 → pageAt (pageBase p + off) = pageOf w q := by
    intro w q hq e
    apply pageAt_of <;> rw [e] <;> omega
  have tile : ∀ (t : Fin 128) (q : Nat), q < 16 → pageBase p = 0x0100_0000 + q * 0x1000 + t.val * 0x1_0000 →
      pageAt (pageBase p + off) = tilePageAt t q := by
    intro t q hq e
    obtain ⟨n, hn⟩ : ∃ n, n = 251 + t.val := ⟨_, rfl⟩
    rw [place (n + 5) q hq (by omega), pageOf_tile t q hn]
  cases p with
  | glb => rw [place 0 0] <;> first | rfl | decide
  | hif => rw [place 0 1] <;> first | rfl | decide
  | irq => rw [place 0 2] <;> first | rfl | decide
  | htm => rw [place 0 3] <;> first | rfl | decide
  | sch => rw [place 0 4] <;> first | rfl | decide
  | pwr => rw [place 0 5] <;> first | rfl | decide
  | thm => rw [place 0 6] <;> first | rfl | decide
  | sec => rw [place 0 7] <;> first | rfl | decide
  | bst => rw [place 0 8] <;> first | rfl | decide
  | hyd => rw [place 0 9] <;> first | rfl | decide
  | ltr => rw [place 0 10] <;> first | rfl | decide
  | coop => rw [place 0 11] <;> first | rfl | decide
  | swx => rw [place 0 12] <;> first | rfl | decide
  | rack => rw [place 0 13] <;> first | rfl | decide
  | zn z => rw [place 1 z.val (by omega) (by simp [pageBase])]; simp [pageOf, z.isLt]
  | kln z => rw [place 2 z.val (by omega) (by simp [pageBase])]; simp [pageOf, z.isLt]
  | mem z => rw [place 3 z.val (by omega) (by simp [pageBase])]; simp [pageOf, z.isLt]
  | lnk z => rw [place 4 z.val (by omega) (by simp [pageBase])]; simp [pageOf, z.isLt]
  | tctl t => exact tile t 0 (by omega) (by simp [pageBase])
  | tarr t => exact tile t 1 (by omega) (by simp [pageBase])
  | tvec t => exact tile t 2 (by omega) (by simp [pageBase])
  | tmil t => exact tile t 3 (by omega) (by simp [pageBase])
  | tspd t => exact tile t 4 (by omega) (by simp [pageBase])

/-- Registers of different pages lie at different offsets. -/
theorem fldAddr_ne {p q : Page} {f g : Fld} (h : p ≠ q) (hf : f.off < 0x1000) (hg : g.off < 0x1000) :
    fldAddr p f ≠ fldAddr q g := by
  intro e
  have hp := pageAt_pageBase p f.off hf
  have hq := pageAt_pageBase q g.off hg
  simp only [fldAddr] at e
  rw [e, hq] at hp
  exact h (Option.some.inj hp).symm

end Sys2Proof.Machine
end

