-- ==== Sys2Proof/Laws/State.lean ====
section
/-! SUPPORT. What the shared operations over registers, events and counters leave alone: one lemma per operation and field of the
state, so that no later proof unfolds a record update. -/
namespace Sys2Proof.Machine

/-! `setReg` -/

@[simp] theorem State.setReg_pending (s : State) (a : Nat) (v : Reg) : (s.setReg a v).pending = s.pending := rfl
@[simp] theorem State.setReg_clk (s : State) (a : Nat) (v : Reg) : (s.setReg a v).clk = s.clk := rfl
@[simp] theorem State.setReg_htm (s : State) (a : Nat) (v : Reg) : (s.setReg a v).htm = s.htm := rfl
@[simp] theorem State.setReg_sch (s : State) (a : Nat) (v : Reg) : (s.setReg a v).sch = s.sch := rfl
@[simp] theorem State.setReg_fronts (s : State) (a : Nat) (v : Reg) : (s.setReg a v).fronts = s.fronts := rfl
@[simp] theorem State.setReg_tiles (s : State) (a : Nat) (v : Reg) : (s.setReg a v).tiles = s.tiles := rfl
@[simp] theorem State.setReg_coop (s : State) (a : Nat) (v : Reg) : (s.setReg a v).coop = s.coop := rfl
@[simp] theorem State.setReg_fab (s : State) (a : Nat) (v : Reg) : (s.setReg a v).fab = s.fab := rfl
@[simp] theorem State.setReg_ltr (s : State) (a : Nat) (v : Reg) : (s.setReg a v).ltr = s.ltr := rfl
@[simp] theorem State.setReg_kln (s : State) (a : Nat) (v : Reg) : (s.setReg a v).kln = s.kln := rfl
@[simp] theorem State.setReg_rack (s : State) (a : Nat) (v : Reg) : (s.setReg a v).rack = s.rack := rfl
@[simp] theorem State.setReg_hyd (s : State) (a : Nat) (v : Reg) : (s.setReg a v).hyd = s.hyd := rfl
@[simp] theorem State.setReg_mem (s : State) (a : Nat) (v : Reg) : (s.setReg a v).mem = s.mem := rfl
@[simp] theorem State.setReg_host (s : State) (a : Nat) (v : Reg) : (s.setReg a v).host = s.host := rfl
@[simp] theorem State.setReg_pwr (s : State) (a : Nat) (v : Reg) : (s.setReg a v).pwr = s.pwr := rfl
@[simp] theorem State.setReg_sec (s : State) (a : Nat) (v : Reg) : (s.setReg a v).sec = s.sec := rfl
@[simp] theorem State.setReg_boot (s : State) (a : Nat) (v : Reg) : (s.setReg a v).boot = s.boot := rfl
@[simp] theorem State.setReg_pins (s : State) (a : Nat) (v : Reg) : (s.setReg a v).pins = s.pins := rfl
@[simp] theorem State.setReg_fresh (s : State) (a : Nat) (v : Reg) : (s.setReg a v).fresh = s.fresh := rfl
@[simp] theorem State.setReg_out (s : State) (a : Nat) (v : Reg) : (s.setReg a v).out = s.out := rfl

/-! `setFld` -/

@[simp] theorem State.setFld_pending (s : State) (p : Page) (f : Fld) (v : Nat) : (s.setFld p f v).pending = s.pending := rfl
@[simp] theorem State.setFld_clk (s : State) (p : Page) (f : Fld) (v : Nat) : (s.setFld p f v).clk = s.clk := rfl
@[simp] theorem State.setFld_htm (s : State) (p : Page) (f : Fld) (v : Nat) : (s.setFld p f v).htm = s.htm := rfl
@[simp] theorem State.setFld_sch (s : State) (p : Page) (f : Fld) (v : Nat) : (s.setFld p f v).sch = s.sch := rfl
@[simp] theorem State.setFld_fronts (s : State) (p : Page) (f : Fld) (v : Nat) : (s.setFld p f v).fronts = s.fronts := rfl
@[simp] theorem State.setFld_tiles (s : State) (p : Page) (f : Fld) (v : Nat) : (s.setFld p f v).tiles = s.tiles := rfl
@[simp] theorem State.setFld_coop (s : State) (p : Page) (f : Fld) (v : Nat) : (s.setFld p f v).coop = s.coop := rfl
@[simp] theorem State.setFld_fab (s : State) (p : Page) (f : Fld) (v : Nat) : (s.setFld p f v).fab = s.fab := rfl
@[simp] theorem State.setFld_ltr (s : State) (p : Page) (f : Fld) (v : Nat) : (s.setFld p f v).ltr = s.ltr := rfl
@[simp] theorem State.setFld_kln (s : State) (p : Page) (f : Fld) (v : Nat) : (s.setFld p f v).kln = s.kln := rfl
@[simp] theorem State.setFld_rack (s : State) (p : Page) (f : Fld) (v : Nat) : (s.setFld p f v).rack = s.rack := rfl
@[simp] theorem State.setFld_hyd (s : State) (p : Page) (f : Fld) (v : Nat) : (s.setFld p f v).hyd = s.hyd := rfl
@[simp] theorem State.setFld_mem (s : State) (p : Page) (f : Fld) (v : Nat) : (s.setFld p f v).mem = s.mem := rfl
@[simp] theorem State.setFld_host (s : State) (p : Page) (f : Fld) (v : Nat) : (s.setFld p f v).host = s.host := rfl
@[simp] theorem State.setFld_pwr (s : State) (p : Page) (f : Fld) (v : Nat) : (s.setFld p f v).pwr = s.pwr := rfl
@[simp] theorem State.setFld_sec (s : State) (p : Page) (f : Fld) (v : Nat) : (s.setFld p f v).sec = s.sec := rfl
@[simp] theorem State.setFld_boot (s : State) (p : Page) (f : Fld) (v : Nat) : (s.setFld p f v).boot = s.boot := rfl
@[simp] theorem State.setFld_pins (s : State) (p : Page) (f : Fld) (v : Nat) : (s.setFld p f v).pins = s.pins := rfl
@[simp] theorem State.setFld_fresh (s : State) (p : Page) (f : Fld) (v : Nat) : (s.setFld p f v).fresh = s.fresh := rfl
@[simp] theorem State.setFld_out (s : State) (p : Page) (f : Fld) (v : Nat) : (s.setFld p f v).out = s.out := rfl

/-! `setFlag` -/

@[simp] theorem State.setFlag_pending (s : State) (p : Page) (f : Fld) (b : Bool) : (s.setFlag p f b).pending = s.pending := rfl
@[simp] theorem State.setFlag_clk (s : State) (p : Page) (f : Fld) (b : Bool) : (s.setFlag p f b).clk = s.clk := rfl
@[simp] theorem State.setFlag_htm (s : State) (p : Page) (f : Fld) (b : Bool) : (s.setFlag p f b).htm = s.htm := rfl
@[simp] theorem State.setFlag_sch (s : State) (p : Page) (f : Fld) (b : Bool) : (s.setFlag p f b).sch = s.sch := rfl
@[simp] theorem State.setFlag_fronts (s : State) (p : Page) (f : Fld) (b : Bool) : (s.setFlag p f b).fronts = s.fronts := rfl
@[simp] theorem State.setFlag_tiles (s : State) (p : Page) (f : Fld) (b : Bool) : (s.setFlag p f b).tiles = s.tiles := rfl
@[simp] theorem State.setFlag_coop (s : State) (p : Page) (f : Fld) (b : Bool) : (s.setFlag p f b).coop = s.coop := rfl
@[simp] theorem State.setFlag_fab (s : State) (p : Page) (f : Fld) (b : Bool) : (s.setFlag p f b).fab = s.fab := rfl
@[simp] theorem State.setFlag_ltr (s : State) (p : Page) (f : Fld) (b : Bool) : (s.setFlag p f b).ltr = s.ltr := rfl
@[simp] theorem State.setFlag_kln (s : State) (p : Page) (f : Fld) (b : Bool) : (s.setFlag p f b).kln = s.kln := rfl
@[simp] theorem State.setFlag_rack (s : State) (p : Page) (f : Fld) (b : Bool) : (s.setFlag p f b).rack = s.rack := rfl
@[simp] theorem State.setFlag_hyd (s : State) (p : Page) (f : Fld) (b : Bool) : (s.setFlag p f b).hyd = s.hyd := rfl
@[simp] theorem State.setFlag_mem (s : State) (p : Page) (f : Fld) (b : Bool) : (s.setFlag p f b).mem = s.mem := rfl
@[simp] theorem State.setFlag_host (s : State) (p : Page) (f : Fld) (b : Bool) : (s.setFlag p f b).host = s.host := rfl
@[simp] theorem State.setFlag_pwr (s : State) (p : Page) (f : Fld) (b : Bool) : (s.setFlag p f b).pwr = s.pwr := rfl
@[simp] theorem State.setFlag_sec (s : State) (p : Page) (f : Fld) (b : Bool) : (s.setFlag p f b).sec = s.sec := rfl
@[simp] theorem State.setFlag_boot (s : State) (p : Page) (f : Fld) (b : Bool) : (s.setFlag p f b).boot = s.boot := rfl
@[simp] theorem State.setFlag_pins (s : State) (p : Page) (f : Fld) (b : Bool) : (s.setFlag p f b).pins = s.pins := rfl
@[simp] theorem State.setFlag_fresh (s : State) (p : Page) (f : Fld) (b : Bool) : (s.setFlag p f b).fresh = s.fresh := rfl
@[simp] theorem State.setFlag_out (s : State) (p : Page) (f : Fld) (b : Bool) : (s.setFlag p f b).out = s.out := rfl

/-! `countN` -/

@[simp] theorem State.countN_pending (s : State) (p : Page) (f : Fld) (n : Nat) : (s.countN p f n).pending = s.pending := rfl
@[simp] theorem State.countN_clk (s : State) (p : Page) (f : Fld) (n : Nat) : (s.countN p f n).clk = s.clk := rfl
@[simp] theorem State.countN_htm (s : State) (p : Page) (f : Fld) (n : Nat) : (s.countN p f n).htm = s.htm := rfl
@[simp] theorem State.countN_sch (s : State) (p : Page) (f : Fld) (n : Nat) : (s.countN p f n).sch = s.sch := rfl
@[simp] theorem State.countN_fronts (s : State) (p : Page) (f : Fld) (n : Nat) : (s.countN p f n).fronts = s.fronts := rfl
@[simp] theorem State.countN_tiles (s : State) (p : Page) (f : Fld) (n : Nat) : (s.countN p f n).tiles = s.tiles := rfl
@[simp] theorem State.countN_coop (s : State) (p : Page) (f : Fld) (n : Nat) : (s.countN p f n).coop = s.coop := rfl
@[simp] theorem State.countN_fab (s : State) (p : Page) (f : Fld) (n : Nat) : (s.countN p f n).fab = s.fab := rfl
@[simp] theorem State.countN_ltr (s : State) (p : Page) (f : Fld) (n : Nat) : (s.countN p f n).ltr = s.ltr := rfl
@[simp] theorem State.countN_kln (s : State) (p : Page) (f : Fld) (n : Nat) : (s.countN p f n).kln = s.kln := rfl
@[simp] theorem State.countN_rack (s : State) (p : Page) (f : Fld) (n : Nat) : (s.countN p f n).rack = s.rack := rfl
@[simp] theorem State.countN_hyd (s : State) (p : Page) (f : Fld) (n : Nat) : (s.countN p f n).hyd = s.hyd := rfl
@[simp] theorem State.countN_mem (s : State) (p : Page) (f : Fld) (n : Nat) : (s.countN p f n).mem = s.mem := rfl
@[simp] theorem State.countN_host (s : State) (p : Page) (f : Fld) (n : Nat) : (s.countN p f n).host = s.host := rfl
@[simp] theorem State.countN_pwr (s : State) (p : Page) (f : Fld) (n : Nat) : (s.countN p f n).pwr = s.pwr := rfl
@[simp] theorem State.countN_sec (s : State) (p : Page) (f : Fld) (n : Nat) : (s.countN p f n).sec = s.sec := rfl
@[simp] theorem State.countN_boot (s : State) (p : Page) (f : Fld) (n : Nat) : (s.countN p f n).boot = s.boot := rfl
@[simp] theorem State.countN_pins (s : State) (p : Page) (f : Fld) (n : Nat) : (s.countN p f n).pins = s.pins := rfl
@[simp] theorem State.countN_fresh (s : State) (p : Page) (f : Fld) (n : Nat) : (s.countN p f n).fresh = s.fresh := rfl
@[simp] theorem State.countN_out (s : State) (p : Page) (f : Fld) (n : Nat) : (s.countN p f n).out = s.out := rfl

/-! `count` -/

@[simp] theorem State.count_pending (s : State) (p : Page) (f : Fld) : (s.count p f).pending = s.pending := rfl
@[simp] theorem State.count_clk (s : State) (p : Page) (f : Fld) : (s.count p f).clk = s.clk := rfl
@[simp] theorem State.count_htm (s : State) (p : Page) (f : Fld) : (s.count p f).htm = s.htm := rfl
@[simp] theorem State.count_sch (s : State) (p : Page) (f : Fld) : (s.count p f).sch = s.sch := rfl
@[simp] theorem State.count_fronts (s : State) (p : Page) (f : Fld) : (s.count p f).fronts = s.fronts := rfl
@[simp] theorem State.count_tiles (s : State) (p : Page) (f : Fld) : (s.count p f).tiles = s.tiles := rfl
@[simp] theorem State.count_coop (s : State) (p : Page) (f : Fld) : (s.count p f).coop = s.coop := rfl
@[simp] theorem State.count_fab (s : State) (p : Page) (f : Fld) : (s.count p f).fab = s.fab := rfl
@[simp] theorem State.count_ltr (s : State) (p : Page) (f : Fld) : (s.count p f).ltr = s.ltr := rfl
@[simp] theorem State.count_kln (s : State) (p : Page) (f : Fld) : (s.count p f).kln = s.kln := rfl
@[simp] theorem State.count_rack (s : State) (p : Page) (f : Fld) : (s.count p f).rack = s.rack := rfl
@[simp] theorem State.count_hyd (s : State) (p : Page) (f : Fld) : (s.count p f).hyd = s.hyd := rfl
@[simp] theorem State.count_mem (s : State) (p : Page) (f : Fld) : (s.count p f).mem = s.mem := rfl
@[simp] theorem State.count_host (s : State) (p : Page) (f : Fld) : (s.count p f).host = s.host := rfl
@[simp] theorem State.count_pwr (s : State) (p : Page) (f : Fld) : (s.count p f).pwr = s.pwr := rfl
@[simp] theorem State.count_sec (s : State) (p : Page) (f : Fld) : (s.count p f).sec = s.sec := rfl
@[simp] theorem State.count_boot (s : State) (p : Page) (f : Fld) : (s.count p f).boot = s.boot := rfl
@[simp] theorem State.count_pins (s : State) (p : Page) (f : Fld) : (s.count p f).pins = s.pins := rfl
@[simp] theorem State.count_fresh (s : State) (p : Page) (f : Fld) : (s.count p f).fresh = s.fresh := rfl
@[simp] theorem State.count_out (s : State) (p : Page) (f : Fld) : (s.count p f).out = s.out := rfl

/-! `send` -/

@[simp] theorem State.send_pending (s : State) (x : Output) : (s.send x).pending = s.pending := rfl
@[simp] theorem State.send_clk (s : State) (x : Output) : (s.send x).clk = s.clk := rfl
@[simp] theorem State.send_regs (s : State) (x : Output) : (s.send x).regs = s.regs := rfl
@[simp] theorem State.send_htm (s : State) (x : Output) : (s.send x).htm = s.htm := rfl
@[simp] theorem State.send_sch (s : State) (x : Output) : (s.send x).sch = s.sch := rfl
@[simp] theorem State.send_fronts (s : State) (x : Output) : (s.send x).fronts = s.fronts := rfl
@[simp] theorem State.send_tiles (s : State) (x : Output) : (s.send x).tiles = s.tiles := rfl
@[simp] theorem State.send_coop (s : State) (x : Output) : (s.send x).coop = s.coop := rfl
@[simp] theorem State.send_fab (s : State) (x : Output) : (s.send x).fab = s.fab := rfl
@[simp] theorem State.send_ltr (s : State) (x : Output) : (s.send x).ltr = s.ltr := rfl
@[simp] theorem State.send_kln (s : State) (x : Output) : (s.send x).kln = s.kln := rfl
@[simp] theorem State.send_rack (s : State) (x : Output) : (s.send x).rack = s.rack := rfl
@[simp] theorem State.send_hyd (s : State) (x : Output) : (s.send x).hyd = s.hyd := rfl
@[simp] theorem State.send_mem (s : State) (x : Output) : (s.send x).mem = s.mem := rfl
@[simp] theorem State.send_host (s : State) (x : Output) : (s.send x).host = s.host := rfl
@[simp] theorem State.send_pwr (s : State) (x : Output) : (s.send x).pwr = s.pwr := rfl
@[simp] theorem State.send_sec (s : State) (x : Output) : (s.send x).sec = s.sec := rfl
@[simp] theorem State.send_boot (s : State) (x : Output) : (s.send x).boot = s.boot := rfl
@[simp] theorem State.send_pins (s : State) (x : Output) : (s.send x).pins = s.pins := rfl
@[simp] theorem State.send_fresh (s : State) (x : Output) : (s.send x).fresh = s.fresh := rfl

/-! `setFlds`, by induction over the list. -/

@[simp] theorem State.setFlds_pending (s : State) (p : Page) (fs : List (Fld × Nat)) : (s.setFlds p fs).pending = s.pending := by
  unfold State.setFlds
  induction fs generalizing s with
  | nil => rfl
  | cons e t ih => exact ih _
@[simp] theorem State.setFlds_clk (s : State) (p : Page) (fs : List (Fld × Nat)) : (s.setFlds p fs).clk = s.clk := by
  unfold State.setFlds
  induction fs generalizing s with
  | nil => rfl
  | cons e t ih => exact ih _
@[simp] theorem State.setFlds_htm (s : State) (p : Page) (fs : List (Fld × Nat)) : (s.setFlds p fs).htm = s.htm := by
  unfold State.setFlds
  induction fs generalizing s with
  | nil => rfl
  | cons e t ih => exact ih _
@[simp] theorem State.setFlds_sch (s : State) (p : Page) (fs : List (Fld × Nat)) : (s.setFlds p fs).sch = s.sch := by
  unfold State.setFlds
  induction fs generalizing s with
  | nil => rfl
  | cons e t ih => exact ih _
@[simp] theorem State.setFlds_fronts (s : State) (p : Page) (fs : List (Fld × Nat)) : (s.setFlds p fs).fronts = s.fronts := by
  unfold State.setFlds
  induction fs generalizing s with
  | nil => rfl
  | cons e t ih => exact ih _
@[simp] theorem State.setFlds_tiles (s : State) (p : Page) (fs : List (Fld × Nat)) : (s.setFlds p fs).tiles = s.tiles := by
  unfold State.setFlds
  induction fs generalizing s with
  | nil => rfl
  | cons e t ih => exact ih _
@[simp] theorem State.setFlds_coop (s : State) (p : Page) (fs : List (Fld × Nat)) : (s.setFlds p fs).coop = s.coop := by
  unfold State.setFlds
  induction fs generalizing s with
  | nil => rfl
  | cons e t ih => exact ih _
@[simp] theorem State.setFlds_fab (s : State) (p : Page) (fs : List (Fld × Nat)) : (s.setFlds p fs).fab = s.fab := by
  unfold State.setFlds
  induction fs generalizing s with
  | nil => rfl
  | cons e t ih => exact ih _
@[simp] theorem State.setFlds_ltr (s : State) (p : Page) (fs : List (Fld × Nat)) : (s.setFlds p fs).ltr = s.ltr := by
  unfold State.setFlds
  induction fs generalizing s with
  | nil => rfl
  | cons e t ih => exact ih _
@[simp] theorem State.setFlds_kln (s : State) (p : Page) (fs : List (Fld × Nat)) : (s.setFlds p fs).kln = s.kln := by
  unfold State.setFlds
  induction fs generalizing s with
  | nil => rfl
  | cons e t ih => exact ih _
@[simp] theorem State.setFlds_rack (s : State) (p : Page) (fs : List (Fld × Nat)) : (s.setFlds p fs).rack = s.rack := by
  unfold State.setFlds
  induction fs generalizing s with
  | nil => rfl
  | cons e t ih => exact ih _
@[simp] theorem State.setFlds_hyd (s : State) (p : Page) (fs : List (Fld × Nat)) : (s.setFlds p fs).hyd = s.hyd := by
  unfold State.setFlds
  induction fs generalizing s with
  | nil => rfl
  | cons e t ih => exact ih _
@[simp] theorem State.setFlds_mem (s : State) (p : Page) (fs : List (Fld × Nat)) : (s.setFlds p fs).mem = s.mem := by
  unfold State.setFlds
  induction fs generalizing s with
  | nil => rfl
  | cons e t ih => exact ih _
@[simp] theorem State.setFlds_host (s : State) (p : Page) (fs : List (Fld × Nat)) : (s.setFlds p fs).host = s.host := by
  unfold State.setFlds
  induction fs generalizing s with
  | nil => rfl
  | cons e t ih => exact ih _
@[simp] theorem State.setFlds_pwr (s : State) (p : Page) (fs : List (Fld × Nat)) : (s.setFlds p fs).pwr = s.pwr := by
  unfold State.setFlds
  induction fs generalizing s with
  | nil => rfl
  | cons e t ih => exact ih _
@[simp] theorem State.setFlds_sec (s : State) (p : Page) (fs : List (Fld × Nat)) : (s.setFlds p fs).sec = s.sec := by
  unfold State.setFlds
  induction fs generalizing s with
  | nil => rfl
  | cons e t ih => exact ih _
@[simp] theorem State.setFlds_boot (s : State) (p : Page) (fs : List (Fld × Nat)) : (s.setFlds p fs).boot = s.boot := by
  unfold State.setFlds
  induction fs generalizing s with
  | nil => rfl
  | cons e t ih => exact ih _
@[simp] theorem State.setFlds_pins (s : State) (p : Page) (fs : List (Fld × Nat)) : (s.setFlds p fs).pins = s.pins := by
  unfold State.setFlds
  induction fs generalizing s with
  | nil => rfl
  | cons e t ih => exact ih _
@[simp] theorem State.setFlds_fresh (s : State) (p : Page) (fs : List (Fld × Nat)) : (s.setFlds p fs).fresh = s.fresh := by
  unfold State.setFlds
  induction fs generalizing s with
  | nil => rfl
  | cons e t ih => exact ih _
@[simp] theorem State.setFlds_out (s : State) (p : Page) (fs : List (Fld × Nat)) : (s.setFlds p fs).out = s.out := by
  unfold State.setFlds
  induction fs generalizing s with
  | nil => rfl
  | cons e t ih => exact ih _

/-! `request` -/

@[simp] theorem State.request_pending (s : State) (p : Page) (b : Nat) : (s.request p b).pending = s.pending := by
  unfold State.request; split <;> rfl
@[simp] theorem State.request_clk (s : State) (p : Page) (b : Nat) : (s.request p b).clk = s.clk := by
  unfold State.request; split <;> rfl
@[simp] theorem State.request_regs (s : State) (p : Page) (b : Nat) : (s.request p b).regs = s.regs := by
  unfold State.request; split <;> rfl
@[simp] theorem State.request_htm (s : State) (p : Page) (b : Nat) : (s.request p b).htm = s.htm := by
  unfold State.request; split <;> rfl
@[simp] theorem State.request_sch (s : State) (p : Page) (b : Nat) : (s.request p b).sch = s.sch := by
  unfold State.request; split <;> rfl
@[simp] theorem State.request_fronts (s : State) (p : Page) (b : Nat) : (s.request p b).fronts = s.fronts := by
  unfold State.request; split <;> rfl
@[simp] theorem State.request_tiles (s : State) (p : Page) (b : Nat) : (s.request p b).tiles = s.tiles := by
  unfold State.request; split <;> rfl
@[simp] theorem State.request_coop (s : State) (p : Page) (b : Nat) : (s.request p b).coop = s.coop := by
  unfold State.request; split <;> rfl
@[simp] theorem State.request_fab (s : State) (p : Page) (b : Nat) : (s.request p b).fab = s.fab := by
  unfold State.request; split <;> rfl
@[simp] theorem State.request_ltr (s : State) (p : Page) (b : Nat) : (s.request p b).ltr = s.ltr := by
  unfold State.request; split <;> rfl
@[simp] theorem State.request_kln (s : State) (p : Page) (b : Nat) : (s.request p b).kln = s.kln := by
  unfold State.request; split <;> rfl
@[simp] theorem State.request_rack (s : State) (p : Page) (b : Nat) : (s.request p b).rack = s.rack := by
  unfold State.request; split <;> rfl
@[simp] theorem State.request_hyd (s : State) (p : Page) (b : Nat) : (s.request p b).hyd = s.hyd := by
  unfold State.request; split <;> rfl
@[simp] theorem State.request_mem (s : State) (p : Page) (b : Nat) : (s.request p b).mem = s.mem := by
  unfold State.request; split <;> rfl
@[simp] theorem State.request_pwr (s : State) (p : Page) (b : Nat) : (s.request p b).pwr = s.pwr := by
  unfold State.request; split <;> rfl
@[simp] theorem State.request_sec (s : State) (p : Page) (b : Nat) : (s.request p b).sec = s.sec := by
  unfold State.request; split <;> rfl
@[simp] theorem State.request_boot (s : State) (p : Page) (b : Nat) : (s.request p b).boot = s.boot := by
  unfold State.request; split <;> rfl
@[simp] theorem State.request_pins (s : State) (p : Page) (b : Nat) : (s.request p b).pins = s.pins := by
  unfold State.request; split <;> rfl
@[simp] theorem State.request_fresh (s : State) (p : Page) (b : Nat) : (s.request p b).fresh = s.fresh := by
  unfold State.request; split <;> rfl
@[simp] theorem State.request_out (s : State) (p : Page) (b : Nat) : (s.request p b).out = s.out := by
  unfold State.request; split <;> rfl

/-! `raise` -/

@[simp] theorem State.raise_pending (s : State) (p : Page) (b : Nat) : (s.raise p b).pending = s.pending := by
  unfold State.raise; dsimp only; split <;> split <;> (try split) <;> simp
@[simp] theorem State.raise_clk (s : State) (p : Page) (b : Nat) : (s.raise p b).clk = s.clk := by
  unfold State.raise; dsimp only; split <;> split <;> (try split) <;> simp
@[simp] theorem State.raise_htm (s : State) (p : Page) (b : Nat) : (s.raise p b).htm = s.htm := by
  unfold State.raise; dsimp only; split <;> split <;> (try split) <;> simp
@[simp] theorem State.raise_sch (s : State) (p : Page) (b : Nat) : (s.raise p b).sch = s.sch := by
  unfold State.raise; dsimp only; split <;> split <;> (try split) <;> simp
@[simp] theorem State.raise_fronts (s : State) (p : Page) (b : Nat) : (s.raise p b).fronts = s.fronts := by
  unfold State.raise; dsimp only; split <;> split <;> (try split) <;> simp
@[simp] theorem State.raise_tiles (s : State) (p : Page) (b : Nat) : (s.raise p b).tiles = s.tiles := by
  unfold State.raise; dsimp only; split <;> split <;> (try split) <;> simp
@[simp] theorem State.raise_coop (s : State) (p : Page) (b : Nat) : (s.raise p b).coop = s.coop := by
  unfold State.raise; dsimp only; split <;> split <;> (try split) <;> simp
@[simp] theorem State.raise_fab (s : State) (p : Page) (b : Nat) : (s.raise p b).fab = s.fab := by
  unfold State.raise; dsimp only; split <;> split <;> (try split) <;> simp
@[simp] theorem State.raise_ltr (s : State) (p : Page) (b : Nat) : (s.raise p b).ltr = s.ltr := by
  unfold State.raise; dsimp only; split <;> split <;> (try split) <;> simp
@[simp] theorem State.raise_kln (s : State) (p : Page) (b : Nat) : (s.raise p b).kln = s.kln := by
  unfold State.raise; dsimp only; split <;> split <;> (try split) <;> simp
@[simp] theorem State.raise_rack (s : State) (p : Page) (b : Nat) : (s.raise p b).rack = s.rack := by
  unfold State.raise; dsimp only; split <;> split <;> (try split) <;> simp
@[simp] theorem State.raise_hyd (s : State) (p : Page) (b : Nat) : (s.raise p b).hyd = s.hyd := by
  unfold State.raise; dsimp only; split <;> split <;> (try split) <;> simp
@[simp] theorem State.raise_mem (s : State) (p : Page) (b : Nat) : (s.raise p b).mem = s.mem := by
  unfold State.raise; dsimp only; split <;> split <;> (try split) <;> simp
@[simp] theorem State.raise_pwr (s : State) (p : Page) (b : Nat) : (s.raise p b).pwr = s.pwr := by
  unfold State.raise; dsimp only; split <;> split <;> (try split) <;> simp
@[simp] theorem State.raise_sec (s : State) (p : Page) (b : Nat) : (s.raise p b).sec = s.sec := by
  unfold State.raise; dsimp only; split <;> split <;> (try split) <;> simp
@[simp] theorem State.raise_boot (s : State) (p : Page) (b : Nat) : (s.raise p b).boot = s.boot := by
  unfold State.raise; dsimp only; split <;> split <;> (try split) <;> simp
@[simp] theorem State.raise_pins (s : State) (p : Page) (b : Nat) : (s.raise p b).pins = s.pins := by
  unfold State.raise; dsimp only; split <;> split <;> (try split) <;> simp
@[simp] theorem State.raise_fresh (s : State) (p : Page) (b : Nat) : (s.raise p b).fresh = s.fresh := by
  unfold State.raise; dsimp only; split <;> split <;> (try split) <;> simp
@[simp] theorem State.raise_out (s : State) (p : Page) (b : Nat) : (s.raise p b).out = s.out := by
  unfold State.raise; dsimp only; split <;> split <;> (try split) <;> simp

/-! `tally` -/

@[simp] theorem State.tally_pending (s : State) (p : Page) (f : Fld) (b : Nat) : (s.tally p f b).pending = s.pending := by
  simp [State.tally]
@[simp] theorem State.tally_clk (s : State) (p : Page) (f : Fld) (b : Nat) : (s.tally p f b).clk = s.clk := by
  simp [State.tally]
@[simp] theorem State.tally_htm (s : State) (p : Page) (f : Fld) (b : Nat) : (s.tally p f b).htm = s.htm := by
  simp [State.tally]
@[simp] theorem State.tally_sch (s : State) (p : Page) (f : Fld) (b : Nat) : (s.tally p f b).sch = s.sch := by
  simp [State.tally]
@[simp] theorem State.tally_fronts (s : State) (p : Page) (f : Fld) (b : Nat) : (s.tally p f b).fronts = s.fronts := by
  simp [State.tally]
@[simp] theorem State.tally_tiles (s : State) (p : Page) (f : Fld) (b : Nat) : (s.tally p f b).tiles = s.tiles := by
  simp [State.tally]
@[simp] theorem State.tally_coop (s : State) (p : Page) (f : Fld) (b : Nat) : (s.tally p f b).coop = s.coop := by
  simp [State.tally]
@[simp] theorem State.tally_fab (s : State) (p : Page) (f : Fld) (b : Nat) : (s.tally p f b).fab = s.fab := by
  simp [State.tally]
@[simp] theorem State.tally_ltr (s : State) (p : Page) (f : Fld) (b : Nat) : (s.tally p f b).ltr = s.ltr := by
  simp [State.tally]
@[simp] theorem State.tally_kln (s : State) (p : Page) (f : Fld) (b : Nat) : (s.tally p f b).kln = s.kln := by
  simp [State.tally]
@[simp] theorem State.tally_rack (s : State) (p : Page) (f : Fld) (b : Nat) : (s.tally p f b).rack = s.rack := by
  simp [State.tally]
@[simp] theorem State.tally_hyd (s : State) (p : Page) (f : Fld) (b : Nat) : (s.tally p f b).hyd = s.hyd := by
  simp [State.tally]
@[simp] theorem State.tally_mem (s : State) (p : Page) (f : Fld) (b : Nat) : (s.tally p f b).mem = s.mem := by
  simp [State.tally]
@[simp] theorem State.tally_pwr (s : State) (p : Page) (f : Fld) (b : Nat) : (s.tally p f b).pwr = s.pwr := by
  simp [State.tally]
@[simp] theorem State.tally_sec (s : State) (p : Page) (f : Fld) (b : Nat) : (s.tally p f b).sec = s.sec := by
  simp [State.tally]
@[simp] theorem State.tally_boot (s : State) (p : Page) (f : Fld) (b : Nat) : (s.tally p f b).boot = s.boot := by
  simp [State.tally]
@[simp] theorem State.tally_pins (s : State) (p : Page) (f : Fld) (b : Nat) : (s.tally p f b).pins = s.pins := by
  simp [State.tally]
@[simp] theorem State.tally_fresh (s : State) (p : Page) (f : Fld) (b : Nat) : (s.tally p f b).fresh = s.fresh := by
  simp [State.tally]
@[simp] theorem State.tally_out (s : State) (p : Page) (f : Fld) (b : Nat) : (s.tally p f b).out = s.out := by
  simp [State.tally]

/-! `tallyN` -/

@[simp] theorem State.tallyN_pending (s : State) (p : Page) (f : Fld) (n b : Nat) : (s.tallyN p f n b).pending = s.pending := by
  unfold State.tallyN; split <;> simp
@[simp] theorem State.tallyN_clk (s : State) (p : Page) (f : Fld) (n b : Nat) : (s.tallyN p f n b).clk = s.clk := by
  unfold State.tallyN; split <;> simp
@[simp] theorem State.tallyN_htm (s : State) (p : Page) (f : Fld) (n b : Nat) : (s.tallyN p f n b).htm = s.htm := by
  unfold State.tallyN; split <;> simp
@[simp] theorem State.tallyN_sch (s : State) (p : Page) (f : Fld) (n b : Nat) : (s.tallyN p f n b).sch = s.sch := by
  unfold State.tallyN; split <;> simp
@[simp] theorem State.tallyN_fronts (s : State) (p : Page) (f : Fld) (n b : Nat) : (s.tallyN p f n b).fronts = s.fronts := by
  unfold State.tallyN; split <;> simp
@[simp] theorem State.tallyN_tiles (s : State) (p : Page) (f : Fld) (n b : Nat) : (s.tallyN p f n b).tiles = s.tiles := by
  unfold State.tallyN; split <;> simp
@[simp] theorem State.tallyN_coop (s : State) (p : Page) (f : Fld) (n b : Nat) : (s.tallyN p f n b).coop = s.coop := by
  unfold State.tallyN; split <;> simp
@[simp] theorem State.tallyN_fab (s : State) (p : Page) (f : Fld) (n b : Nat) : (s.tallyN p f n b).fab = s.fab := by
  unfold State.tallyN; split <;> simp
@[simp] theorem State.tallyN_ltr (s : State) (p : Page) (f : Fld) (n b : Nat) : (s.tallyN p f n b).ltr = s.ltr := by
  unfold State.tallyN; split <;> simp
@[simp] theorem State.tallyN_kln (s : State) (p : Page) (f : Fld) (n b : Nat) : (s.tallyN p f n b).kln = s.kln := by
  unfold State.tallyN; split <;> simp
@[simp] theorem State.tallyN_rack (s : State) (p : Page) (f : Fld) (n b : Nat) : (s.tallyN p f n b).rack = s.rack := by
  unfold State.tallyN; split <;> simp
@[simp] theorem State.tallyN_hyd (s : State) (p : Page) (f : Fld) (n b : Nat) : (s.tallyN p f n b).hyd = s.hyd := by
  unfold State.tallyN; split <;> simp
@[simp] theorem State.tallyN_mem (s : State) (p : Page) (f : Fld) (n b : Nat) : (s.tallyN p f n b).mem = s.mem := by
  unfold State.tallyN; split <;> simp
@[simp] theorem State.tallyN_pwr (s : State) (p : Page) (f : Fld) (n b : Nat) : (s.tallyN p f n b).pwr = s.pwr := by
  unfold State.tallyN; split <;> simp
@[simp] theorem State.tallyN_sec (s : State) (p : Page) (f : Fld) (n b : Nat) : (s.tallyN p f n b).sec = s.sec := by
  unfold State.tallyN; split <;> simp
@[simp] theorem State.tallyN_boot (s : State) (p : Page) (f : Fld) (n b : Nat) : (s.tallyN p f n b).boot = s.boot := by
  unfold State.tallyN; split <;> simp
@[simp] theorem State.tallyN_pins (s : State) (p : Page) (f : Fld) (n b : Nat) : (s.tallyN p f n b).pins = s.pins := by
  unfold State.tallyN; split <;> simp
@[simp] theorem State.tallyN_fresh (s : State) (p : Page) (f : Fld) (n b : Nat) : (s.tallyN p f n b).fresh = s.fresh := by
  unfold State.tallyN; split <;> simp
@[simp] theorem State.tallyN_out (s : State) (p : Page) (f : Fld) (n b : Nat) : (s.tallyN p f n b).out = s.out := by
  unfold State.tallyN; split <;> simp

/-! `degraded` -/

@[simp] theorem State.degraded_pending (s : State)  : (s.degraded ).pending = s.pending := by
  simp [State.degraded]
@[simp] theorem State.degraded_clk (s : State)  : (s.degraded ).clk = s.clk := by
  simp [State.degraded]
@[simp] theorem State.degraded_htm (s : State)  : (s.degraded ).htm = s.htm := by
  simp [State.degraded]
@[simp] theorem State.degraded_sch (s : State)  : (s.degraded ).sch = s.sch := by
  simp [State.degraded]
@[simp] theorem State.degraded_fronts (s : State)  : (s.degraded ).fronts = s.fronts := by
  simp [State.degraded]
@[simp] theorem State.degraded_tiles (s : State)  : (s.degraded ).tiles = s.tiles := by
  simp [State.degraded]
@[simp] theorem State.degraded_coop (s : State)  : (s.degraded ).coop = s.coop := by
  simp [State.degraded]
@[simp] theorem State.degraded_fab (s : State)  : (s.degraded ).fab = s.fab := by
  simp [State.degraded]
@[simp] theorem State.degraded_ltr (s : State)  : (s.degraded ).ltr = s.ltr := by
  simp [State.degraded]
@[simp] theorem State.degraded_kln (s : State)  : (s.degraded ).kln = s.kln := by
  simp [State.degraded]
@[simp] theorem State.degraded_rack (s : State)  : (s.degraded ).rack = s.rack := by
  simp [State.degraded]
@[simp] theorem State.degraded_hyd (s : State)  : (s.degraded ).hyd = s.hyd := by
  simp [State.degraded]
@[simp] theorem State.degraded_mem (s : State)  : (s.degraded ).mem = s.mem := by
  simp [State.degraded]
@[simp] theorem State.degraded_pwr (s : State)  : (s.degraded ).pwr = s.pwr := by
  simp [State.degraded]
@[simp] theorem State.degraded_sec (s : State)  : (s.degraded ).sec = s.sec := by
  simp [State.degraded]
@[simp] theorem State.degraded_boot (s : State)  : (s.degraded ).boot = s.boot := by
  simp [State.degraded]
@[simp] theorem State.degraded_pins (s : State)  : (s.degraded ).pins = s.pins := by
  simp [State.degraded]
@[simp] theorem State.degraded_fresh (s : State)  : (s.degraded ).fresh = s.fresh := by
  simp [State.degraded]
@[simp] theorem State.degraded_out (s : State)  : (s.degraded ).out = s.out := by
  simp [State.degraded]

/-! `setCause` -/

@[simp] theorem State.setCause_pending (s : State) (second : Bool) (c : Cause) : (s.setCause second c).pending = s.pending := by
  unfold State.setCause; dsimp only; split <;> rfl
@[simp] theorem State.setCause_clk (s : State) (second : Bool) (c : Cause) : (s.setCause second c).clk = s.clk := by
  unfold State.setCause; dsimp only; split <;> rfl
@[simp] theorem State.setCause_regs (s : State) (second : Bool) (c : Cause) : (s.setCause second c).regs = s.regs := by
  unfold State.setCause; dsimp only; split <;> rfl
@[simp] theorem State.setCause_htm (s : State) (second : Bool) (c : Cause) : (s.setCause second c).htm = s.htm := by
  unfold State.setCause; dsimp only; split <;> rfl
@[simp] theorem State.setCause_fronts (s : State) (second : Bool) (c : Cause) : (s.setCause second c).fronts = s.fronts := by
  unfold State.setCause; dsimp only; split <;> rfl
@[simp] theorem State.setCause_tiles (s : State) (second : Bool) (c : Cause) : (s.setCause second c).tiles = s.tiles := by
  unfold State.setCause; dsimp only; split <;> rfl
@[simp] theorem State.setCause_coop (s : State) (second : Bool) (c : Cause) : (s.setCause second c).coop = s.coop := by
  unfold State.setCause; dsimp only; split <;> rfl
@[simp] theorem State.setCause_fab (s : State) (second : Bool) (c : Cause) : (s.setCause second c).fab = s.fab := by
  unfold State.setCause; dsimp only; split <;> rfl
@[simp] theorem State.setCause_ltr (s : State) (second : Bool) (c : Cause) : (s.setCause second c).ltr = s.ltr := by
  unfold State.setCause; dsimp only; split <;> rfl
@[simp] theorem State.setCause_kln (s : State) (second : Bool) (c : Cause) : (s.setCause second c).kln = s.kln := by
  unfold State.setCause; dsimp only; split <;> rfl
@[simp] theorem State.setCause_rack (s : State) (second : Bool) (c : Cause) : (s.setCause second c).rack = s.rack := by
  unfold State.setCause; dsimp only; split <;> rfl
@[simp] theorem State.setCause_hyd (s : State) (second : Bool) (c : Cause) : (s.setCause second c).hyd = s.hyd := by
  unfold State.setCause; dsimp only; split <;> rfl
@[simp] theorem State.setCause_mem (s : State) (second : Bool) (c : Cause) : (s.setCause second c).mem = s.mem := by
  unfold State.setCause; dsimp only; split <;> rfl
@[simp] theorem State.setCause_host (s : State) (second : Bool) (c : Cause) : (s.setCause second c).host = s.host := by
  unfold State.setCause; dsimp only; split <;> rfl
@[simp] theorem State.setCause_pwr (s : State) (second : Bool) (c : Cause) : (s.setCause second c).pwr = s.pwr := by
  unfold State.setCause; dsimp only; split <;> rfl
@[simp] theorem State.setCause_sec (s : State) (second : Bool) (c : Cause) : (s.setCause second c).sec = s.sec := by
  unfold State.setCause; dsimp only; split <;> rfl
@[simp] theorem State.setCause_boot (s : State) (second : Bool) (c : Cause) : (s.setCause second c).boot = s.boot := by
  unfold State.setCause; dsimp only; split <;> rfl
@[simp] theorem State.setCause_pins (s : State) (second : Bool) (c : Cause) : (s.setCause second c).pins = s.pins := by
  unfold State.setCause; dsimp only; split <;> rfl
@[simp] theorem State.setCause_fresh (s : State) (second : Bool) (c : Cause) : (s.setCause second c).fresh = s.fresh := by
  unfold State.setCause; dsimp only; split <;> rfl
@[simp] theorem State.setCause_out (s : State) (second : Bool) (c : Cause) : (s.setCause second c).out = s.out := by
  unfold State.setCause; dsimp only; split <;> rfl

/-! `invalid` -/

@[simp] theorem State.invalid_pending (s : State) (second : Bool) (c : Cause) : (s.invalid second c).pending = s.pending := by
  simp [State.invalid]
@[simp] theorem State.invalid_clk (s : State) (second : Bool) (c : Cause) : (s.invalid second c).clk = s.clk := by
  simp [State.invalid]
@[simp] theorem State.invalid_htm (s : State) (second : Bool) (c : Cause) : (s.invalid second c).htm = s.htm := by
  simp [State.invalid]
@[simp] theorem State.invalid_fronts (s : State) (second : Bool) (c : Cause) : (s.invalid second c).fronts = s.fronts := by
  simp [State.invalid]
@[simp] theorem State.invalid_tiles (s : State) (second : Bool) (c : Cause) : (s.invalid second c).tiles = s.tiles := by
  simp [State.invalid]
@[simp] theorem State.invalid_coop (s : State) (second : Bool) (c : Cause) : (s.invalid second c).coop = s.coop := by
  simp [State.invalid]
@[simp] theorem State.invalid_fab (s : State) (second : Bool) (c : Cause) : (s.invalid second c).fab = s.fab := by
  simp [State.invalid]
@[simp] theorem State.invalid_ltr (s : State) (second : Bool) (c : Cause) : (s.invalid second c).ltr = s.ltr := by
  simp [State.invalid]
@[simp] theorem State.invalid_kln (s : State) (second : Bool) (c : Cause) : (s.invalid second c).kln = s.kln := by
  simp [State.invalid]
@[simp] theorem State.invalid_rack (s : State) (second : Bool) (c : Cause) : (s.invalid second c).rack = s.rack := by
  simp [State.invalid]
@[simp] theorem State.invalid_hyd (s : State) (second : Bool) (c : Cause) : (s.invalid second c).hyd = s.hyd := by
  simp [State.invalid]
@[simp] theorem State.invalid_mem (s : State) (second : Bool) (c : Cause) : (s.invalid second c).mem = s.mem := by
  simp [State.invalid]
@[simp] theorem State.invalid_pwr (s : State) (second : Bool) (c : Cause) : (s.invalid second c).pwr = s.pwr := by
  simp [State.invalid]
@[simp] theorem State.invalid_sec (s : State) (second : Bool) (c : Cause) : (s.invalid second c).sec = s.sec := by
  simp [State.invalid]
@[simp] theorem State.invalid_boot (s : State) (second : Bool) (c : Cause) : (s.invalid second c).boot = s.boot := by
  simp [State.invalid]
@[simp] theorem State.invalid_pins (s : State) (second : Bool) (c : Cause) : (s.invalid second c).pins = s.pins := by
  simp [State.invalid]
@[simp] theorem State.invalid_fresh (s : State) (second : Bool) (c : Cause) : (s.invalid second c).fresh = s.fresh := by
  simp [State.invalid]
@[simp] theorem State.invalid_out (s : State) (second : Bool) (c : Cause) : (s.invalid second c).out = s.out := by
  simp [State.invalid]

/-! `carveEvent` -/

@[simp] theorem State.carveEvent_pending (s : State) (second : Bool) : (s.carveEvent second).pending = s.pending := by
  unfold State.carveEvent; split <;> simp
@[simp] theorem State.carveEvent_clk (s : State) (second : Bool) : (s.carveEvent second).clk = s.clk := by
  unfold State.carveEvent; split <;> simp
@[simp] theorem State.carveEvent_htm (s : State) (second : Bool) : (s.carveEvent second).htm = s.htm := by
  unfold State.carveEvent; split <;> simp
@[simp] theorem State.carveEvent_sch (s : State) (second : Bool) : (s.carveEvent second).sch = s.sch := by
  unfold State.carveEvent; split <;> simp
@[simp] theorem State.carveEvent_fronts (s : State) (second : Bool) : (s.carveEvent second).fronts = s.fronts := by
  unfold State.carveEvent; split <;> simp
@[simp] theorem State.carveEvent_tiles (s : State) (second : Bool) : (s.carveEvent second).tiles = s.tiles := by
  unfold State.carveEvent; split <;> simp
@[simp] theorem State.carveEvent_coop (s : State) (second : Bool) : (s.carveEvent second).coop = s.coop := by
  unfold State.carveEvent; split <;> simp
@[simp] theorem State.carveEvent_fab (s : State) (second : Bool) : (s.carveEvent second).fab = s.fab := by
  unfold State.carveEvent; split <;> simp
@[simp] theorem State.carveEvent_ltr (s : State) (second : Bool) : (s.carveEvent second).ltr = s.ltr := by
  unfold State.carveEvent; split <;> simp
@[simp] theorem State.carveEvent_kln (s : State) (second : Bool) : (s.carveEvent second).kln = s.kln := by
  unfold State.carveEvent; split <;> simp
@[simp] theorem State.carveEvent_rack (s : State) (second : Bool) : (s.carveEvent second).rack = s.rack := by
  unfold State.carveEvent; split <;> simp
@[simp] theorem State.carveEvent_hyd (s : State) (second : Bool) : (s.carveEvent second).hyd = s.hyd := by
  unfold State.carveEvent; split <;> simp
@[simp] theorem State.carveEvent_mem (s : State) (second : Bool) : (s.carveEvent second).mem = s.mem := by
  unfold State.carveEvent; split <;> simp
@[simp] theorem State.carveEvent_pwr (s : State) (second : Bool) : (s.carveEvent second).pwr = s.pwr := by
  unfold State.carveEvent; split <;> simp
@[simp] theorem State.carveEvent_sec (s : State) (second : Bool) : (s.carveEvent second).sec = s.sec := by
  unfold State.carveEvent; split <;> simp
@[simp] theorem State.carveEvent_boot (s : State) (second : Bool) : (s.carveEvent second).boot = s.boot := by
  unfold State.carveEvent; split <;> simp
@[simp] theorem State.carveEvent_pins (s : State) (second : Bool) : (s.carveEvent second).pins = s.pins := by
  unfold State.carveEvent; split <;> simp
@[simp] theorem State.carveEvent_fresh (s : State) (second : Bool) : (s.carveEvent second).fresh = s.fresh := by
  unfold State.carveEvent; split <;> simp
@[simp] theorem State.carveEvent_out (s : State) (second : Bool) : (s.carveEvent second).out = s.out := by
  unfold State.carveEvent; split <;> simp

/-! `schedFault` -/

@[simp] theorem State.schedFault_pending (s : State) (second : Bool) (f : SFault) (a : FaultAt) : (s.schedFault second f a).pending = s.pending := by
  unfold State.schedFault; dsimp only; split <;> split <;> split <;> simp
@[simp] theorem State.schedFault_clk (s : State) (second : Bool) (f : SFault) (a : FaultAt) : (s.schedFault second f a).clk = s.clk := by
  unfold State.schedFault; dsimp only; split <;> split <;> split <;> simp
@[simp] theorem State.schedFault_htm (s : State) (second : Bool) (f : SFault) (a : FaultAt) : (s.schedFault second f a).htm = s.htm := by
  unfold State.schedFault; dsimp only; split <;> split <;> split <;> simp
@[simp] theorem State.schedFault_fronts (s : State) (second : Bool) (f : SFault) (a : FaultAt) : (s.schedFault second f a).fronts = s.fronts := by
  unfold State.schedFault; dsimp only; split <;> split <;> split <;> simp
@[simp] theorem State.schedFault_tiles (s : State) (second : Bool) (f : SFault) (a : FaultAt) : (s.schedFault second f a).tiles = s.tiles := by
  unfold State.schedFault; dsimp only; split <;> split <;> split <;> simp
@[simp] theorem State.schedFault_coop (s : State) (second : Bool) (f : SFault) (a : FaultAt) : (s.schedFault second f a).coop = s.coop := by
  unfold State.schedFault; dsimp only; split <;> split <;> split <;> simp
@[simp] theorem State.schedFault_fab (s : State) (second : Bool) (f : SFault) (a : FaultAt) : (s.schedFault second f a).fab = s.fab := by
  unfold State.schedFault; dsimp only; split <;> split <;> split <;> simp
@[simp] theorem State.schedFault_ltr (s : State) (second : Bool) (f : SFault) (a : FaultAt) : (s.schedFault second f a).ltr = s.ltr := by
  unfold State.schedFault; dsimp only; split <;> split <;> split <;> simp
@[simp] theorem State.schedFault_kln (s : State) (second : Bool) (f : SFault) (a : FaultAt) : (s.schedFault second f a).kln = s.kln := by
  unfold State.schedFault; dsimp only; split <;> split <;> split <;> simp
@[simp] theorem State.schedFault_rack (s : State) (second : Bool) (f : SFault) (a : FaultAt) : (s.schedFault second f a).rack = s.rack := by
  unfold State.schedFault; dsimp only; split <;> split <;> split <;> simp
@[simp] theorem State.schedFault_hyd (s : State) (second : Bool) (f : SFault) (a : FaultAt) : (s.schedFault second f a).hyd = s.hyd := by
  unfold State.schedFault; dsimp only; split <;> split <;> split <;> simp
@[simp] theorem State.schedFault_mem (s : State) (second : Bool) (f : SFault) (a : FaultAt) : (s.schedFault second f a).mem = s.mem := by
  unfold State.schedFault; dsimp only; split <;> split <;> split <;> simp
@[simp] theorem State.schedFault_pwr (s : State) (second : Bool) (f : SFault) (a : FaultAt) : (s.schedFault second f a).pwr = s.pwr := by
  unfold State.schedFault; dsimp only; split <;> split <;> split <;> simp
@[simp] theorem State.schedFault_sec (s : State) (second : Bool) (f : SFault) (a : FaultAt) : (s.schedFault second f a).sec = s.sec := by
  unfold State.schedFault; dsimp only; split <;> split <;> split <;> simp
@[simp] theorem State.schedFault_boot (s : State) (second : Bool) (f : SFault) (a : FaultAt) : (s.schedFault second f a).boot = s.boot := by
  unfold State.schedFault; dsimp only; split <;> split <;> split <;> simp
@[simp] theorem State.schedFault_pins (s : State) (second : Bool) (f : SFault) (a : FaultAt) : (s.schedFault second f a).pins = s.pins := by
  unfold State.schedFault; dsimp only; split <;> split <;> split <;> simp
@[simp] theorem State.schedFault_fresh (s : State) (second : Bool) (f : SFault) (a : FaultAt) : (s.schedFault second f a).fresh = s.fresh := by
  unfold State.schedFault; dsimp only; split <;> split <;> split <;> simp
@[simp] theorem State.schedFault_out (s : State) (second : Bool) (f : SFault) (a : FaultAt) : (s.schedFault second f a).out = s.out := by
  unfold State.schedFault; dsimp only; split <;> split <;> split <;> simp

/-! `lockWrite`, `store` -/

@[simp] theorem State.lockWrite_pending (s : State) (p : Page) (off : Nat) : (s.lockWrite p off).pending = s.pending := by
  unfold State.lockWrite
  simp only
  split
  · rfl
  · rw [State.raise_pending, State.setFld_pending]; rfl
@[simp] theorem State.store_pending (s : State) (p : Page) (off : Nat) (w : RegW) : (s.store p off w).pending = s.pending := by
  unfold State.store
  simp only
  split
  · rw [State.lockWrite_pending]; rfl
  · rfl
@[simp] theorem State.lockWrite_clk (s : State) (p : Page) (off : Nat) : (s.lockWrite p off).clk = s.clk := by
  unfold State.lockWrite
  simp only
  split
  · rfl
  · rw [State.raise_clk, State.setFld_clk]; rfl
@[simp] theorem State.store_clk (s : State) (p : Page) (off : Nat) (w : RegW) : (s.store p off w).clk = s.clk := by
  unfold State.store
  simp only
  split
  · rw [State.lockWrite_clk]; rfl
  · rfl
@[simp] theorem State.lockWrite_htm (s : State) (p : Page) (off : Nat) : (s.lockWrite p off).htm = s.htm := by
  unfold State.lockWrite
  simp only
  split
  · rfl
  · rw [State.raise_htm, State.setFld_htm]; rfl
@[simp] theorem State.store_htm (s : State) (p : Page) (off : Nat) (w : RegW) : (s.store p off w).htm = s.htm := by
  unfold State.store
  simp only
  split
  · rw [State.lockWrite_htm]; rfl
  · rfl
@[simp] theorem State.lockWrite_sch (s : State) (p : Page) (off : Nat) : (s.lockWrite p off).sch = s.sch := by
  unfold State.lockWrite
  simp only
  split
  · rfl
  · rw [State.raise_sch, State.setFld_sch]; rfl
@[simp] theorem State.store_sch (s : State) (p : Page) (off : Nat) (w : RegW) : (s.store p off w).sch = s.sch := by
  unfold State.store
  simp only
  split
  · rw [State.lockWrite_sch]; rfl
  · rfl
@[simp] theorem State.lockWrite_fronts (s : State) (p : Page) (off : Nat) : (s.lockWrite p off).fronts = s.fronts := by
  unfold State.lockWrite
  simp only
  split
  · rfl
  · rw [State.raise_fronts, State.setFld_fronts]; rfl
@[simp] theorem State.store_fronts (s : State) (p : Page) (off : Nat) (w : RegW) : (s.store p off w).fronts = s.fronts := by
  unfold State.store
  simp only
  split
  · rw [State.lockWrite_fronts]; rfl
  · rfl
@[simp] theorem State.lockWrite_tiles (s : State) (p : Page) (off : Nat) : (s.lockWrite p off).tiles = s.tiles := by
  unfold State.lockWrite
  simp only
  split
  · rfl
  · rw [State.raise_tiles, State.setFld_tiles]; rfl
@[simp] theorem State.store_tiles (s : State) (p : Page) (off : Nat) (w : RegW) : (s.store p off w).tiles = s.tiles := by
  unfold State.store
  simp only
  split
  · rw [State.lockWrite_tiles]; rfl
  · rfl
@[simp] theorem State.lockWrite_coop (s : State) (p : Page) (off : Nat) : (s.lockWrite p off).coop = s.coop := by
  unfold State.lockWrite
  simp only
  split
  · rfl
  · rw [State.raise_coop, State.setFld_coop]; rfl
@[simp] theorem State.store_coop (s : State) (p : Page) (off : Nat) (w : RegW) : (s.store p off w).coop = s.coop := by
  unfold State.store
  simp only
  split
  · rw [State.lockWrite_coop]; rfl
  · rfl
@[simp] theorem State.lockWrite_fab (s : State) (p : Page) (off : Nat) : (s.lockWrite p off).fab = s.fab := by
  unfold State.lockWrite
  simp only
  split
  · rfl
  · rw [State.raise_fab, State.setFld_fab]; rfl
@[simp] theorem State.store_fab (s : State) (p : Page) (off : Nat) (w : RegW) : (s.store p off w).fab = s.fab := by
  unfold State.store
  simp only
  split
  · rw [State.lockWrite_fab]; rfl
  · rfl
@[simp] theorem State.lockWrite_ltr (s : State) (p : Page) (off : Nat) : (s.lockWrite p off).ltr = s.ltr := by
  unfold State.lockWrite
  simp only
  split
  · rfl
  · rw [State.raise_ltr, State.setFld_ltr]; rfl
@[simp] theorem State.store_ltr (s : State) (p : Page) (off : Nat) (w : RegW) : (s.store p off w).ltr = s.ltr := by
  unfold State.store
  simp only
  split
  · rw [State.lockWrite_ltr]; rfl
  · rfl
@[simp] theorem State.lockWrite_kln (s : State) (p : Page) (off : Nat) : (s.lockWrite p off).kln = s.kln := by
  unfold State.lockWrite
  simp only
  split
  · rfl
  · rw [State.raise_kln, State.setFld_kln]; rfl
@[simp] theorem State.store_kln (s : State) (p : Page) (off : Nat) (w : RegW) : (s.store p off w).kln = s.kln := by
  unfold State.store
  simp only
  split
  · rw [State.lockWrite_kln]; rfl
  · rfl
@[simp] theorem State.lockWrite_rack (s : State) (p : Page) (off : Nat) : (s.lockWrite p off).rack = s.rack := by
  unfold State.lockWrite
  simp only
  split
  · rfl
  · rw [State.raise_rack, State.setFld_rack]; rfl
@[simp] theorem State.store_rack (s : State) (p : Page) (off : Nat) (w : RegW) : (s.store p off w).rack = s.rack := by
  unfold State.store
  simp only
  split
  · rw [State.lockWrite_rack]; rfl
  · rfl
@[simp] theorem State.lockWrite_hyd (s : State) (p : Page) (off : Nat) : (s.lockWrite p off).hyd = s.hyd := by
  unfold State.lockWrite
  simp only
  split
  · rfl
  · rw [State.raise_hyd, State.setFld_hyd]; rfl
@[simp] theorem State.store_hyd (s : State) (p : Page) (off : Nat) (w : RegW) : (s.store p off w).hyd = s.hyd := by
  unfold State.store
  simp only
  split
  · rw [State.lockWrite_hyd]; rfl
  · rfl
@[simp] theorem State.lockWrite_mem (s : State) (p : Page) (off : Nat) : (s.lockWrite p off).mem = s.mem := by
  unfold State.lockWrite
  simp only
  split
  · rfl
  · rw [State.raise_mem, State.setFld_mem]; rfl
@[simp] theorem State.store_mem (s : State) (p : Page) (off : Nat) (w : RegW) : (s.store p off w).mem = s.mem := by
  unfold State.store
  simp only
  split
  · rw [State.lockWrite_mem]; rfl
  · rfl
@[simp] theorem State.lockWrite_pwr (s : State) (p : Page) (off : Nat) : (s.lockWrite p off).pwr = s.pwr := by
  unfold State.lockWrite
  simp only
  split
  · rfl
  · rw [State.raise_pwr, State.setFld_pwr]; rfl
@[simp] theorem State.store_pwr (s : State) (p : Page) (off : Nat) (w : RegW) : (s.store p off w).pwr = s.pwr := by
  unfold State.store
  simp only
  split
  · rw [State.lockWrite_pwr]; rfl
  · rfl
@[simp] theorem State.lockWrite_sec (s : State) (p : Page) (off : Nat) : (s.lockWrite p off).sec = s.sec := by
  unfold State.lockWrite
  simp only
  split
  · rfl
  · rw [State.raise_sec, State.setFld_sec]; rfl
@[simp] theorem State.store_sec (s : State) (p : Page) (off : Nat) (w : RegW) : (s.store p off w).sec = s.sec := by
  unfold State.store
  simp only
  split
  · rw [State.lockWrite_sec]; rfl
  · rfl
@[simp] theorem State.lockWrite_boot (s : State) (p : Page) (off : Nat) : (s.lockWrite p off).boot = s.boot := by
  unfold State.lockWrite
  simp only
  split
  · rfl
  · rw [State.raise_boot, State.setFld_boot]; rfl
@[simp] theorem State.store_boot (s : State) (p : Page) (off : Nat) (w : RegW) : (s.store p off w).boot = s.boot := by
  unfold State.store
  simp only
  split
  · rw [State.lockWrite_boot]; rfl
  · rfl
@[simp] theorem State.lockWrite_pins (s : State) (p : Page) (off : Nat) : (s.lockWrite p off).pins = s.pins := by
  unfold State.lockWrite
  simp only
  split
  · rfl
  · rw [State.raise_pins, State.setFld_pins]; rfl
@[simp] theorem State.store_pins (s : State) (p : Page) (off : Nat) (w : RegW) : (s.store p off w).pins = s.pins := by
  unfold State.store
  simp only
  split
  · rw [State.lockWrite_pins]; rfl
  · rfl
@[simp] theorem State.lockWrite_fresh (s : State) (p : Page) (off : Nat) : (s.lockWrite p off).fresh = s.fresh := by
  unfold State.lockWrite
  simp only
  split
  · rfl
  · rw [State.raise_fresh, State.setFld_fresh]; rfl
@[simp] theorem State.store_fresh (s : State) (p : Page) (off : Nat) (w : RegW) : (s.store p off w).fresh = s.fresh := by
  unfold State.store
  simp only
  split
  · rw [State.lockWrite_fresh]; rfl
  · rfl
@[simp] theorem State.lockWrite_out (s : State) (p : Page) (off : Nat) : (s.lockWrite p off).out = s.out := by
  unfold State.lockWrite
  simp only
  split
  · rfl
  · rw [State.raise_out, State.setFld_out]; rfl
@[simp] theorem State.store_out (s : State) (p : Page) (off : Nat) (w : RegW) : (s.store p off w).out = s.out := by
  unfold State.store
  simp only
  split
  · rw [State.lockWrite_out]; rfl
  · rfl

end Sys2Proof.Machine
end

