-- ==== Sys2Proof/Laws/Due.lean ====
section
/-! SUPPORT. What taking the time on can do: the clock goes on, what is due is done, and nothing else changes. -/
namespace Sys2Proof.Machine

theorem State.DueOnly.refl (s : State) : s.DueOnly s := rfl

theorem State.DueOnly.trans {s t u : State} (h : s.DueOnly t) (k : t.DueOnly u) : s.DueOnly u := by
  unfold State.DueOnly at *
  rw [h] at k
  exact k

theorem dueOnly_clockTo (s : State) (t : Phase) : s.DueOnly (s.clockTo t) := rfl

theorem dueOnly_spadWrite (s : State) (t : Fin 128) (p : Bool) (a : Nat) (d : List Byte) : s.DueOnly (s.spadWrite t p a d) := by
  unfold State.spadWrite
  generalize linesOf (a, d.length) = ls
  induction ls generalizing s with
  | nil => rfl
  | cons l ls ih =>
    rw [List.foldl_cons]
    refine State.DueOnly.trans ?_ (ih _)
    split <;> rfl

theorem dueOnly_storePhys (s : State) (g : Nat) (ps : List (Nat × List Byte)) (p : Bool) : s.DueOnly (s.storePhys g ps p) := by
  unfold State.storePhys
  simp only
  split <;> rfl

theorem dueOnly_apply (s : State) (d : DueAct) : s.DueOnly (d.apply s) := by
  cases d with
  | hbm g ps p => exact dueOnly_storePhys s g ps p
  | spad t a data p => exact dueOnly_spadWrite s t p a data
  | fetch t a g l till => rfl
  | cell t a n l sh f => rfl
  | reopen out => rfl

/-- One act that is taken up. -/
theorem dueOnly_take (s : State) (d : Due) (rest : List Due) :
    s.DueOnly (d.act.apply (({ s with due := rest } : State).clockTo d.at_)) :=
  State.DueOnly.trans (t := (({ s with due := rest } : State).clockTo d.at_)) rfl (dueOnly_apply _ _)

theorem dueOnly_settleDue (n : Nat) (t : Phase) (s : State) : s.DueOnly (State.settleDue n t s) := by
  induction n generalizing s with
  | zero => rfl
  | succ n ih =>
    unfold State.settleDue
    split
    · rfl
    · split
      · exact (dueOnly_take _ _ _).trans (ih _)
      · rfl

/-- Taking the time on changes the clock, and what acts that are due may touch, and nothing else. -/
theorem dueOnly_advanceTo (s : State) (t : Phase) : s.DueOnly (s.advanceTo t) :=
  (dueOnly_settleDue _ _ _).trans (dueOnly_clockTo _ _)

/-! `advanceTo`, field by field. -/

@[simp] theorem State.advanceTo_pending (s : State) (t : Phase) : (s.advanceTo t).pending = s.pending := by rw [dueOnly_advanceTo s t]
@[simp] theorem State.advanceTo_htm (s : State) (t : Phase) : (s.advanceTo t).htm = s.htm := by rw [dueOnly_advanceTo s t]
@[simp] theorem State.advanceTo_sch (s : State) (t : Phase) : (s.advanceTo t).sch = s.sch := by rw [dueOnly_advanceTo s t]
@[simp] theorem State.advanceTo_fronts (s : State) (t : Phase) : (s.advanceTo t).fronts = s.fronts := by rw [dueOnly_advanceTo s t]
@[simp] theorem State.advanceTo_coop (s : State) (t : Phase) : (s.advanceTo t).coop = s.coop := by rw [dueOnly_advanceTo s t]
@[simp] theorem State.advanceTo_ltr (s : State) (t : Phase) : (s.advanceTo t).ltr = s.ltr := by rw [dueOnly_advanceTo s t]
@[simp] theorem State.advanceTo_kln (s : State) (t : Phase) : (s.advanceTo t).kln = s.kln := by rw [dueOnly_advanceTo s t]
@[simp] theorem State.advanceTo_rack (s : State) (t : Phase) : (s.advanceTo t).rack = s.rack := by rw [dueOnly_advanceTo s t]
@[simp] theorem State.advanceTo_hyd (s : State) (t : Phase) : (s.advanceTo t).hyd = s.hyd := by rw [dueOnly_advanceTo s t]
@[simp] theorem State.advanceTo_host (s : State) (t : Phase) : (s.advanceTo t).host = s.host := by rw [dueOnly_advanceTo s t]
@[simp] theorem State.advanceTo_pwr (s : State) (t : Phase) : (s.advanceTo t).pwr = s.pwr := by rw [dueOnly_advanceTo s t]
@[simp] theorem State.advanceTo_sec (s : State) (t : Phase) : (s.advanceTo t).sec = s.sec := by rw [dueOnly_advanceTo s t]
@[simp] theorem State.advanceTo_boot (s : State) (t : Phase) : (s.advanceTo t).boot = s.boot := by rw [dueOnly_advanceTo s t]
@[simp] theorem State.advanceTo_pins (s : State) (t : Phase) : (s.advanceTo t).pins = s.pins := by rw [dueOnly_advanceTo s t]
@[simp] theorem State.advanceTo_fresh (s : State) (t : Phase) : (s.advanceTo t).fresh = s.fresh := by rw [dueOnly_advanceTo s t]
@[simp] theorem State.advanceTo_out (s : State) (t : Phase) : (s.advanceTo t).out = s.out := by rw [dueOnly_advanceTo s t]

/-! The clock. -/

theorem later_of_two (a b : Nat) : a + (b - a) = max a b := by omega

@[simp] theorem clockTo_phase (s : State) (t : Phase) : (s.clockTo t).clk.phase = max s.clk.phase t := later_of_two _ _

@[simp] theorem clockTo_stopped (s : State) (t : Phase) : (s.clockTo t).clk.stopped = s.clk.stopped := rfl

theorem spadWrite_clk (s : State) (t : Fin 128) (p : Bool) (a : Nat) (d : List Byte) : (s.spadWrite t p a d).clk = s.clk := by
  unfold State.spadWrite
  generalize linesOf (a, d.length) = ls
  induction ls generalizing s with
  | nil => rfl
  | cons l ls ih =>
    rw [List.foldl_cons, ih]
    split <;> rfl

@[simp] theorem apply_clk (s : State) (d : DueAct) : (d.apply s).clk = s.clk := by
  cases d with
  | hbm g ps p => simp only [DueAct.apply, State.storePhys]; split <;> rfl
  | spad t a data p => exact spadWrite_clk s t p a data
  | fetch t a g l till => rfl
  | cell t a n l sh f => rfl
  | reopen out => rfl

/-- An act that is taken up takes the time to its own. -/
@[simp] theorem take_phase (s : State) (d : Due) (rest : List Due) :
    (d.act.apply (({ s with due := rest } : State).clockTo d.at_)).clk.phase = max s.clk.phase d.at_ := by
  rw [apply_clk, clockTo_phase]

/-- What is due takes the time no further than it is taken, and never back. -/
theorem settleDue_phase (n : Nat) (t : Phase) (s : State) :
    s.clk.phase ≤ (State.settleDue n t s).clk.phase ∧ (State.settleDue n t s).clk.phase ≤ max s.clk.phase t := by
  induction n generalizing s with
  | zero => exact ⟨Nat.le_refl _, Nat.le_max_left _ _⟩
  | succ n ih =>
    unfold State.settleDue
    split
    · exact ⟨Nat.le_refl _, Nat.le_max_left _ _⟩
    · rename_i d rest _
      split
      · rename_i hd
        obtain ⟨h1, h2⟩ := ih (d.act.apply (({ s with due := rest } : State).clockTo d.at_))
        rw [take_phase] at h1 h2
        exact ⟨Nat.le_trans (Nat.le_max_left _ _) h1,
          Nat.le_trans h2 (Nat.max_le.mpr ⟨Nat.max_le.mpr ⟨Nat.le_max_left _ _, Nat.le_trans hd (Nat.le_max_right _ _)⟩,
            Nat.le_max_right _ _⟩)⟩
      · exact ⟨Nat.le_refl _, Nat.le_max_left _ _⟩

/-- The time goes on to where it is taken, and never back. -/
@[simp] theorem advanceTo_phase (s : State) (t : Phase) : (s.advanceTo t).clk.phase = max s.clk.phase t := by
  obtain ⟨h1, h2⟩ := settleDue_phase s.dueFuel t s
  rw [State.advanceTo, clockTo_phase]
  exact Nat.le_antisymm (Nat.max_le.mpr ⟨h2, Nat.le_max_right _ _⟩)
    (Nat.max_le.mpr ⟨Nat.le_trans h1 (Nat.le_max_left _ _), Nat.le_max_right _ _⟩)

/-- Whether hall time stands still does not change with the time. -/
@[simp] theorem advanceTo_stopped (s : State) (t : Phase) : (s.advanceTo t).clk.stopped = s.clk.stopped := by
  have h : ∀ n (s : State), (State.settleDue n t s).clk.stopped = s.clk.stopped := by
    intro n
    induction n with
    | zero => intro s; rfl
    | succ n ih =>
      intro s
      unfold State.settleDue
      split
      · rfl
      · split
        · rw [ih, apply_clk, clockTo_stopped]
        · rfl
  exact (clockTo_stopped _ _).trans (h _ _)

/-- With nothing due, only the clock goes on. -/
theorem advanceTo_of_due_nil {s : State} (t : Phase) (h : s.due = []) : s.advanceTo t = s.clockTo t := by
  simp [State.advanceTo, State.dueFuel, h, State.settleDue]

end Sys2Proof.Machine
end

