-- ==== Sys2Proof/Laws/Flash.lean ====
section
/-! SUPPORT. Laws of flash: bytes stored read back, and the record that the shutdown self-test writes is one that start-up
accepts. -/
namespace Sys2Proof.Machine

/-! Bytes and numbers. -/

@[simp] theorem length_leBytes (n v : Nat) : (leBytes n v).length = n := by simp [leBytes]

@[simp] theorem length_beBytes (n v : Nat) : (beBytes n v).length = n := by simp [beBytes]

@[simp] theorem length_digestBytes (d : BitVec 384) : (digestBytes d).length = 48 := by simp [digestBytes]

theorem leBytes_succ (n v : Nat) : leBytes (n + 1) v = byteOf v 0 :: leBytes n (v / 256) := by
  simp only [leBytes, List.range_succ_eq_map, List.map_cons, List.map_map]
  congr 1
  apply List.map_congr_left
  intro i _
  simp only [Function.comp_apply, byteOf, Nat.pow_succ]
  rw [Nat.div_div_eq_div_mul, Nat.mul_comm (256 ^ i)]

/-- The bytes of a number spell it, as far as they go. -/
theorem leNat_leBytes (n v : Nat) : leNat (leBytes n v) = v % 256 ^ n := by
  induction n generalizing v with
  | zero => simp [leBytes, leNat, Nat.mod_one]
  | succ n ih =>
    rw [leBytes_succ, leNat, ih, Nat.pow_succ, Nat.mul_comm (256 ^ n), Nat.mod_mul]
    simp [byteOf]

/-! Flash. -/

theorem smGet_flashPut_outside (d : Byte) (m : SMap Byte) (a : Nat) (bs : List Byte) {j : Nat} (h : j < a ∨ a + bs.length ≤ j) :
    smGet d (flashPut m a bs) j = smGet d m j := by
  induction bs generalizing m a with
  | nil => rfl
  | cons b t ih =>
    simp only [List.length_cons] at h
    rw [flashPut, ih _ _ (by omega), smGet_smPut_other _ _ _ (by omega)]

theorem smGet_flashPut_inside (d : Byte) (m : SMap Byte) (a : Nat) (bs : List Byte) {i : Nat} (h : i < bs.length) :
    smGet d (flashPut m a bs) (a + i) = bs[i] := by
  induction bs generalizing m a i with
  | nil => simp at h
  | cons b t ih =>
    rw [flashPut]
    cases i with
    | zero => rw [smGet_flashPut_outside _ _ _ _ (by omega)]; simp [smGet_smPut_same]
    | succ n =>
      have := ih (smPut m a b) (a + 1) (i := n) (by simpa using h)
      rw [show a + (n + 1) = a + 1 + n by omega, this]; simp

/-- Reading back the bytes that were stored. -/
theorem flashGet_flashSet_same (s : State) (a : Nat) (bs : List Byte) : (s.flashSet a bs).flashGet a bs.length = bs := by
  apply List.ext_getElem
  · simp [State.flashGet]
  · intro i h1 h2
    simpa [State.flashGet, State.flashByte, State.flashSet] using smGet_flashPut_inside (Config.factoryFlash (a + i)) s.sec.flash a bs h2

/-! The record of the self-test. -/

@[simp] theorem recordMac_flashSet (s : State) (a : Nat) (d b : List Byte) : (s.flashSet a d).recordMac b = s.recordMac b := rfl
@[simp] theorem zxDigest_flashSet (s : State) (a : Nat) (d : List Byte) : (s.flashSet a d).sec.zxDigest = s.sec.zxDigest := rfl

theorem length_recordMac (s : State) (b : List Byte) : (s.recordMac b).length = 48 := length_digestBytes _

/-- What start-up checks of a record made of these parts holds, whatever RESULT, DURATION and SEQ are (R398, R399). -/
theorem record_parts (serial : BitVec 64) (seq zx rest mac : List Byte) (hs : seq.length = 8) (hz : zx.length = 48)
    (hr : rest.length = 40) (hm : mac.length = 48) :
    let b := leBytes 4 recordMagic ++ [1, 0xFF, 0, 0] ++ leBytes 8 serial.toNat ++ seq ++ zx ++ rest
    imNat (b ++ mac) 0 4 = recordMagic ∧ imNat (b ++ mac) 4 1 = 1 ∧ imNat (b ++ mac) 5 1 = 0xFF ∧
      imNat (b ++ mac) 8 8 = serial.toNat ∧ ((b ++ mac).drop 0x18).take 48 = zx ∧ ((b ++ mac).drop 0x70).take 48 = mac ∧
      ((b ++ mac).take 5 ++ [0xFF] ++ ((b ++ mac).drop 6).take 0x6A) = (b.take 5 ++ [0xFF] ++ (b.drop 6).take 0x6A) := by
  have h4 : leBytes 4 recordMagic = [0x42, 0x54, 0x53, 0x54] := by decide
  have h8 : (leBytes 8 serial.toNat).length = 8 := length_leBytes _ _
  have hn : leNat (leBytes 8 serial.toNat) = serial.toNat := by
    rw [leNat_leBytes]; exact Nat.mod_eq_of_lt serial.isLt
  generalize leBytes 8 serial.toNat = q at *
  rw [h4]
  refine ⟨?_, ?_, ?_, ?_, ?_, ?_, ?_⟩ <;>
    simp [imNat, leNat, recordMagic, List.drop_append, List.take_append, hs, hz, hr, hm, h8, hn,
      List.drop_eq_nil_of_le, List.take_of_length_le]

/-- A record made of these parts, with its MAC, passes every check of R399. -/
theorem record_ok (s : State) (seq rest r b : List Byte) (hs : seq.length = 8) (hr : rest.length = 40)
    (hb : leBytes 4 recordMagic ++ [1, 0xFF, 0, 0] ++ leBytes 8 Config.serial.toNat ++ seq ++ digestBytes s.sec.zxDigest ++ rest = b)
    (e : r = b ++ s.recordMac b) :
    (decide (imNat r 0 4 = recordMagic) && decide (imNat r 4 1 = 1) && decide (imNat r 5 1 = 0xFF) &&
      decide (imNat r 8 8 = Config.serial.toNat) && decide ((r.drop 0x18).take 48 = digestBytes s.sec.zxDigest) &&
      decide ((r.drop 0x70).take 48 = s.recordMac r)) = true := by
  have parts := record_parts Config.serial seq (digestBytes s.sec.zxDigest) rest (s.recordMac b) hs (length_digestBytes _) hr
    (length_recordMac s b)
  rw [hb] at parts
  dsimp only at parts
  rw [← e] at parts
  have hmac : s.recordMac r = s.recordMac b := by
    simp only [State.recordMac, parts.2.2.2.2.2.2]
  simp only [parts, hmac, decide_true, Bool.and_true]

/-- The record that the shutdown self-test writes is valid for the same serial number, measurement and secret (R398, R399). -/
theorem recordValid_recordBytes (s : State) : (s.flashSet recordAt s.recordBytes).recordValid = true := by
  have hg : (s.flashSet recordAt s.recordBytes).flashGet recordAt 0xA0 = s.recordBytes := by
    have h : s.recordBytes.length = 0xA0 := by simp [State.recordBytes, length_recordMac]
    rw [← h]; exact flashGet_flashSet_same s recordAt _
  have key : ∀ (t : State) (r : List Byte), t.flashGet recordAt 0xA0 = r → t.recordMac r = s.recordMac r →
      t.sec.zxDigest = s.sec.zxDigest → r = s.recordBytes → t.recordValid = true := by
    intro t r h1 h2 h3 h4
    unfold State.recordValid
    rw [h1]
    dsimp only
    rw [h2, h3]
    refine record_ok s (leBytes 8 (s.boot.prevSeq + 1)) (leBytes 24 ((s.fld .bst (BST.RESULT 0) + s.fld .bst (BST.RESULT 1) * 2 ^ 64 +
      s.fld .bst (BST.RESULT 2) * 2 ^ 128) % 2 ^ 150) ++ leBytes 4 (msBetween s.boot.testAt s.clk.phase) ++ List.replicate 12 0)
      r _ (length_leBytes _ _) (by simp) rfl ?_
    rw [h4]
    simp only [State.recordBytes, List.append_assoc]
  exact key _ _ hg (recordMac_flashSet _ _ _ _) (zxDigest_flashSet _ _ _) rfl

end Sys2Proof.Machine
end

