-- ==== Sys2Proof/Laws/Issue.lean ====
section
/-! SUPPORT. What issuing an instruction comes to: the one lemma per case of an issue that the statements cite. -/
namespace Sys2Proof.Machine

/-- A job that issues cleanly launches at its time and the front moves on, in a timed step as in an untimed one. -/
theorem issueJob_clean {s : State} {i : TileIssue} {j : Job} (h : s.cleanIssue i j = true) : issueJob i j s = s.issued i j := by
  unfold State.cleanIssue State.frontReady at h
  unfold issueJob issueTile
  cases hreg : s.sch.regime with
  | none => simp [hreg] at h
  | timed =>
    simp only [hreg, if_true, State.timedClean, State.wellFormed, Bool.and_eq_true, decide_eq_true_eq, Bool.not_eq_true'] at h
    obtain ⟨⟨⟨hr, he⟩, hq⟩, ⟨⟨⟨⟨⟨⟨⟨⟨⟨⟨hw, hwp⟩, hb⟩, hper⟩, ho⟩, hc⟩, hu⟩, hrank⟩, hcol⟩, hpd⟩, hnr⟩⟩ := h
    simp only [State.stampPhase] at *
    simp only [hr, he, Bool.not_true, Bool.false_eq_true, if_false, issueTimed, State.issued, State.issueTime,
      State.stampPhase, hreg, if_true, hq, hw, hwp, hb, hc, hpd, hnr, hcol, ho, hper, hrank, Bool.or_self, ne_eq,
      not_true_eq_false, decide_false, Nat.not_lt.mpr hu]
  | untimed =>
    simp only [hreg, reduceCtorEq, if_false, State.untimedClean, State.wellFormed, State.issueTime, Bool.and_eq_true,
      Bool.not_eq_true', bne_iff_ne, ne_eq, and_true] at h
    obtain ⟨⟨hr, he⟩, ⟨⟨⟨⟨hw, hwp⟩, hb⟩, hz⟩, hnr⟩, hcol⟩ := h
    simp [hr, he, issueUntimed, State.issued, State.issueTime, hreg, hw, hwp, hb, hz, hnr, hcol]

/-- A front that has ended, or whose module does not run, issues nothing. -/
theorem issueJob_idle {s : State} {i : TileIssue} (j : Job)
    (h : (!s.running || (s.front (frontKey i.tile i.stream)).ended) = true) : issueJob i j s = s := by
  unfold issueJob issueTile
  exact if_pos h

/-- Between steps no front issues. -/
theorem issueJob_noStep {s : State} {i : TileIssue} (j : Job) (h : s.sch.regime = .none) : issueJob i j s = s := by
  unfold issueJob issueTile
  split
  · rfl
  · simp only [h]

/-- A MALFORMED instruction of a front that is ready in a timed step is suppressed, and the front moves on. -/
theorem issueJob_malformed {s : State} {i : TileIssue} {j : Job} (h : s.frontReady i = true) (hreg : s.sch.regime = .timed)
    (hb : (s.advanceTo (s.stampPhase i)).wellFormed i j = false) :
    issueJob i j s = (suppress i j.unit .malformed (!(wordBad j.unit j.cls j.op i.word ||
      ((s.advanceTo (s.stampPhase i)).front (frontKey i.tile i.stream)).wordPoison) && j.plan.decodes) j.work.mark
      (s.advanceTo (s.stampPhase i))).passTile i := by
  simp only [State.frontReady, hreg, Bool.and_eq_true, Bool.not_eq_true', State.stampPhase] at h
  obtain ⟨⟨hr, he⟩, hq⟩ := h
  unfold issueJob issueTile
  simp only [hr, he, hreg, Bool.not_true, Bool.or_false, Bool.false_eq_true, if_false, issueTimed, State.stampPhase] at *
  simp only [hq, Bool.not_true, Bool.false_eq_true, if_false]
  refine congrArg (State.passTile · i) (if_pos ?_)
  simp only [State.wellFormed] at hb
  rcases hw : wordBad j.unit j.cls j.op i.word <;>
    rcases hp : ((s.advanceTo (s.sch.startPhase + issueStamp i.word)).front (frontKey i.tile i.stream)).wordPoison <;>
    rcases hj : j.plan.bad <;> simp_all

/-- An instruction of the lauter program that issues cleanly is launched at its time and the program front moves on. -/
theorem issueLtr_clean {s : State} {o : LtrOp} {w : Issue} (run : Phase → Bool → State → State) (h : s.ltrClean o w = true) :
    issueLtr o w run s = (ltrLaunch o w (s.ltrTime o w) false run (s.advanceTo (s.ltrTime o w))).passLtr w := by
  unfold State.ltrClean at h
  unfold issueLtr
  cases hreg : s.sch.regime with
  | none => simp [hreg] at h
  | timed =>
    simp only [hreg, if_true, Bool.and_eq_true, decide_eq_true_eq, Bool.not_eq_true'] at h
    obtain ⟨⟨⟨⟨⟨hr, he⟩, hw⟩, hwp⟩, hb⟩, ⟨⟨⟨⟨hq, hper⟩, ho⟩, hc⟩, hu⟩, hpd⟩ := h
    simp only [hr, he, Bool.not_true, Bool.false_eq_true, if_false, issueLtrTimed, State.ltrTime, hreg, if_true, hw,
      hwp, hq, hper, ho, hb, hc, hpd, Nat.not_lt.mpr hu, Bool.or_self, ne_eq, not_true_eq_false, decide_false]
  | untimed =>
    simp only [hreg, reduceCtorEq, if_false, Bool.and_eq_true, Bool.not_eq_true', and_true] at h
    obtain ⟨⟨⟨⟨hr, he⟩, hw⟩, hwp⟩, hb⟩ := h
    simp [hr, he, issueLtrUntimed, State.ltrTime, hreg, hw, hwp, hb]

/-- An instruction of a U front that issues cleanly does its work at its time and the front moves on. -/
theorem issueU_clean {s : State} {k : Nat} {j : UJob} {w : Issue} (h : s.uClean k j w = true) : issueU k j w s = s.uIssued k j w := by
  unfold State.uClean at h
  unfold issueU
  cases hreg : s.sch.regime with
  | none => simp [hreg] at h
  | timed =>
    simp only [State.uTime, hreg, if_true, Bool.and_eq_true, decide_eq_true_eq, Bool.not_eq_true'] at h
    obtain ⟨⟨⟨⟨⟨hr, he⟩, hw⟩, hwp⟩, hb⟩, ⟨⟨⟨hv, hq⟩, hper⟩, ho⟩, hu⟩ := h
    simp only [hr, he, Bool.not_true, Bool.false_eq_true, if_false, issueUTimed, State.uIssued, State.uTime, hreg,
      if_true, hv, bne_self_eq_false, hw, hwp, hq, hper, ho, hb, Nat.not_lt.mpr hu, Bool.or_self, ne_eq, not_true_eq_false,
      decide_false]
  | untimed =>
    simp only [State.uTime, hreg, reduceCtorEq, if_false, Bool.and_eq_true, Bool.not_eq_true'] at h
    obtain ⟨⟨⟨⟨⟨hr, he⟩, hw⟩, hwp⟩, hb⟩, hu⟩ := h
    simp [hr, he, issueUUntimed, State.uIssued, State.uTime, hreg, hw, hwp, hb, hu]

end Sys2Proof.Machine
end

