-- ==== Sys2Proof/WellFormed.lean ====
section
/-! DEFINITION. Which commands the outside world can send: the shapes that the operand types leave open. -/
namespace Sys2Proof

/-- A codeword has ten cell positions, and an FTYPE that is not reserved (R207, R208). -/
def Codeword.wf (c : Codeword) : Bool := c.slots.length == 10 && decide (c.ftype.toNat < 3)

/-- A sample of the sensors: 64 of the die and 8 of the stacks, each and the coolant in 16 bits of 1/16 °C (R365, R367, R370). -/
def sensorsWf (die stks : List Int) (coolant : Int) : Bool :=
  let fits := fun (x : Int) => decide (-32768 ≤ x ∧ x < 32768)
  die.length == 64 && stks.length == 8 && die.all fits && stks.all fits && fits coolant

/-- A sample of the rails: a voltage and a current of 16 bits for each of eight zones (R364, R371). -/
def railsWf (mv da : List Nat) : Bool :=
  mv.length == 8 && da.length == 8 && mv.all (fun x => decide (x < 2 ^ 16)) && da.all fun x => decide (x < 2 ^ 16)

/-- Whether a command has the shape in which its sender can send it; what is shaped by its types alone always has. -/
def Instr.wf : Instr → Bool
  | .codewordRx _ cw => cw.wf
  | .portDown _ (.lanes failed) => failed != 0
  | .allocRequest r => decide (r.size < 2 ^ 32)
  | .bar2Read _ len => decide (0 < len)
  | .bar2Write _ data => decide (0 < data.length)
  | .sensorSample die stks coolant => sensorsWf die stks coolant
  | .zoneRailSample mv da => railsWf mv da
  | _ => true

end Sys2Proof
end

