-- ==== Sys2Proof/Tests/Slice0.lean ====
section
/-! SUPPORT. Small tests: the spec's worked examples, ill-formed commands, and for every statement with hypotheses a state and
operands that meet them. -/
namespace Sys2Proof.Tests
open Sys2Proof Sys2Proof.Machine

section
-- One theorem after the other: in parallel the kernel's evaluations take more memory than a check may.
set_option Elab.async false

/-- The reset state with some register fields at other values. -/
def tst (fs : List (Page × Fld × Nat)) : State := fs.foldl (fun s x => s.setFld x.1 x.2.1 x.2.2) State.reset

/-- The module at READY, and some register fields. -/
def up (fs : List (Page × Fld × Nat)) : State := tst ((.bst, BST.STATUS_STAGE, 5) :: fs)

/-- A 64-bit write. -/
def wr (v : Nat) : RegW := ⟨.whole, BitVec.ofNat 64 v⟩

/-- A state in a timed step, or in an untimed one. -/
def timed (s : State) : State := { s with sch := { s.sch with regime := .timed } }
def untimed (s : State) : State := { s with sch := { s.sch with regime := .untimed } }

/-! Ill-formed commands, each refused by the check of its kind. -/

theorem test_wf_codeword_of_nine_slots : (Instr.codewordRx 0 ⟨0, 0, List.replicate 9 none, 0, 0⟩).wf = false := by decide
theorem test_wf_codeword_of_ten_slots : (Instr.codewordRx 0 ⟨0, 0, List.replicate 10 none, 0, 0⟩).wf = true := by decide
theorem test_wf_port_down_without_a_lane : (Instr.portDown 0 (.lanes 0)).wf = false := by decide
theorem test_wf_alloc_size_of_33_bits : (Instr.allocRequest ⟨0, 0, 2 ^ 32, 1⟩).wf = false := by decide
theorem test_wf_empty_read : (Instr.bar2Read 0 0).wf = false := by decide
theorem test_wf_empty_write : (Instr.bar2Write 0 []).wf = false := by decide
theorem test_wf_63_sensors : (Instr.sensorSample (List.replicate 63 0) (List.replicate 8 0) 0).wf = false := by decide
theorem test_wf_hot_coolant : (Instr.sensorSample (List.replicate 64 0) (List.replicate 8 0) 32768).wf = false := by decide
theorem test_wf_seven_rails : (Instr.zoneRailSample (List.replicate 7 0) (List.replicate 8 0)).wf = false := by decide
theorem test_wf_rail_of_17_bits : (Instr.zoneRailSample (List.replicate 8 65536) (List.replicate 8 0)).wf = false := by decide

/-! The spec's worked examples. -/

/-- R208: the CRC-16 of the nine ASCII bytes "123456789", and R229 the CRC-64. -/
theorem test_crc16_check_string : crcOf 16 0x1021 0xFFFF 9 0x393837363534333231 = 0x29B1 := by decide +kernel
theorem test_crc64_check_string : crcOf 64 0x42F0_E1EB_A9EA_3693 0 9 0x393837363534333231 = 0x6C40_DF5F_0B49_7347 := by
  decide +kernel

/-- FIPS 180-4: SHA-384 of "abc" (R373). -/
theorem test_sha384 : sha384 [0x61, 0x62, 0x63] = 0xcb00753f45a35e8bb5a03d699ac65007272c32ab0eded1631a8b605a43ff5bed8086072ba1e7cc2358baeca134c825a7 := by
  decide +kernel

/-- R324: the granule of an interleaved address, and the stack-local address of the same granule. -/
theorem test_interleaved_granule : interGran 0x0000_1234_5600 = some (physGran 328 2330) := by decide +kernel
theorem test_local_granule : localGran 5 0x0246_B600 = some (physGran 328 2330) := by decide +kernel
theorem test_last_interleaved_address : (interGran (384 * 2 ^ 30 - 1)).isSome = true ∧ interGran (384 * 2 ^ 30) = none := by
  decide +kernel

/-- R411, R416: the ID of KLN3, and a register of a tile page. -/
theorem test_kln3_id : pageId (.kln 3) = 0x0011_0003_0001_0000 := by decide
theorem test_bank_pwr_of_t100 : fldAddr (.tspd 100) TSPD.BANK_PWR = 0x0164_4100 := by decide

/-- Worked conversions of the chapter on number formats. -/
theorem test_e4m3_nonsat_overflow : rne fE4M3 false (valueOf fFP32 0x43EB_0000) = ⟨0x7F, some .overflow⟩ := by decide +kernel
theorem test_e4m3_sat_overflow : rne fE4M3 true (valueOf fFP32 0x43EB_0000) = ⟨0x7E, some .overflow⟩ := by decide +kernel
theorem test_e4m3_tie_below_limit : rne fE4M3 false (valueOf fFP32 0x43E8_0000) = ⟨0x7E, none⟩ := by decide +kernel
theorem test_e5m2_subnormal : rne fE5M2 false (valueOf fFP32 0x3840_0000) = ⟨0x03, some .subnormal⟩ := by decide +kernel
theorem test_e5m2_vanish : rne fE5M2 false (valueOf fFP32 0x3700_0000) = ⟨0x00, some .vanish⟩ := by decide +kernel
theorem test_bf16_tie_to_even : rne fBF16 false (valueOf fFP32 0x3F80_8000) = ⟨0x3F80, none⟩ := by decide +kernel
theorem test_bf16_tie_up : rne fBF16 false (valueOf fFP32 0x3F81_8000) = ⟨0x3F82, none⟩ := by decide +kernel
theorem test_e2m1_rounds_up : rne fE2M1 false (valueOf fFP32 0xC030_0000) = ⟨0xD, none⟩ := by decide +kernel
theorem test_int8_overflow : rne fINT8 false (valueOf fFP32 0xC303_0000) = ⟨0x80, some .overflow⟩ := by decide +kernel
theorem test_mx32_block : encMx fE4M3 false true [fpInt 100 0, valueOf fFP32 0x3C23_D70A] =
    ⟨0x7D, [⟨0x7C, none⟩, ⟨0x12, none⟩]⟩ := by decide +kernel
theorem test_fb16_block : encFb fpOne [fpInt 5 0, fpOne] = ⟨0x7F, [⟨0x7, none⟩, ⟨0x2, none⟩]⟩ := by decide +kernel

/-- R94, R95: the generator's test vector, and the rounding that takes its value. -/
theorem test_generator : genRandom 0x0123_4567_89AB_CDEF 5 16 7 = 0x19E7 := by decide +kernel
theorem test_stochastic_rounding : (sr fE4M3 (.fin false 37 (-4)) 6631).code = 0x42 := by decide +kernel

/-- The kiln's worked example: steps 1 and 33 of a SIGNMOM element. -/
theorem test_kiln_step_1 : (masterStep ⟨.fin false 1 (-20), .fin false 7 (-3), .fin false 15 (-4), fpZero⟩ ⟨0x4480_0000, 0, 0⟩ fpOne)
    = some (0x4480_0000, 0xB580) := by decide +kernel
theorem test_kiln_step_33 : (masterStep ⟨.fin false 1 (-20), .fin false 7 (-3), .fin false 15 (-4), fpZero⟩ ⟨0x4480_0000, 0xB800, 0⟩
    fpOne) = some (0x447F_FFFF, 0x37F8) := by decide +kernel

/-- The worked allocation of the cooperage: with 0x0100 and 0x0101 taken a request of class 0 falls back to class 2. -/
theorem test_worked_allocation :
    let p : Pool := ⟨true, false, false, 0, 0x100, 0, 0x104800, [2, 0, 1, 0, 0, 1]⟩
    let s := (State.reset.setBuf 0x100 ⟨true, 1, 0, 0⟩).setBuf 0x101 ⟨true, 1, 0, 0⟩
    s.search p 6 (classFor 800) 0 = (some 0x102, 2) := by decide +kernel

/-- R348: the offer of a module with a failed block and no owner, and the active features of the worked example. -/
theorem test_offer : (tst [(.bst, BST.STATUS_FAILED, 1)]).offer = 0xDFFE := by decide +kernel
theorem test_active : ({ tst [(.glb, GLB.FEAT_OFFER, 0xDFFE), (.glb, GLB.FEAT_ACCEPT, 0xC7F3)] with
    host := { HostIf.initial with cfg := ⟨false, false, false, true⟩ } } : State).activeFeatures = 0x86C0 := by decide +kernel

/-- R414: a counter read in halves returns the value at the first read. -/
theorem test_counter_in_halves :
    let s := up [(.lnk 0, LNK.CELL_TX_CNT, 0x0000_0001_FFFF_FFF0)]
    (match exec (.lowHalfRead ⟨0x40040, 4⟩) s with
      | .next t => match exec (.lowHalfRead ⟨0x40044, 4⟩) (t.setFld (.lnk 0) LNK.CELL_TX_CNT 0x0000_0002_0000_0010) with
        | .next u => u.out
        | _ => []
      | _ => []) = [.readData 0x40040 0xFFFF_FFF0, .readData 0x40044 0x0000_0001] := by decide +kernel

/-- R221: the pins of a module at u = 2, v = 1 give its SMBus address. -/
theorem test_smbus_address : (match exec (.auxRailsUp 0 2 0) State.reset with | .next t => t.smbusAddr | _ => 0) = 0x46 := by
  decide +kernel

/-! For every statement with hypotheses, a state and operands that meet them together. -/

/-! The queue, time, the bus. -/

theorem test_front_command : ({ State.reset with pending := [.ready, .noGm] } : State).pending = .ready :: [.noGm] := rfl
theorem test_empty_queue : State.reset.pending = [] ∧ State.reset.clk.stopped = false ∧ State.reset.due = [] := ⟨rfl, rfl, rfl⟩
theorem test_stopped_clock : ({ State.reset with clk := ⟨0, 0, true⟩ } : State).pending = [] ∧
    ({ State.reset with clk := ⟨0, 0, true⟩ } : State).clk.stopped = true := ⟨rfl, rfl⟩
theorem test_canonical_step : State.reset.canonical = true ∧ step State.reset = .next State.reset.tick := ⟨by decide, rfl⟩
theorem test_page_answers : State.reset.answers .glb = true ∧ (up []).answers (.tspd 127) = true ∧
    (up []).fld .glb GLB.FEAT_ACTIVE = 0 := by decide
theorem test_page_is_found : pageAt 0x0164_4100 = some (.tspd 100) ∧ pageAt 0x017F_FFFF = none ∧ pageAt 0x0001_8000 = none := by
  decide
theorem test_plain_register : (up []).reaches .irq = true ∧ (up []).locked = false ∧
    ∀ w t, blockWrite .irq 0x100 w t = plainWrite .irq 0x100 w t := ⟨by decide, by decide, fun _ _ => rfl⟩
theorem test_plain_register_at_the_end : (up []).reaches (.tspd 127) = true ∧
    ∀ w t, blockWrite (.tspd 127) 0xFF8 w t = plainWrite (.tspd 127) 0xFF8 w t := ⟨by decide, fun _ _ => rfl⟩
theorem test_locked_field : (up [(.sch, SCH.STATUS_LOCKED, 1)]).locked = true ∧
    Half.mask .whole &&& (regRow .sch 0x100).rwl ≠ 0 ∧ (up [(.sch, SCH.STATUS_LOCKED, 1)]).flag .sch SCH.LOCK_WR_FIRST_VALID = false := by
  decide
theorem test_second_locked_write : (up [(.sch, SCH.STATUS_LOCKED, 1), (.sch, SCH.LOCK_WR_FIRST_VALID, 1)]).locked = true ∧
    (up [(.sch, SCH.STATUS_LOCKED, 1), (.sch, SCH.LOCK_WR_FIRST_VALID, 1)]).flag .sch SCH.LOCK_WR_FIRST_VALID = true := by decide
theorem test_bad_access : ¬((2 : Nat) = 8 ∧ (0x100 : BitVec 26).toNat % 8 = 0) ∧ ¬((2 : Nat) = 4 ∧ (0x100 : BitVec 26).toNat % 4 = 0) ∧
    (0x102 : BitVec 26).toNat % 4 ≠ 0 := by decide
theorem test_sleeping_function : ({ up [] with host := { HostIf.initial with d3hot := true } } : State).stage = stageReady ∧
    (up []).host.d3hot = false := by decide
theorem test_unassigned_offset : pageAt (0x17F_FFF8 : BitVec 26).toNat = none ∧ (0x17F_FFF8 : BitVec 26).toNat % 8 = 0 := by decide
theorem test_low_half : (up []).answers (.lnk 0) = true ∧ isRo (.lnk 0) 0x040 = true ∧ isRo .sch 0x120 = false ∧ (0x040 : Nat) < 0x1000 ∧
    (0x040 : Nat) % 8 = 0 := by decide
theorem test_no_latch : isRo .sch 0x120 = false ∧ ((up []).latchOf (.lnk 0)).2 ≠ 0x040 ∧ (up []).answers .htm = true ∧ HTM.TIME.off % 8 = 0 := by
  decide
theorem test_latched_register : (({ up [] with host := { HostIf.initial with latch := smSet (0, 1) [] (pageBase (.lnk 0)) (7, 0x040) } } :
    State).latchOf (.lnk 0)).2 = 0x040 := by decide

/-! Events, counters and interrupts. -/

theorem test_event_first_clear : (up []).flag .htm COM.EVENT_FIRST_VALID = false ∧ (63 : Nat) < 64 := by decide
theorem test_event_first_valid : (up [(.htm, COM.EVENT_FIRST_VALID, 1), (.htm, COM.EVENT_TIME, 100)]).flag .htm COM.EVENT_FIRST_VALID =
    true ∧ (up [(.htm, COM.EVENT_FIRST_VALID, 1), (.htm, COM.EVENT_TIME, 100)]).fld .htm COM.EVENT_TIME / 4 ≠ (up []).ht / 4 := by decide
theorem test_event_page_reached : (up []).reaches .pwr = true ∧ State.reset.reaches .pwr = false := by decide
theorem test_event_left : (match exec (.eventClear .pwr (wr 1)) (up [(.pwr, COM.EVENT, 1)]) with
    | .next t => t.fld .pwr COM.EVENT | _ => 1) = 0 ∧ (match exec (.eventClear .pwr (wr 1)) (up [(.pwr, COM.EVENT, 3)]) with
    | .next t => t.fld .pwr COM.EVENT | _ => 0) = 2 := by decide
theorem test_counter_clear : (up []).answers (.mem 7) = true ∧ (up []).deaf = false ∧ wHits (wr (2 ^ 63)) COM.CNT_CLR = true ∧
    up [] = (up []).pageNow (.mem 7) := ⟨by decide, by decide, by decide, rfl⟩
theorem test_counter_clear_high : let w : RegW := ⟨.high, 0x8000_0000⟩
    (up []).answers .htm = true ∧ wHits w COM.CNT_CLR = true ∧ (up []).locked = false ∧
    bitsOf (wData w) 43 32 = (up []).fld .htm HTM.CTRL_PORT_MASK ∧ (up []).portState 3 = portDisabled ∧ (up []).testing = false := by decide
theorem test_counter_field : PWR.DIP_CNT.lo = 0 ∧ PWR.DIP_CNT.hi = 63 := ⟨rfl, rfl⟩
theorem test_route_on : ((up [(.irq, IRQ.ROUTE_ENABLE 5, 1)]).route .pwr).2 = true ∧ ((up []).route .pwr).2 = false ∧
    (up [(.irq, IRQ.ROUTE_ENABLE 5, 1)]).reaches .pwr = true := by decide

/-- A state with one message asked for on vector 3, MSI-X on or off. -/
def asked (on masked : Bool) : State :=
  { up [] with host := { HostIf.initial with cfg := ⟨on, masked, true, false⟩, irqQ := [⟨0, .pwr, 0, 3⟩] } }

theorem test_message_dropped : (asked false false).host.irqQ = ⟨0, .pwr, 0, 3⟩ :: [] ∧ (asked false false).msixOff = true := by decide
theorem test_message_sent : (asked true false).msixOff = false ∧ (asked true false).vecMasked 3 = false := by decide
theorem test_message_pended : (asked true true).msixOff = false ∧ (asked true true).vecMasked 3 = true := by decide
theorem test_no_message : (up []).host.irqQ = [] := by decide
theorem test_vector_unmask : let s : State := { up [(.hif, HIF.MSIX_PBA, 2 ^ 3)] with
      host := { HostIf.initial with cfg := ⟨true, false, true, false⟩ } }
    s.reaches .hif = true ∧ s.msixOff = false ∧ State.reset.reaches .hif = false ∧ (asked false false).msixOff = true := by decide
theorem test_enable_while_set : (up [(.pwr, COM.EVENT, 1)]).reaches .pwr = true ∧
    bitOf (((up [(.pwr, COM.EVENT, 1)]).store .pwr 0x028 (wr 1)).fld .pwr COM.EVENT_EN) 0 = true := by decide
theorem test_nothing_pending : (up []).fld .hif HIF.MSIX_PBA = 0 := by decide

/-! Hall time. -/

theorem test_symbol_due : let s : State := { up [(.lnk 0, LNK.STATUS_STATE, 2)] with clk := ⟨4000, 0x3E8_0000, false⟩ }
    s.fld (.lnk 0) LNK.STATUS_STATE = 2 ∧ (s.htPort 0).sentAt < s.ht / 1000 := by decide
theorem test_symbol_bad : crc8 ((1 : BitVec 256).toNat % 2 ^ 248) ≠ (1 : BitVec 256).toNat / 2 ^ 248 := by decide +kernel
theorem test_symbol_good : crc8 ((packSymbol 0 0 0 0 0 0 0).toNat % 2 ^ 248) = (packSymbol 0 0 0 0 0 0 0).toNat / 2 ^ 248 ∧
    (packSymbol 0 0 0 0 0 0 0).toNat % 256 = 0x5A := by decide +kernel
theorem test_port_silent : let s : State := { up [] with clk := ⟨16000, 0, false⟩ }
    (s.htPort 11).lost = false ∧ (s.htPort 11).lastAt + 16000 ≤ s.clk.phase := by decide
theorem test_htm_enable : (up []).reaches .htm = true ∧ (up []).locked = false ∧ (up []).flag .htm HTM.CTRL_ENABLE = false ∧
    (wr 1).half = .whole ∧ (wr 1).val.toNat = 1 := by decide
theorem test_htm_disable : (up [(.htm, HTM.CTRL_ENABLE, 1)]).reaches .htm = true ∧ (up [(.htm, HTM.CTRL_ENABLE, 1)]).locked = false ∧
    (up [(.htm, HTM.CTRL_ENABLE, 1)]).flag .htm HTM.CTRL_ENABLE = true ∧ (wr 0).val.toNat = 0 := by decide
theorem test_freq_acq : let s : State := { up [(.htm, HTM.STATUS_STATE, htFreqAcq)] with clk := ⟨4000000, 0, false⟩ }
    s.htState = htFreqAcq ∧ s.htm.enabledAt + 4000000 ≤ s.clk.phase := by decide
theorem test_holdover : let s : State := { up [(.htm, HTM.STATUS_STATE, htLocked)] with clk := ⟨4000, 0, false⟩ }
    s.isGm = false ∧ s.htState = htLocked ∧ s.clk.stopped = false ∧ s.htState ≠ htDisabled ∧ s.htm.servoAt + 4000 ≤ s.clk.phase ∧
    s.contributing = [] := by decide +kernel

/-- A module that has been within 40 ps of its neighbour at port 0 for 1,023 updates. -/
def nearLock : State :=
  { up [(.htm, HTM.STATUS_STATE, htPhaseAcq), (.lnk 0, LNK.STATUS_STATE, portLocked)] with
    clk := ⟨4000, 0, false⟩
    htm := { Htm.initial with
      stepped := true
      offRun := 1023
      ports := [(0, { HtmPort.initial with heard := true, locked := true, lost := false, offset := some 0, delays := [0] })] } }

theorem test_phase_lock : nearLock.isGm = false ∧ nearLock.htState = htPhaseAcq ∧ nearLock.contributing ≠ [] ∧
    nearLock.htm.stepped = true ∧ 1023 ≤ nearLock.htm.offRun ∧ (nearLock.combined nearLock.contributing).natAbs ≤ 5242 ∧
    nearLock.htm.servoAt + 4000 ≤ nearLock.clk.phase := by decide +kernel
theorem test_no_gm : let s : State := { up [(.htm, HTM.STATUS_STATE, htLocked)] with clk := ⟨16000, 0, false⟩ }
    s.htState = htLocked ∧ s.isGm = false ∧ s.htm.gmSeenAt + 16000 ≤ s.clk.phase ∧ s.flag .htm HTM.STATUS_NO_GM = false := by decide
theorem test_tod_write : (up []).reaches .htm = true ∧ (up []).htState = htDisabled ∧ (up []).locked = false := by decide
theorem test_tod_ignored : let s := up [(.htm, HTM.STATUS_STATE, htFreqAcq)]
    s.reaches .htm = true ∧ s.locked = false ∧ ¬(s.htState = htDisabled ∨ s.htState = htPhaseAcq ∧ s.isGm = true) := by decide

/-- A grandmaster in PHASE_ACQ that waits for its TICK_IN edge. -/
def gmWait (phase : Nat) : State :=
  { up [(.htm, HTM.STATUS_STATE, htPhaseAcq), (.htm, HTM.CTRL_GRANDMASTER, 1), (.htm, HTM.CTRL_TICK_IN_EN, 1)] with
    htm := { Htm.initial with todPending := some 7 }, clk := ⟨phase, 0, false⟩ }

theorem test_tick_in_loads : (gmWait 0).isGm = true ∧ (gmWait 0).flag .htm HTM.CTRL_TICK_IN_EN = true ∧ (gmWait 0).htState = htPhaseAcq ∧
    (gmWait 0).htm.todPending = some 7 ∧ (gmWait 0).htm.stepped = false := by decide
theorem test_tick_in_missing : (gmWait 8000000000).htm.edgeAt = none ∧ (gmWait 8000000000).htm.enabledAt + 8000000000 ≤
    (gmWait 8000000000).clk.phase ∧ (gmWait 8000000000).htm.tickMissing = false ∧ (gmWait 8000000000).htm.todPending.isSome = true ∧
    (gmWait 8000000000).htm.loadedAt = none := by decide
theorem test_gm_locks : let s : State := { gmWait 80000000 with htm := Htm.initial }
    s.isGm = true ∧ s.htState = htPhaseAcq ∧ s.htm.todPending = none ∧ s.htm.loadedAt.getD s.htm.enabledAt + 80000000 ≤ s.clk.phase := by
  decide
theorem test_ptm_request : let s := up [(.glb, GLB.FEAT_ACTIVE, 2 ^ 10)]
    let w := wr (2 ^ HTM.CTRL_PTM_REQ.lo)
    s.reaches .htm = true ∧ bitOf (s.fld .glb GLB.FEAT_ACTIVE) 10 = true ∧ wHits w HTM.CTRL_PTM_REQ = true ∧
      (s.store .htm 0x010 w).isGm = s.isGm ∧ (s.store .htm 0x010 w).flag .htm HTM.CTRL_ENABLE = s.flag .htm HTM.CTRL_ENABLE ∧
      wHits w COM.CNT_CLR = false := by decide +kernel
theorem test_ptm_auto : let s : State := { up [(.glb, GLB.FEAT_ACTIVE, 2 ^ 10), (.htm, HTM.CTRL_PTM_AUTO, 1)] with
      clk := ⟨40000000, 0, false⟩ }
    s.flag .htm HTM.CTRL_PTM_AUTO = true ∧ s.htm.autoAt + 40000000 ≤ s.clk.phase ∧ bitOf (s.fld .glb GLB.FEAT_ACTIVE) 10 = true := by decide
theorem test_ptm_response : ({ up [] with htm := { Htm.initial with ptmT1 := some 5 } } : State).htm.ptmT1 = some 5 := rfl
theorem test_tick_out : let s : State := { up [(.htm, HTM.CTRL_TICK_OUT_EN, 1)] with clk := ⟨0, 999999998 * 65536, false⟩ }
    s.flag .htm HTM.CTRL_TICK_OUT_EN = true ∧ (s.clk.ht.toNat + 2 * 65536) % (1000000000 * 65536) ≤ 4 * 65536 ∧ s.htm.pulseAt = none := by
  decide
theorem test_tick_in_locked : let s : State := { up [(.htm, HTM.STATUS_STATE, htLocked), (.htm, HTM.CTRL_GRANDMASTER, 1),
      (.htm, HTM.CTRL_TICK_IN_EN, 1)] with clk := ⟨8000000000, 0, false⟩ }
    s.isGm = true ∧ s.flag .htm HTM.CTRL_TICK_IN_EN = true ∧ s.htState = htLocked ∧ s.htm.tickMissing = false ∧
    s.htm.tickFrom + 8000000000 ≤ s.clk.phase := by decide
/-! The schedule. -/

/-- A small primary image on chip, with one digest tick. -/
def anImage : Image :=
  { base := 0, len := 4208, second := false, signed := false, untimedOnly := false, reqFeat := 0, stepPeriod := 100000,
    lastDigest := 1000, opmap := 0, hallId := 0, portDelay := [], dir := [], ticks := [1000], windows := [], bubbles := [],
    lead := 0, batches := [], pre := 0, hold := 0, power := [⟨100, 0, List.replicate 9 0, List.replicate 9 0⟩] }

/-- A state with that image loaded, fields set, and the scheduler in a state of its own. -/
def sched (st : Nat) (fs : List (Page × Fld × Nat)) : State :=
  let s := up ([(.sch, SCH.STATUS_STATE, st), (.glb, GLB.FEAT_ACTIVE, 1), (.htm, HTM.STATUS_STATE, htLocked)] ++ fs)
  { s with sch := { s.sch with img := some anImage } }

theorem test_load_taken : (up []).reaches .sch = true ∧ (up []).schBusy = false ∧ (up []).locked = false ∧
    (wr 1).val.toNat = 1 ∧ (wr 2).val.toNat = 2 ∧ (wr 16).val.toNat = 16 := by decide
theorem test_arm_taken : (sched schHeld []).reaches .sch = true ∧ (sched schHeld []).locked = false ∧
    (sched schHeld []).sch.img = some anImage ∧ (sched schHeld []).schState = schHeld ∧ (wr 0x204).val.toNat = 0x204 := by decide
theorem test_arm_taken_timed : let s := sched schLoaded [(.sch, SCH.NEXT_START, 30000)]
    s.schState = schLoaded ∧ (wr 4).val.toNat = 4 ∧ anImage.untimedOnly = false ∧ s.earliestStart false ≤ s.fld .sch SCH.NEXT_START := by
  decide
theorem test_arm_in_a_step : let s := timed (sched schRunning [(.sch, SCH.NEXT_START, 200000)])
    s.reaches .sch = true ∧ s.sch.regime = .timed ∧ [schRunning, schVerdict, schCommit].contains s.schState = true ∧
    (s.store .sch 0x010 (wr 4)).flag .sch SCH.CTRL_UNTIMED = false ∧ s.earliestStart true ≤ s.fld .sch SCH.NEXT_START := by decide
theorem test_stop_taken : (sched schArmed []).sch.regime = .none ∧ (sched schArmed []).schState = schArmed ∧ (wr 8).half ≠ .high ∧
    bitsOf (wr 8).val.toNat 4 0 = 8 ∧ (sched schArmed []).reaches .sch = true ∧ (timed (sched schRunning [])).reaches .sch = true ∧
    (untimed (sched schRunning [])).reaches .sch = true := by decide
theorem test_load_ignored : (sched schRunning []).schBusy = true ∧ (sched schRunning []).locked = false ∧
    (sched schRunning []).reaches .sch = true := by decide
theorem test_arm_refused : (up []).sch.img = none ∧ (up []).reaches .sch = true ∧ (up []).locked = false ∧ (wr 4).val.toNat = 4 := by decide
theorem test_arm_too_late : let s := sched schLoaded []
    s.sch.img = some anImage ∧ bitOf (wr 4).val.toNat 9 = false ∧ s.schState = schLoaded ∧
    s.fld .sch SCH.NEXT_START < s.earliestStart false ∧ wHits (wr 4) COM.CNT_CLR = false := by decide

/-- An image for untimed steps: a channel table with no entry, and a power declaration of one window. -/
def imageBytes (flags : Nat) : List Byte :=
  leBytes 4 imgMagic ++ leBytes 4 0x10000 ++ leBytes 8 4208 ++ leBytes 8 flags ++ leBytes 8 0 ++ leBytes 4 1000 ++ leBytes 8 0 ++
    leBytes 4 2 ++ List.replicate 12 0xFF ++ leBytes 4 0 ++ leBytes 4 5 ++ leBytes 4 0 ++ leBytes 8 4096 ++ leBytes 4 8 ++
    leBytes 4 112 ++ leBytes 8 4096 ++ List.replicate 4000 0 ++ leBytes 64 1 ++ leBytes 48 1

/-- A state in which a load of `n` bytes is in progress. -/
def loading (second : Bool) (flags n : Nat) : State :=
  let s := up [(.swx, SWX.HALL_ID_VALID, 1)]
  let place := fun (a : Nat) => (interGran a).getD 0 * 256 + a % 256
  { s with
    mem := { s.mem with hbm := (imageBytes flags).zipIdx.filterMap fun x => if x.1 = 0 then none else some (place x.2, x.1) }
    sch := { s.sch with
      loading := some ⟨second, 0, n, 0⟩
      img := if second then some { anImage with stepPeriod := 1000, power := [⟨1, 0, List.replicate 9 0, List.replicate 9 0⟩], bubbles := [⟨0, 0, 0, 0, 0, 0, 0, 0, []⟩] } else none } }

/-- What `ImageLoadEnds` computes of such a state before the digest is published: the code of the first check that fails. -/
def codeOf (s : State) (second : Bool) (len : Nat) : Nat :=
  let n := s.peekNat .inter 8 8
  let r := ({ s with sch := { s.sch with loading := none } } : State).readMem false 0 .inter [] 0 n
  r.2.loadCode r.1.data (imageOf 0 r.1.data) second (r.1.poison || n != len)

/-- Publishing the digest changes no register that the checks of an untimed image read. -/
theorem code_published (s : State) (im : List Byte) (m : Image) (second poison : Bool) (r : Nat → Fld) (d : BitVec 384)
    (hm : m.untimedOnly = true) (hr : ∀ i, i < 6 → (r i).off < 0x1000) :
    (s.publishDigest r d).loadCode im m second poison = s.loadCode im m second poison := by
  have key : ∀ (n : Nat) (p : Page) (f : Fld), n ≤ 6 → (∀ i, i < 6 → fldAddr p f ≠ fldAddr .sch (r i)) →
      ((List.range n).foldl (fun s i => s.setFld .sch (r i) (bitsOf d.toNat (64 * i + 63) (64 * i))) s).fld p f = s.fld p f ∧
      ((List.range n).foldl (fun s i => s.setFld .sch (r i) (bitsOf d.toNat (64 * i + 63) (64 * i))) s).sch = s.sch ∧
      ((List.range n).foldl (fun s i => s.setFld .sch (r i) (bitsOf d.toNat (64 * i + 63) (64 * i))) s).coop = s.coop ∧
      ((List.range n).foldl (fun s i => s.setFld .sch (r i) (bitsOf d.toNat (64 * i + 63) (64 * i))) s).sec = s.sec := by
    intro n p f hn hf
    induction n with
    | zero => exact ⟨rfl, rfl, rfl, rfl⟩
    | succ n ih =>
      obtain ⟨a, b, c, e⟩ := ih (by omega)
      rw [List.range_succ, List.foldl_append]
      exact ⟨(State.fld_setFld_otherReg _ _ (hf n (by omega))).trans a, b, c, e⟩
  have hne : ∀ (p : Page) (f : Fld), p ≠ .sch → f.off < 0x1000 → ∀ i, i < 6 → fldAddr p f ≠ fldAddr .sch (r i) := by
    intro p f hp hf i hi
    exact fldAddr_ne hp hf (hr i hi)
  have h1 := (key 6 .glb GLB.FEAT_ACTIVE (by omega) (hne _ _ (by decide) (by decide))).1
  have h2 := (key 6 .swx SWX.HALL_ID_VALID (by omega) (hne _ _ (by decide) (by decide))).1
  have h3 := (key 6 .swx SWX.HALL_ID_HALL_ID (by omega) (hne _ _ (by decide) (by decide))).1
  obtain ⟨h4, h5, h6, h7⟩ := key 6 .pwr PWR.SLEW_MAX (by omega) (hne _ _ (by decide) (by decide))
  simp only [State.publishDigest, State.loadCode, State.formatOk, State.powerBad, State.signOk, State.ownerOn,
    State.topologyOk, State.flag, h1, h2, h3, h4, h5, h6, h7, hm, Bool.not_true, Bool.false_and]
  rfl

theorem test_digest_registers : (∀ i, i < 6 → (SCH.IMG_DIGEST i).off < 0x1000) ∧ ∀ i, i < 6 → (SCH.IMG2_DIGEST i).off < 0x1000 := by decide
theorem test_image_fails : codeOf (loading false 4 64) false 64 = 1 := by decide +kernel
theorem test_second_image_passes : codeOf (loading true 5 4208) true 4208 = 0 := by decide +kernel
theorem test_second_image_fails : codeOf (loading true 5 64) true 64 = 1 := by decide +kernel

theorem test_timed_start : let s : State := { sched schArmed [] with sch := { (sched schArmed []).sch with armed := some (30000, false) } }
    s.sch.armed = some (30000, false) ∧ s.schState = schArmed ∧ s.flag .sch SCH.CTRL_UNTIMED = false ∧ s.running = true ∧
      let s1 := (s.advanceTo (s.phaseOfTick 30000)).settleZones
      s1.timedReady = true ∧ s1.timedImage = true := by decide +kernel
theorem test_failed_start : let s : State := { sched schArmed [(.thm, THM.STATUS_HOT, 1)] with
      sch := { (sched schArmed []).sch with armed := some (30000, false) } }
    s.sch.armed = some (30000, false) ∧ s.flag .sch SCH.CTRL_UNTIMED = false ∧ s.running = true ∧
      let s1 := (s.advanceTo (s.phaseOfTick 30000)).settleZones
      (s1.timedReady && s1.timedImage) = false := by decide +kernel
theorem test_untimed_start : let s := sched schArmed [(.sch, SCH.CTRL_UNTIMED, 1)]
    s.schState = schArmed ∧ s.flag .sch SCH.CTRL_UNTIMED = true ∧ s.running = true ∧ s.batches.length ≤ s.sch.seqDone ∧
      s.zonesMoving = false := by decide +kernel
theorem test_untimed_u_start : let s := untimed (sched schRunning [])
    s.sch.regime = .untimed ∧ s.sch.uStarted = false ∧ s.running = true ∧ s.streamsEnded = true ∧ s.fab.be = [] ∧ s.ltr.outQ = [] ∧
      s.ltr.retQ = [] := by decide +kernel
theorem test_untimed_end : let s0 := untimed (sched schRunning [])
    let s : State := { s0 with sch := { s0.sch with uStarted := true } }
    s.sch.regime = .untimed ∧ s.sch.uStarted = true ∧ s.running = true ∧ s.uEnded = true := by decide +kernel
theorem test_digest_tick : (timed (sched schRunning [])).sch.regime = .timed ∧ (timed (sched schRunning [])).running = true ∧
    (timed (sched schRunning [])).nextDigest = some (false, 1000) := by decide +kernel

/-- A timed step with a second job, whose digest tick is 900, and the results that have come. -/
def twoJobs (rs : List DigestRes) : State :=
  let s := timed (sched schRunning [(.sch, SCH.LAST_DIGEST, 1000)])
  { s with sch := { s.sch with img2 := some { anImage with lastDigest := 900, ticks := [900] }, verdict2 := true, results := rs } }

theorem test_second_digest_tick : (twoJobs []).nextDigest = some (true, 900) ∧ (twoJobs []).running = true := by decide +kernel
theorem test_digest_result : ∀ second ∈ [false, true], let r : DigestRes := ⟨4 * 1500, 4 * 1000, 0, second, false, false⟩
    takeFirst DigestRes.tick (twoJobs [r]).sch.results = some (r, []) ∧ (twoJobs [r]).sch.regime = .timed ∧
      (twoJobs [r]).sch.valid = none ∧ (twoJobs [r]).sch.verdict2 = true ∧ 4 * (twoJobs [r]).lastDigestOf second ≤ r.edge ∧
      r.tick ≤ 4 * ((twoJobs [r]).lastDigestOf second + 3000) := by decide +kernel
theorem test_second_verdict : (twoJobs []).nextVerdict = some (true, 3900) := by decide +kernel

/-- A timed step that waits for its verdict at tick 4,000. -/
def verdict (v : Option Bool) : State :=
  let s := timed (sched schVerdict [(.sch, SCH.LAST_DIGEST, 1000)])
  { s with sch := { s.sch with valid := v } }

theorem test_verdicts : ∀ v ∈ [none, some true, some false], (verdict v).nextVerdict = some (false, 4000) ∧
    (verdict v).sch.valid = v ∧ (verdict v).sch.stop = false := by decide +kernel
theorem test_commit_done : ∀ next ∈ [none, some 200000], ∀ auto ∈ [0, 1], ∀ stop ∈ [false, true],
    let s : State := { sched schCommit [(.sch, SCH.CTRL_AUTO, auto)] with sch := { (sched schCommit []).sch with stop := stop, next := next } }
    s.schState = schCommit ∧ s.running = true ∧ s.uEnded = true := by decide +kernel
theorem test_fault_place : let w : FaultAt := ⟨3, 127, 10, 2 ^ 32⟩
    w.stream < 4 ∧ w.tile < 128 ∧ w.unit < 16 ∧ (up []).flag .sch SCH.FAULT_FIRST_VALID = false ∧
      (up [(.sch, SCH.FAULT_FIRST_VALID, 1)]).flag .sch SCH.FAULT_FIRST_VALID = true := by decide

/-- A timed step with quarter 4 of a stream and of a port's runs to refill. -/
def feeding : State :=
  let m : Image := { anImage with
    dir := [⟨secStream, 0, 81920, 8192⟩, ⟨secRuns, 0, 81920, 1048576⟩]
    windows := [(4, [⟨20000, 8, winFeed, 0⟩, ⟨60000000, 8, winRuns, 0⟩])] }
  let f : Front := { Front.initial with
    len := 5120, ended := false, usable := [(0, 0), (1, 0), (2, 0), (3, 0)], waiting := [⟨4, 10, [], 0⟩] }
  let s := timed (sched schRunning [])
  { s with
    sch := { s.sch with img := some m }
    fronts := [(0, f), (runKey 0, { f with waiting := [] })] }

theorem test_feed_refill : feeding.running = true ∧ feeding.sch.regime = .timed ∧
    feeding.waitingAt 0 4 (feeding.front 0).waiting = some ⟨4, 10, [], 0⟩ ∧
    feeding.refillWindow 4 winFeed 0 10 (feeding.front 0).used = some ⟨20000, 8, winFeed, 0⟩ := by decide +kernel
theorem test_runs_refill : ∃ q, feeding.waitingAt (runKey 0) 4 (feeding.runWaiting 0 (feeding.front (runKey 0))) = some q ∧
    feeding.refillWindow 4 winRuns 0 q.since (feeding.front (runKey 0)).used = some ⟨60000000, 8, winRuns, 0⟩ :=
  ⟨⟨4, feeding.quarterRunTick 0 0, [], 0⟩, by decide +kernel⟩
theorem test_untimed_refill : let s : State := { feeding with sch := { feeding.sch with regime := .untimed } }
    s.sch.regime = .untimed ∧ s.waitingAt 0 4 (s.front 0).waiting = some ⟨4, 10, [], 0⟩ := by decide +kernel
theorem test_run_underrun : let s : State := { feeding with fronts := [(runKey 0, { Front.initial with len := 5 })] }
    let f := s.front (runKey 0)
    s.running = true ∧ s.sch.regime = .timed ∧ f.ptr ≤ 0 ∧ 0 < f.len ∧
      (∀ q ∈ f.usable, q.1 = 0 / quarterRuns → s.sch.startPhase + (s.run 0 0).start * outPeriod 0 < q.2) ∧
      ∀ j, f.ptr ≤ j → j < 0 → False := by
  refine ⟨by decide, by decide, by decide, by decide, by decide, fun j _ h => absurd h (by omega)⟩
theorem test_seq_pass : let b : Batch := ⟨16, 0, 4, 0, 4096⟩
    let s0 := sched schArmed []
    let s : State := { s0 with sch := { s0.sch with img := some { anImage with batches := [b], lead := 3000 }, armed := some (30000, false) } }
    s.running = true ∧ s.nextStart = some 30000 ∧ s.batches[s.sch.seqDone]? = some b ∧
      s.seqEnd s.sch.seqDone ≤ s.phaseOfTick 30000 := by decide +kernel

/-! The hydrometer. -/

theorem test_hyd_tap : firstTap [⟨8, 1, .kiln 64 3 0⟩, ⟨4, 2, .kiln 64 0 0⟩] = some (⟨4, 2, .kiln 64 0 0⟩, [⟨8, 1, .kiln 64 3 0⟩]) := by decide
theorem test_record_due : let s : State := { up [] with
      sch := { (up []).sch with recordDue := some ⟨100, true, 5, []⟩ }
      hyd := { Hyd.initial with config := [(7, 1)] } }
    s.sch.recordDue = some ⟨100, true, 5, []⟩ ∧ s.hydIds hEnable = [7] := by decide +kernel

/-- The module with one tensor, of ID 7, whose entry has the AUTO bit. -/
def auto7 (s : State) : State := { s with hyd := { s.hyd with config := [(7, BitVec.ofNat 64 (1 + 2 ^ 1))] } }

theorem test_snapshot : let s := auto7 (timed (up [(.hyd, HYD.SNAP_TICK, 500)]))
    s.sch.regime ≠ .none ∧ s.hyd.snapped = false ∧ s.fld .hyd HYD.SNAP_TICK ≠ 0 ∧ s.due = [] ∧
    s.hydIds (fun e => hAuto e || hNoise e) = [7] ∧ (interGran (s.snapRange 7).1).isSome = true := by decide +kernel
theorem test_selection : let s : State := auto7 { up [(.hyd, HYD.SNAP_TICK, 500)] with sch := (verdict (some true)).sch }
    s.sch.valid = some true ∧ s.fld .hyd HYD.SNAP_TICK ≠ 0 ∧ s.hyd.readDone = none ∧ s.hydIds hAuto = [7] := by decide +kernel
theorem test_hyd_entry : let v := fun (s : State) (w : RegW) => BitVec.ofNat 64 (mergeBits s.hydTabData.toNat (wData w) (Half.mask w.half))
    (up []).reaches .hyd = true ∧ (up []).fld .hyd HYD.TAB_SEL_TABLE = 0 ∧ (up []).locked = false ∧
    hydReject ((up []).fld .glb GLB.FEAT_ACTIVE) (v (up []) (wr (17 + 2 ^ 40))) = false ∧
    hydReject ((up []).fld .glb GLB.FEAT_ACTIVE) (v (up []) (wr 0)) = true ∧ (up [(.sch, SCH.STATUS_LOCKED, 1)]).locked = true ∧
    (up [(.hyd, HYD.TAB_SEL_TABLE, 2)]).fld .hyd HYD.TAB_SEL_TABLE = 2 ∧
    (up [(.hyd, HYD.TAB_SEL_TABLE, 1)]).fld .hyd HYD.TAB_SEL_TABLE = 1 := by decide +kernel
theorem test_core_reset_command : (up []).stage = stageReady ∧ (up []).deaf = false ∧ (up []).host.d3hot = false ∧
    wHits (wr 2) GLB.CTRL_CORE_RESET = true ∧ wHits (wr 2) GLB.CTRL_MODULE_RESET = false ∧
    wHits (wr 2) GLB.CTRL_FABRIC_RESET = false := by decide +kernel
/-! Instructions of the tile fronts: a clean issue of each row. -/

/-- A tile state in a timed step: the front of stream F of tile 0 has its first quarter, and descriptors 0, 1, … are given. -/
def tileAt (ds : List Nat) : State :=
  let s := timed (sched schRunning [(.glb, GLB.FEAT_ACTIVE, 0xFFFF)])
  { s with
    fab := { s.fab with channels := [(0, 0)] }
    fronts := [(0, { Front.initial with len := 100, ended := false, usable := [(0, 0)] })]
    tiles := { s.tiles with desc := ds.zipIdx.map fun x => (x.2, BitVec.ofNat 512 x.1) } }

/-- An instruction of tile 0, stream F, at tick 64, whose word has even parity. -/
def word (u : Unit_) (cls op : Nat) (f : Issue → Issue) : TileIssue :=
  let w := f ⟨0, 64, 0, 0, 0, 0, 0, 0, false, false, false, 0, false, false, none⟩
  ⟨0, .f, { w with parity := popcount 128 (wordNat u cls op w) % 2 = 1 }, 0⟩

/-- A job issues cleanly as the first instruction of tile 0. -/
def clean (ds : List Nat) (u : Unit_) (cls op : Nat) (f : Issue → Issue) (j : TileIssue → State → Job) : Bool :=
  (tileAt ds).cleanIssue (word u cls op f) (j (word u cls op f) (tileAt ds))

/-- VEC and VSHAPE descriptors of FP32 operands at 0, 1 MiB, 2 MiB and 3 MiB with `n0` × `n1` elements in rows of 256 bytes, and
extra bits. -/
def vecDescs (dims n0 n1 extra : Nat) : List Nat :=
  [5 + 2 ^ 74 + 2 ^ 97 + 3 * 2 ^ 118 + dims * 2 ^ 172 + n0 * 2 ^ 192 + n1 * 2 ^ 208 + 0x280000 * 2 ^ 448 + extra,
   6 + (1 + 2 ^ 96 + 2 ^ 192 + 2 ^ 288) * 2 ^ 16]

/-- A vector operation issues cleanly. -/
def cleanVec (ds : List Nat) (p : VecOp) : Bool := clean ds .vec p.cls p.op id (vecJob p)

/-- A vector operation that depends on the word issues cleanly. -/
def cleanVecOf (ds : List Nat) (cls op : Nat) (p : TileIssue → VecOp) : Bool := clean ds .vec cls op id (fun i => vecJob (p i) i)

theorem test_elementwise_clean : ([copyOp, addOp, subOp, mulOp, fmaOp, divOp, maxOp, minOp, absOp, negOp, fillOp].all
    (cleanVec (vecDescs 2 64 4 0))) = true := by decide +kernel
theorem test_functions_clean : ([fnOp 0 .exp2, fnOp 1 .exp, fnOp 2 .log2, fnOp 3 .recip, fnOp 4 .rsqrt, fnOp 5 .sqrt, fnOp 6 .tanh,
    fnOp 7 .sigmoid, fnOp 8 .silu, fnOp 9 .gelu, fnOp 10 .sin, fnOp 11 .cos, rotaryOp].all (cleanVec (vecDescs 2 64 4 0))) = true := by
  decide +kernel
theorem test_reductions_clean : ([reduceOp 0 combSum, reduceOp 1 combMax, reduceOp 2 combMin, reduceOp 3 combSumsq, reduceOp 4 combAmax,
    scanOp 8 combSum, scanOp 9 combMax, scanOp 10 combMin, scanLinOp].all (cleanVec (vecDescs 2 64 4 0))) = true := by decide +kernel
theorem test_softmax_clean : ([smStateOp, smRescaleOp, smBwdOp].all (cleanVec (vecDescs 2 64 4 0))) = true ∧
    cleanVec (vecDescs 1 64 0 0) smMergeOp = true ∧ cleanVecOf (vecDescs 2 64 4 0) 3 0 softmaxOp = true ∧
    cleanVecOf (vecDescs 2 64 4 0) 3 4 smFinalOp = true := by decide +kernel
theorem test_norms_clean : cleanVecOf (vecDescs 2 64 4 0) 4 0 (fun i => normOp 0 false (i.word.uspec.getLsbD 0)) = true ∧
    cleanVecOf (vecDescs 2 64 4 0) 4 1 (fun i => normOp 1 true (i.word.uspec.getLsbD 0)) = true := by decide +kernel
theorem test_sorting_clean : cleanVec (vecDescs 2 64 4 (2 ^ 440)) topkOp = true ∧
    cleanVec (vecDescs 2 16 2 (2 ^ 384)) sortByNnzOp = true := by decide +kernel
theorem test_gather_clean : ([gatherOp, scatterOp 1 false, scatterOp 2 true].all (cleanVec (vecDescs 2 64 4 0))) = true := by
  decide +kernel
theorem test_random_clean : cleanVec (vecDescs 2 64 4 (fINT32 * 2 ^ 16)) randomOp = true ∧
    cleanVecOf (vecDescs 2 64 4 0) 7 0 dropoutOp = true ∧ cleanVecOf (vecDescs 2 4 4 0) 8 0 spdInverseOp = true := by decide +kernel

/-- A mill operation on E4M3 tiles at IN_ADDR 0 and OUT_ADDR 64 KiB issues cleanly; `d` holds the other fields. -/
def cleanMill (o : MillOp) (d arg0 : Nat) (j : TileIssue → State → Job) : Bool :=
  clean [4 + fE4M3 * 2 ^ 4 + 2 ^ 54 + d] .mill 0 o.code (fun w => { w with arg0 := BitVec.ofNat 16 arg0 }) j

theorem test_mill_clean : cleanMill .decode (64 * 2 ^ 96) 0 decodeJob = true ∧
    cleanMill .decodeCompact (2 ^ 81 + 64 * 2 ^ 96 + 64 * 2 ^ 256) 0xFFF0 decodeCompactJob = true ∧
    cleanMill .scan (2 ^ 81) 0 scanJob = true ∧ cleanMill .encode (64 * 2 ^ 96) 0 encodeJob = true ∧
    cleanMill .encodeCoo (2 ^ 81 + 16 * 2 ^ 320) 0 encodeCooJob = true := by decide +kernel

/-- A block of four terms in the active buffer of tile 0. -/
def aBlock : Block := ⟨0, .f, fE4M3, false, 4, false, 0, 0, [], [], 0⟩

theorem test_arr_load_clean : let i := word .arrLoad 0 0 id
    let s := tileAt [1 + fE4M3 * 2 ^ 4 + 64 * 2 ^ 96]
    let s1 := s.arrayAt i.tile (s.sch.startPhase + issueStamp i.word)
    s1.cleanIssue i (loadJob i (s.descriptor i.tile.val i.word.desc) s1) = true := by decide +kernel
theorem test_arr_stream_clean : let i := word .arrStream 0 0 (fun w => { w with arg2 := 8 })
    let s0 := tileAt [2 + fE4M3 * 2 ^ 4 + 256 * 2 ^ 96]
    let s : State := { s0 with tiles := { s0.tiles with arr := [(0, ⟨some aBlock, none, none, []⟩)] } }
    let t := s.sch.startPhase + issueStamp i.word
    let s1 := s.arrayAt i.tile t
    s.sch.regime = .timed ∧ s1.cleanIssue i (streamJob i (s.descriptor i.tile.val i.word.desc) t s1) = true := by decide +kernel
theorem test_arr_drain_clean : clean [3 + 256 * 2 ^ 96 + 0x3F80_0000 * 2 ^ 224] .arrDrain 0 0 (fun w => { w with arg2 := 8 }) drainJob =
    true := by decide +kernel
theorem test_shadow_collision : let s0 := tileAt []
    let s : State := { s0 with
      clk := ⟨100, 0, false⟩
      tiles := { s0.tiles with arr := [(0, ⟨none, some aBlock, some aBlock, []⟩)] } }
    s.sch.regime = .timed ∧ (s.arr 0).held = some aBlock ∧ (s.arr 0).incoming = some aBlock ∧
      aBlock.issuedAt + 8 * s.aclk 0 < s.clk.phase := by decide +kernel

theorem test_xfer_clean : clean [7 + 2 ^ 96 + 2 ^ 112] .xfer 0 0 id (fun i => xferReadJob i []) = true ∧
    clean [7 + 2 ^ 96 + 2 ^ 112] .xfer 0 1 id xferWriteJob = true ∧
    clean [7 + 2 ^ 112 + 64 * 2 ^ 192] .xfer 0 2 id xferSendJob = true ∧
    clean [7] .xfer 0 3 (fun w => { w with arg2 := 7 }) handoffJob = true := by decide +kernel
theorem test_buf_read_clean : let i := word .xfer 0 4 id
    let s := tileAt [7 + 2 ^ 96 + 2 ^ 112 + 2 ^ 218]
    s.running = true ∧ s.sch.regime = .timed ∧ (s.front (frontKey i.tile i.stream)).ended = false ∧
      let s1 := (if s.sch.regime = .timed then s.advanceTo (s.stampPhase i) else s).coopCycle
      s1.cleanIssue i (bufReadJob i [] s1) = true := by decide +kernel

/-- With descriptor 0 all zero an instruction of any unit is MALFORMED, with its front ready. -/
def bad (u : Unit_) (cls op : Nat) (j : TileIssue → State → Job) : Bool :=
  let i := word u cls op id
  (tileAt []).frontReady i && !((tileAt []).advanceTo ((tileAt []).stampPhase i)).wellFormed i (j i (tileAt []))

theorem test_malformed : bad .arrDrain 0 0 drainJob = true ∧ bad .mill 0 0 decodeJob = true ∧ bad .vec 0 1 (vecJob addOp) = true ∧
    bad .vec 2 0 (vecJob (reduceOp 0 combSum)) = true ∧ bad .vec 6 0 (vecJob gatherOp) = true ∧ bad .xfer 0 1 xferWriteJob = true ∧
    bad .xfer 0 3 handoffJob = true := by decide +kernel
theorem test_completed_rows : (match exec (.add (word .vec 0 1 id)) (tileAt (vecDescs 2 64 4 0)) with
    | .next t => t.fld (.tvec 0) TVEC.ISSUE_CNT
    | _ => 0) = 1 := by decide +kernel

/-- The metadata rows from address 0 lie in the scratchpad, whatever their stride is (log 25). -/
theorem metaRows_inside (d : BitVec 512) (h : mAux d = 0) : ((metaRows d).any fun r => !inSpad r) = false := by
  have hs : metaStride ≤ 65536 := by
    have := Config.millMetaStride.isLt
    unfold metaStride; omega
  simp only [metaRows, rowRanges, h, List.any_eq_false, List.mem_map, List.mem_range, if_neg (show ¬(8 = 0) by decide)]
  rintro r ⟨i, hi, rfl⟩
  have : i * metaStride ≤ 63 * 65536 := Nat.mul_le_mul (by omega) hs
  simp [inSpad, spadSize]
  omega

/-- The descriptor of a pruning instruction from 0 to 64 KiB with its metadata at 0. -/
def pruneDesc : Nat := 4 + fE4M3 * 2 ^ 4 + 2 ^ 54 + 64 * 2 ^ 96

theorem encode24_not_bad : millBad .encode24 0xFFFF true (word .mill 0 5 id).word (BitVec.ofNat 512 pruneDesc) = false := by
  have hm := metaRows_inside (BitVec.ofNat 512 pruneDesc) (by decide +kernel)
  unfold millBad millReach
  simp only [List.any_append, hm]
  decide +kernel

theorem encodeTp24_not_bad : millBad .encodeTp24 0xFFFF true (word .mill 0 6 id).word (BitVec.ofNat 512 pruneDesc) = false := by
  have hm := metaRows_inside (BitVec.ofNat 512 pruneDesc) (by decide +kernel)
  unfold millBad millReach
  simp only [List.any_append, hm]
  decide +kernel

theorem test_encode24_clean : let i := word .mill 0 5 id
    (tileAt [pruneDesc]).cleanIssue i (encode24Job i (tileAt [pruneDesc])) = true := by
  have hb : (encode24Job (word .mill 0 5 id) (tileAt [pruneDesc])).plan.bad = false := by
    have h : ∀ i s, (encode24Job i s).plan.bad = millBad .encode24 (s.fld .glb GLB.FEAT_ACTIVE) (s.sch.regime = .timed) i.word
      (s.descriptor i.tile.val i.word.desc) := fun _ _ => rfl
    rw [h, show (tileAt [pruneDesc]).fld .glb GLB.FEAT_ACTIVE = 0xFFFF by decide +kernel,
      show (tileAt [pruneDesc]).descriptor (word .mill 0 5 id).tile.val (word .mill 0 5 id).word.desc =
        BitVec.ofNat 512 pruneDesc by decide +kernel]
    exact encode24_not_bad
  have hw : (tileAt [pruneDesc]).frontReady (word .mill 0 5 id) = true := by decide +kernel
  simp only [State.cleanIssue, State.timedClean, State.wellFormed, hb, hw, show (tileAt [pruneDesc]).sch.regime = .timed from rfl, if_true]
  decide +kernel

theorem test_encodeTp24_clean : let i := word .mill 0 6 id
    (tileAt [pruneDesc]).cleanIssue i (encodeTp24Job i (tileAt [pruneDesc])) = true := by
  have hb : (encodeTp24Job (word .mill 0 6 id) (tileAt [pruneDesc])).plan.bad = false := by
    have h : ∀ i s, (encodeTp24Job i s).plan.bad = millBad .encodeTp24 (s.fld .glb GLB.FEAT_ACTIVE) (s.sch.regime = .timed) i.word
      (s.descriptor i.tile.val i.word.desc) := fun _ _ => rfl
    rw [h, show (tileAt [pruneDesc]).fld .glb GLB.FEAT_ACTIVE = 0xFFFF by decide +kernel,
      show (tileAt [pruneDesc]).descriptor (word .mill 0 6 id).tile.val (word .mill 0 6 id).word.desc =
        BitVec.ofNat 512 pruneDesc by decide +kernel]
    exact encodeTp24_not_bad
  have hw : (tileAt [pruneDesc]).frontReady (word .mill 0 6 id) = true := by decide +kernel
  simp only [State.cleanIssue, State.timedClean, State.wellFormed, hb, hw, show (tileAt [pruneDesc]).sch.regime = .timed from rfl, if_true]
  decide +kernel

/-- The same in an untimed step: an instruction of each unit issues cleanly there too. -/
def cleanUntimed (ds : List Nat) (u : Unit_) (cls op : Nat) (f : Issue → Issue) (j : TileIssue → State → Job) : Bool :=
  (untimed (tileAt ds)).cleanIssue (word u cls op f) (j (word u cls op f) (untimed (tileAt ds)))

theorem test_untimed_clean : cleanUntimed (vecDescs 2 64 4 0) .vec 0 1 id (vecJob addOp) = true ∧
    cleanUntimed [4 + fE4M3 * 2 ^ 4 + 2 ^ 54 + 2 ^ 81] .mill 0 2 id scanJob = true ∧
    cleanUntimed [7 + 2 ^ 96 + 2 ^ 112] .xfer 0 1 id xferWriteJob = true := by decide +kernel
/-! HBM and its windows. -/

theorem test_bytes_in_window : ∀ i, i < [1, 2, 3].length → (Win.inter.gran (254 + i)).isSome = true := by decide +kernel
theorem test_write_seen_later : State.reset.clk.phase < 320 ∧ State.reset.due = [] ∧ (0 : Nat) ≤ State.reset.clk.phase := by decide
theorem test_granule_written_whole : (256 : Nat) % 256 = 0 ∧ (List.replicate 256 (7 : Byte)).length = 256 ∧
    ∀ i, i < 256 → (Win.inter.gran (256 + i)).isSome = true := by decide +kernel
theorem test_bytes_up_to_the_end : ∀ i, i < 2 → (Win.gran (.stack 7) (48 * 2 ^ 30 - 2 + i)).isSome = true := by decide +kernel

/-- Every controller serves, with one byte in the write buffer. -/
def serving : State :=
  let s := up ((List.finRange 8).map fun k => (.mem k, MEM.STATUS_STATE, memReady))
  { s with mem := { s.mem with wbuf := [(0, 7)] } }

theorem test_buffered_write : serving.sch.regime ≠ .timed ∧ serving.memServes 0 = true ∧ serving.mem.wbuf = [(0, 7)] ∧
    stackOf 0 = some 0 ∧ serving.host.lq = [] := by decide +kernel

/-- A timed step with a window of each of three kinds at controller 0. -/
def windowed : State :=
  let s := timed (sched schRunning [])
  { s with sch := { s.sch with img := some { anImage with
      windows := [(0, [⟨100, 16, winService, 0⟩, ⟨200, 16, winLauter, 0⟩, ⟨300, 16, winPool, 15⟩])] } } }

theorem test_windows_next : windowed.sch.regime = .timed ∧ windowed.nextWindow 0 winService 0 = some ⟨100, 16, winService, 0⟩ ∧
    windowed.nextWindow 0 winLauter 0 = some ⟨200, 16, winLauter, 0⟩ ∧
    windowed.nextWindow 0 winPool 15 = some ⟨300, 16, winPool, 15⟩ := by decide +kernel
theorem test_record_to_show : (up []).sch.regime ≠ .timed ∧ (∀ i, i < [5].length → (interGran (0 + i)).isSome = true) ∧
    (0 : Nat) ≤ (up []).clk.phase ∧ stackOf 0 = some (0 : Fin 8).val ∧
    ({ up [] with ltr := { Lauter.initial with unseen := [⟨0, none, 0, [5], false⟩] } } : State).ltr.unseen = [⟨0, none, 0, [5], false⟩] := by
  decide +kernel
theorem test_controller_off : (up []).sch.regime ≠ .timed ∧ (up []).memServes 7 = false := by decide +kernel
theorem test_refresh_due : let s : State := { serving with clk := ⟨2000000, 0, false⟩ }
    s.fld (.mem 0) MEM.STATUS_STATE = memReady ∧ s.maintenanceDue 0 winRef 500000 (smGet 0 s.mem.refAt 0) = true ∧
      s.maintenanceDue 0 winRfm 2000000 (smGet 0 s.mem.rfmAt 0) = true := by decide +kernel

/-! Links and switches. -/

/-- Link ports in a state of their own. -/
def port (st : Nat) (fs : List (Page × Fld × Nat)) : State :=
  let s := up ((.lnk 0, LNK.STATUS_STATE, st) :: fs)
  { s with htm := { s.htm with ports := [(0, { HtmPort.initial with exchanges := 1 })] } }

theorem test_codeword : (port portAdmitted []).portState 0 = portAdmitted ∧
    (port portAdmitted []).launchEdge 0 (BitVec.ofNat 80 0) = some 0 ∧ (⟨6, 0, [some ⟨0, 0⟩], 0, 0⟩ : Codeword).symErr ≤ 6 := by
  decide +kernel
theorem test_codeword_off_its_grid : (port portAdmitted []).portState 0 = portAdmitted ∧
    (port portAdmitted []).launchEdge 0 (BitVec.ofNat 80 81920) = none := by decide +kernel
theorem test_uncorrectable : let s : State := { port portLocked [] with fab := { Fabric.initial with badRun := [(0, 3)] } }
    s.portUp 0 = true ∧ 6 < (⟨7, 0, [], 0, 0⟩ : Codeword).symErr ∧ 3 ≤ smGet 0 s.fab.badRun 0 := by decide +kernel
theorem test_symbol_begins : (port portLocked []).portUp 0 = true ∧ (port portLocked []).portState 0 ≠ portAdmitted ∧
    (⟨0, 0, [], 1, 0x5A⟩ : Codeword).ftype = 1 := by decide +kernel
theorem test_symbol_ends : let s := port portLocked []
    let s1 := s.setHtPort 0 { s.htPort 0 with symParts := 9 }
    s1.portUp 0 = true ∧ s1.portState 0 ≠ portAdmitted ∧ (⟨0, 0, [], 2, 0⟩ : Codeword).ftype = 2 ∧ (s1.htPort 0).symParts = 9 := by
  decide +kernel
theorem test_port_not_up : (port portTraining []).portUp 0 = false := by decide +kernel

/-- A cell that waits at an input. -/
def waitingCell (kind : BitVec 2) (sw : Sw) (deflected lost : Bool) : Flight :=
  ⟨8, sw, 0, 0, ⟨kind, 5, 0, false, deflected, false, 0, 0⟩, .route, lost⟩
def withCells (fs : List Flight) : State :=
  { timed (sched schRunning []) with fab := { Fabric.initial with flight := fs } }

/-- Whether a cell is the first of its kind, with none before it, and is still on its way at its time. -/
def comesFirst (s : State) (p : Flight → Bool) (f : Flight) : Bool :=
  s.firstFlight p = some f && s.cellsBefore f = [] && (s.advanceTo f.at_).fab.flight.find? f.same = some f

theorem test_head_waits : comesFirst (withCells [waitingCell 0 .west true false]) (fun f => f.isAt .west 0 && f.isHead)
      (waitingCell 0 .west true false) = true ∧ (waitingCell 0 .west true false).cell.deflected = true := by decide +kernel
theorem test_body_waits : let s := withCells [waitingCell 1 .west false false]
    comesFirst s (fun f => f.isAt .west 0 && f.isBody) (waitingCell 1 .west false false) = true ∧
      (s.advanceTo 8).latchAt .west 0 0 = none ∧ (waitingCell 1 .west false false).lost = false := by decide +kernel
theorem test_be_head_waits : comesFirst (withCells [waitingCell 2 (.router 5) false false]) (fun f => f.isAt (.router 5) 0 && f.isBeHead)
      (waitingCell 2 (.router 5) false false) = true := by decide +kernel
theorem test_a_cell_comes_before : let f := waitingCell 0 .west false false
    (withCells [f, { f with input := 1 }]).cellsBefore { f with input := 1 } = [f] := by decide +kernel

/-- A best-effort message of one cell that waits at router 20, of a chunk or of none. -/
def oneMessage (chunk : Option Nat) : State :=
  { sched schRunning [] with fab := { Fabric.initial with be := [⟨20, 0, [⟨2, 0, 0, false, false, false, 0, 0⟩], 0, chunk⟩] } }

theorem test_be_inject : ∀ k ∈ [none, some 5], let s := oneMessage k
    let c : FCell := ⟨2, 0, 0, false, false, false, 0, 0⟩
    findIdx (fun m => m.tile = (20 : Fin 128).val) s.fab.be = some (0, ⟨20, 0, [c], 0, k⟩) ∧
      let s1 := s.advanceTo (nextEdge 2 (max s.clk.phase 0))
      (s1.fab.flight.any fun f => f.sw = .router 20 && f.input = 0 && f.lane = 1) = false ∧
        (((s1.beWants (.router 20) c).1.head?).bind fun o => s1.freeLane (.router 20) o 1 s1.clk.phase).isSome = true := by decide +kernel
theorem test_be_waits : let c : FCell := ⟨2, 0, 0, false, false, false, 0, 0⟩
    let s : State := { oneMessage none with fab := { (oneMessage none).fab with flight := [⟨100, .router 20, 0, 1, c, .be, false⟩] } }
    let s1 := s.advanceTo (nextEdge 2 (max s.clk.phase 0))
    (s1.fab.flight.any fun f => f.sw = .router 20 && f.input = 0 && f.lane = 1) = true := by decide +kernel
theorem test_reduce_waits : let s := withCells [waitingCell 3 .west false false]
    comesFirst s (fun f => f.combines && f.sw = .west && f.cell.channel = 5) (waitingCell 3 .west false false) = true ∧
      s.sch.regime = .timed := by decide +kernel
theorem test_digest_alone : let s : State := { withCells [] with
      fab := { (withCells []).fab with channels := [(5, BitVec.ofNat 256 (2 + 6 * 2 ^ 96))], digestOwed := [5] } }
    s.firstFlight (fun f => f.combines && f.sw = edgeSw (portEast 0) && f.cell.channel = 5) = none ∧
      s.digestAlone (edgeSw (portEast 0)) 5 = true := by decide +kernel

theorem test_port_enable : let s := up [(.lnk 11, LNK.CTRL_ENABLE, 0)]
    s.reaches (.lnk 11) = true ∧ s.locked = false ∧ s.boot.fabricBusy = false ∧ s.flag (.lnk 11) LNK.CTRL_ENABLE = false ∧
      wHits (wr 1) LNK.CTRL_ENABLE = true ∧ s.portState 11 = portDisabled := by decide +kernel
theorem test_port_disable : (port portAdmitted []).reaches (.lnk 0) = true ∧ wCovers (wr 0) LNK.CTRL_ENABLE = true ∧
    wHits (wr 0) LNK.CTRL_ENABLE = false ∧ (port portAdmitted []).locked = false := by decide +kernel
theorem test_port_auto_retrain : let s := port portDown [(.lnk 0, LNK.CTRL_AUTO_RETRAIN, 0)]
    s.reaches (.lnk 0) = true ∧ s.locked = false ∧ s.portState 0 = portDown ∧ s.flag (.lnk 0) LNK.CTRL_ENABLE = true ∧
      s.flag (.lnk 0) LNK.CTRL_AUTO_RETRAIN = false ∧ wHits (wr 5) LNK.CTRL_ENABLE = true ∧
      wHits (wr 5) LNK.CTRL_AUTO_RETRAIN = true := by decide +kernel
theorem test_port_training : (port portTraining []).portState 0 = portTraining := by decide +kernel
theorem test_port_loses_a_lane : (port portAdmitted []).portUp 0 = true ∧
    ∀ f, DownCause.lanes 4 = .lanes f → f.toNat % 2 ^ portLanes 0 ≠ 0 := by
  refine ⟨by decide +kernel, fun f h => ?_⟩
  cases h
  decide
theorem test_port_retrains : let s : State := { port portDown [] with
      clk := ⟨4000000, 0, false⟩ }
    s.portState 0 = portDown ∧ s.flag (.lnk 0) LNK.CTRL_AUTO_RETRAIN = true ∧ s.flag (.lnk 0) LNK.CTRL_ENABLE = true ∧
      s.boot.fabricBusy = false ∧ smGet 0 s.fab.downAt 0 + 4000000 ≤ s.clk.phase := by decide +kernel
theorem test_admission : let s := port portLocked [(.lnk 0, LNK.CTRL_AUTO_RETRAIN, 0)]
    s.reaches (.lnk 0) = true ∧ s.flag (.lnk 0) LNK.CTRL_ENABLE = true ∧ wHits (wr 3) LNK.CTRL_ADMIT = true ∧
      wHits (wr 3) LNK.CTRL_ENABLE = true ∧ s.portState 0 = portLocked ∧ s.sch.regime ≠ .timed ∧ (timed s).sch.regime = .timed := by decide +kernel
theorem test_hall_id_write : (up []).reaches .swx = true ∧ (up []).locked = false ∧ (wr 0xFFFF).half ≠ .high := by decide +kernel
theorem test_peer_message : (port portAdmitted []).portUp 0 = true := by decide +kernel

/-! Banks and the cooperage. -/

/-- Banks of tile 0: 0 ON, 1 in RETENTION, 2 OFF, in a zone at OP0. -/
def banked (lock : Nat) : State := up [(.tspd 0, TSPD.BANK_STATE, 0x24), (.zn 0, ZN.STATUS_OP, 0), (.sch, SCH.STATUS_LOCKED, lock)]

theorem test_bank_states : (banked 0).reaches (.tspd 0) = true ∧ (banked 0).locked = false ∧
    (∀ b : Fin 3, (banked 0).bankTr 0 b.val = none ∧ (banked 0).bankState 0 b.val = b.val) ∧
    (banked 0).fld (.zn (zoneOf 0)) ZN.STATUS_OP < 3 := by decide +kernel
theorem test_bank_done : let s : State := { banked 0 with tiles := { Tiles.initial with banks := [(2, some ⟨bankOn, 400, 900, true⟩)] } }
    s.bankTr 0 2 = some ⟨bankOn, 400, 900, true⟩ ∧ bankOn < 4 ∧ smGet false s.tiles.bankWait (bankKey 0 2) = false ∧ s.due = [] := by decide +kernel
theorem test_bank_waits_for_its_zone : let s := up [(.tspd 0, TSPD.BANK_STATE, 0x24), (.zn (zoneOf 0), ZN.STATUS_OP, 3)]
    s.reaches (.tspd 0) = true ∧ s.locked = false ∧ s.bankTr 0 1 = none ∧ s.bankState 0 1 = bankRetention ∧
      s.fld (.zn (zoneOf 0)) ZN.STATUS_OP = 3 ∧ bankRetention < 3 ∧ bankOn ≠ bankRetention := by decide +kernel
theorem test_bank_in_transition : let s : State := { banked 0 with tiles := { Tiles.initial with banks := [(2, some ⟨bankOn, 400, 900, true⟩)] } }
    s.reaches (.tspd 0) = true ∧ s.locked = false ∧ (s.bankTr 0 2).isSome = true := by decide +kernel
theorem test_bank_wakes_after_reset : let s : State := { State.reset with tiles := { Tiles.initial with readyAt := some 400 } }
    s.bankTr 127 15 = none ∧ s.bankState 127 15 = bankWaking ∧ s.fld (.zn (zoneOf 127)) ZN.STATUS_OP ≠ 3 ∧
      (s.wakeAt (zoneOf 127) (s.fld (.zn (zoneOf 127)) ZN.STATUS_OP)).isSome = true ∧
      smGet false s.tiles.bankWait (bankKey 127 15) = false := by decide +kernel
theorem test_bank_locked : (banked 1).reaches (.tspd 0) = true ∧ (banked 1).locked = true := by decide +kernel

/-- A pool of two 1 KiB buffers from ID 256, and what stands in the first. -/
def pooled (named : Bool) (b : Buf) : State :=
  let s := sched schRunning []
  { s with coop := { Coop.initial with
      pools := [(0, some ⟨true, named, false, 0, 256, 0, 8192, [2, 0, 0, 0, 0, 0]⟩)]
      bufs := if b.live then [(256, b)] else [] } }

theorem test_alloc : let s := pooled false ⟨true, 3, 0, 0⟩
    let r : AllocReq := ⟨0x05, 0, 1024, 3⟩
    s.running = true ∧ s.coop.due = [] ∧ s.coop.waiting = [] ∧ s.coopCycle.coop.accepted < 8 ∧ reqBad (s.coopCycle.pool r.pool.val) r.size r.init = false ∧
      (s.coopCycle.pool 0).isSome = true ∧
      (∀ q, s.coopCycle.pool 0 = some q → s.coopCycle.search q 6 (classFor r.size) 0 = (some 257, 0)) := by
  refine ⟨by decide +kernel, rfl, rfl, by decide +kernel, by decide +kernel, by decide +kernel, fun q h => ?_⟩
  cases h
  decide +kernel
theorem test_alloc_bad : reqBad ((pooled false .initial).coopCycle.pool 15) 1024 3 = true ∧
    (pooled false .initial).coopCycle.coop.accepted < 8 := by decide +kernel
/-- With both buffers of the pool live a request finds none; and a cycle that has taken eight takes no ninth. -/
theorem test_alloc_finds_none : let s0 := pooled false ⟨true, 3, 0, 0⟩
    let s : State := { s0 with coop := { s0.coop with bufs := [(256, ⟨true, 3, 0, 0⟩), (257, ⟨true, 1, 0, 0⟩)] } }
    s.running = true ∧ s.coop.due = [] ∧ s.coop.waiting = [] ∧ s.coopCycle.coop.accepted < 8 ∧
      ((s.coopCycle.pool 0).map fun q => s.coopCycle.search q 6 (classFor 1024) 0) = some (none, 5) := by decide +kernel
theorem test_alloc_port_is_full : let s0 := pooled false .initial
    let s : State := { s0 with coop := { s0.coop with accepted := 8, releases := 8 } }
    s.running = true ∧ s.coop.due = [] ∧ 8 ≤ s.coopCycle.coop.accepted ∧ 8 ≤ s.coopCycle.coop.releases := by decide +kernel
theorem test_alloc_complete : takeFirst AllocRes.at_ [⟨30, 1, none⟩, ⟨28, 2, some 5⟩] = some (⟨28, 2, some 5⟩, [⟨30, 1, none⟩]) := by decide
theorem test_releases : ∀ s ∈ [pooled false .initial, pooled true ⟨true, 0, 5, 0⟩, pooled false ⟨true, 3, 0, 0⟩, pooled false ⟨true, 1, 0, 0⟩],
    s.running = true ∧ s.coop.due = [] ∧ s.coopCycle.coop.releases < 8 ∧ (s.poolOf 256).isSome = true := by decide +kernel
theorem test_release_cases : ((pooled false .initial).buf 256).live = false ∧
    ((pooled true ⟨true, 0, 5, 0⟩).buf 256).owner = 5 ∧ ((pooled true ⟨true, 0, 5, 0⟩).buf 256).live = true ∧
    1 < ((pooled false ⟨true, 3, 0, 0⟩).buf 256).count ∧ ((pooled false ⟨true, 1, 0, 0⟩).buf 256).count ≤ 1 ∧
    (((pooled true ⟨true, 0, 5, 0⟩).poolOf 256).map fun p => p.2.named) = some true := by decide +kernel
/-- Nine releases that units have sent for one cycle that has come: eight act, the ninth is over the limit (R201). -/
theorem test_due_releases : let s0 := pooled false ⟨true, 9, 0, 0⟩
    let s : State := { s0 with coop := { s0.coop with due := (List.range 9).map fun i => ⟨s0.clk.phase, BitVec.ofNat 16 (16 * i + 5), .release 256⟩ } }
    (s.coopNow.buf 256).count = 1 ∧ s.coopNow.fld .coop COOP.PORT_LIMIT_CNT = 1 ∧ s.coopNow.coop.due = [] := by decide +kernel

/-! The lauter engine. -/

/-- A lauter program with a layer, its own member, an intake and a descriptor. -/
def lautered : State :=
  let s := timed (sched schRunning [(.swx, SWX.HALL_ID_VALID, 1)])
  { s with
    fronts := [(ltrFront, { Front.initial with len := 100, ended := false, usable := [(0, 0)] })]
    ltr := { Lauter.initial with tab :=
      [(ltrKey .layer 0, BitVec.ofNat 256 (2 ^ 6 + 64 * 2 ^ 10 + 256 * 2 ^ 25 + 64 * 2 ^ 40)), (ltrKey .member 0, BitVec.ofNat 256 (2 ^ 112)),
       (ltrKey .receive 0, BitVec.ofNat 256 (2 ^ 16 + 4096 * 2 ^ 64)),
       (ltrKey .desc 0, BitVec.ofNat 256 (2 ^ 8 + 4096 * 2 ^ 128 + 64 * 2 ^ 160 + 8192 * 2 ^ 192))] } }

theorem test_lauter_clean : lautered.ltrClean .dispatch (word .ltr 0 0 id).word = true ∧
    lautered.ltrClean .return_ (word .ltr 0 1 id).word = true ∧ lautered.ltrClean .gradOut (word .ltr 0 2 id).word = true ∧
    lautered.ltrClean .gradReturn (word .ltr 0 3 id).word = true := by decide +kernel

/-- A choice of channel 7. -/
def aChoice : Choice := ⟨7, 0, 0, 0, 0, false, 0, 64, false, none⟩
def choosing : State := { lautered with ltr := { lautered.ltr with outQ := [aChoice] } }

theorem test_choice_departs : choosing.sch.regime = .timed ∧ choosing.ltr.outQ.find? (fun c => c.channel = 7) = some aChoice ∧
    aChoice.releaseId = none := by decide +kernel
theorem test_run_short : choosing.sch.regime = .timed ∧ choosing.runAhead 7 = false := by decide +kernel
theorem test_choice_without_room : aChoice.part < partCount aChoice.len ∧ aChoice.part + 1 = partCount aChoice.len ∧
    (choosing.advanceTo (aChoice.readyAt - choosing.entryLead centralEntry)).departPart aChoice [] = none := by decide +kernel

/-- A whole message of a phase that has reached the lauter engine. -/
def phaseMsg (n : Nat) : Msg := ⟨.lauter 0, 0, 7, 0, BitVec.ofNat 480 (n * 2 ^ 22 * 2 ^ 160), [], false⟩

/-- Whether the engine takes that message, and no other phase's row does. -/
def takesPhase (n : Nat) (p : Nat → Bool) : Bool :=
  let s := ({ lautered with fab := { Fabric.initial with arrived := [phaseMsg n] } } : State).settle 0
  s.sch.regime = .timed && s.firstLauter p = some (phaseMsg n)

theorem test_lauter_arrivals : ∀ n ∈ [0, 1, 2, 3], takesPhase n (fun p => p = n || (n ≠ 0 && n ≠ 2 && (p = 1 || p = 3))) = true := by
  decide +kernel

theorem test_quota_swap : (up []).reaches .ltr = true ∧ (wr 1).val.toNat = 1 ∧
    (up [(.ltr, LTR.STATUS_SWAP_PEND, 1)]).flag .ltr LTR.STATUS_SWAP_PEND = true ∧
    (up [(.ltr, LTR.STATUS_SWAP_PEND, 1)]).quotaCheck .quota = none := by decide +kernel
theorem test_quota_fails : let s : State := { up [(.ltr, LTR.STATUS_SWAP_PEND, 1)] with ltr := { Lauter.initial with
      tab := [(ltrKey .expert 0, 0x80), (ltrKey .quota 0, 5)] } }
    s.quotaCheck .quota = some ⟨0, 0, 0, 5⟩ := by decide +kernel
theorem test_quota_write : let s := up [(.ltr, LTR.TAB_SEL_TABLE, 3), (.ltr, LTR.TAB_SEL_INDEX, 1023)]
    s.reaches .ltr = true ∧ s.fld .ltr LTR.TAB_SEL_TABLE = 3 ∧ s.fld .ltr LTR.TAB_SEL_INDEX < 1024 := by decide +kernel

/-! Kilns and racks. -/

/-- A kiln with a dense shard of tensor 7 and a record at its hand-off port. -/
def kilned (x : CtrlWrite) (handed : SMap (Option Handed)) : State :=
  let s := timed (sched schRunning [(.glb, GLB.FEAT_ACTIVE, 0xFFFF)])
  { s with
    kln := { Kilns.initial with ctrlQ := [x], handed := handed, shard := [(7, BitVec.ofNat 512 (1 + fBF16 * 2 ^ 16 + 512 * 2 ^ 32))] }
    fronts := [(512, { Front.initial with len := 100, ended := false, usable := [(0, 0)] })]
    rack := { Racks.initial with tab := [(0, 1 + 7 * 2 ^ 16)] }
    sch := { s.sch with valid := some true } }

theorem test_bad_control_write : (kilned ⟨0, 16, 16, 0, false, 0⟩ []).kln.ctrlQ.find? (fun x => x.k = 0) = some ⟨0, 16, 16, 0, false, 0⟩ ∧
    (16 : Nat) ≠ 0 := by decide +kernel
theorem test_handoff_refused : (kilned ⟨0, 0, 16, 0, false, 0⟩ []).handDecide 0 0 false = some .bad := by decide +kernel
theorem test_handoff_taken : (kilned ⟨0, 0, 16, 0x1007, false, 0⟩ []).handDecide 0 0x1007 false = none := by decide +kernel
/-- UPDATE of tensor 7, and a kiln with a hand-off of an epoch for it. -/
def anUpdate : Issue := (word .kln 0 0 (fun w => { w with epoch := true, arg1 := 7 })).word
def handedOff (e : BitVec 16) : State := kilned ⟨0, 0, 16, 0, false, 0⟩ [(7, some ⟨1, 0, false, e⟩)]
def updating (s : State) : Bool := s.uClean 0 (updateJob 0 anUpdate [] s) anUpdate

theorem test_update_clean : updating (kilned ⟨0, 0, 16, 0, false, 0⟩ []) = true ∧
    smGet none (kilned ⟨0, 0, 16, 0, false, 0⟩ []).kln.handed (klnKey 0 7) = none := by decide +kernel
theorem test_update_with_gradient : updating (handedOff 0) = true ∧ shValid ((handedOff 0).shard 0 7) = true ∧
    (smGet none (handedOff 0).kln.handed (klnKey 0 7)).map Handed.epoch = some 0 ∧ (handedOff 0).epochOf 7 = 0 := by decide +kernel
theorem test_update_of_stale_gradient : updating (handedOff 3) = true ∧ shValid ((handedOff 3).shard 0 7) = true ∧
    (smGet none (handedOff 3).kln.handed (klnKey 0 7)).map Handed.epoch = some 3 ∧ (handedOff 3).epochOf 7 = 0 := by decide +kernel
theorem test_untimed_update : let s := untimed (handedOff 0)
    updating { s with sch := { s.sch with uStarted := true } } = true := by decide +kernel
theorem test_kiln_elements : (⟨0x7F80_0000, 0, 0⟩ : KElem).finite true = false ∧ (⟨0x3F80_0000, 0, 0⟩ : KElem).finite false = true ∧
    (Fp.nan).isFin = false ∧
    (kElem true ⟨.fin false 1 127, fpZero, fpZero, fpZero⟩ ⟨0xFF7F_FFFF, 0, 0⟩ fpOne).ovf = true := by decide +kernel

/-- A BF16 shard of 512 elements with its five regions. -/
def aShard : Nat := 1 + 2 ^ 4 + fBF16 * 2 ^ 16 + 512 * 2 ^ 32 + 4096 * 2 ^ 164 + 8192 * 2 ^ 200 + 12288 * 2 ^ 236 + 16384 * 2 ^ 272

theorem test_shard_writes : let s := up [(.kln 0, KLN.TAB_SEL_TABLE, 0), (.kln 0, KLN.TAB_SEL_INDEX, 4095)]
    s.reaches (.kln 0) = true ∧ s.locked = false ∧ s.fld (.kln 0) KLN.TAB_SEL_TABLE = 0 ∧ s.shardCheck 0 4095 aShard = 0 ∧
      (up [(.kln 0, KLN.TAB_DATA 0, 1)]).shardCheck 0 0 1 ≠ 0 ∧
      (up [(.sch, SCH.STATUS_LOCKED, 1)]).locked = true ∧ (wr 0).half ≠ .low := by decide +kernel
theorem test_hyper_write : (up [(.kln 7, KLN.TAB_SEL_TABLE, 1)]).fld (.kln 7) KLN.TAB_SEL_TABLE = 1 ∧ (up []).reaches (.kln 7) = true := by
  decide +kernel

/-- A kiln whose tensor 0 has hyperparameters, with a swap asked for. -/
def swapping (eta : BitVec 128) : State :=
  { up [(.kln 0, KLN.STATUS_SWAP_PEND, 1)] with kln := { Kilns.initial with shard := [(0, 1)], hyper := [(0, eta)] } }

theorem test_hyper_swap : (swapping 0).flag (.kln 0) KLN.STATUS_SWAP_PEND = true ∧
    (∀ e ∈ (swapping 0).kln.shard, smGet 0 (swapping 0).kln.shard e.1 = e.2) ∧
    hyperCheck (smGet 0 (swapping 0).kln.hyper (klnKey 0 0)) = 0 ∧ hyperCheck 0 = 0 ∧
    ∀ t, t ≠ 0 → smGet 0 (swapping 0).kln.hyper (klnKey 0 t) = 0 := by
  refine ⟨by decide +kernel, by decide +kernel, by decide +kernel, by decide +kernel, fun t h => ?_⟩
  exact if_neg (by simpa [klnKey] using h)
theorem test_hyper_refused : shValid ((swapping 0xBF80_0000).shard 0 0) = true ∧
    hyperCheck (smGet 0 (swapping 0xBF80_0000).kln.hyper (klnKey 0 0)) ≠ 0 := by decide +kernel

/-- A rack entry of tensor 7 at controller 0, open or not. -/
def racked (isOpen : Bool) (drain : Nat) : State :=
  let s := kilned ⟨0, 0, 16, 0, false, 0⟩ []
  { s with rack := { s.rack with drain := [(7, drain)], open_ := if isOpen then [(0, ⟨true, false, 0⟩)] else [] } }

/-- The three instructions of the rack as U jobs. -/
def openJob (s : State) (w : Issue) : UJob :=
  let v := s.rackEntry 0 w.arg0.toNat
  ⟨.rack, 0, s.rackWordBad w || !w.epoch || w.arg2 != 0 || !rkValid v || w.arg1.toNat ≠ rkTensor v, [], rackOpenIssue 0 w⟩
def sendJob (s : State) (w : Issue) : UJob := ⟨.rack, 1, s.rackWordBad w || w.epoch || w.arg1 != 0 || w.arg2 = 0, [], rackSendIssue 0 w []⟩
def closeJob (s : State) (w : Issue) : UJob := ⟨.rack, 2, s.rackWordBad w || w.epoch || w.arg1 != 0 || w.arg2 != 0, [], rackCloseIssue 0 w⟩

theorem test_rack_open_clean : let w := (word .rack 0 0 (fun w => { w with epoch := true, arg1 := 7 })).word
    ∀ d ∈ [0, 100], let s := racked false d
      s.uClean 0 (openJob s w) w = true ∧
        (s.advanceTo (s.uTime 0 .rack w)).fenceHolds 7 w (s.uTime 0 .rack w) = (d = 0 : Bool) := by decide +kernel
theorem test_rack_send_clean : let w := (word .rack 0 1 (fun w => { w with arg2 := 3 })).word
    ∀ o ∈ [false, true], (racked o 0).uClean 0 (sendJob (racked o 0) w) w = true ∧ ((racked o 0).rackOpen 0 0).acts = o := by
  decide +kernel
theorem test_rack_close_clean : let w := (word .rack 0 2 id).word
    ∀ o ∈ [false, true], (racked o 0).uClean 0 (closeJob (racked o 0) w) w = true ∧ ((racked o 0).rackOpen 0 0).acts = o := by
  decide +kernel

theorem test_rack_chunk_departs : ∀ r ∈ [Regime.untimed, .timed], let p : RackPart := ⟨0, 0, 9, 0, 0, [1, 2], false⟩
    let s0 := sched schRunning []
    let s : State := { s0 with
      sch := { s0.sch with regime := r }
      rack := { Racks.initial with queue := [p] } }
    s.sch.regime = r ∧ s.rack.queue.find? (fun p => p.entry / 64 = (0 : Fin 8).val && p.channel = 9) = some p := by decide +kernel
theorem test_rack_part_arrives : let m : Msg := ⟨.rack, 0, 9, 0, 0, [], false⟩
    let s : State := { timed (sched schRunning []) with fab := { Fabric.initial with arrived := [m] } }
    (s.settle s.clk.phase).fab.arrived.find? (fun m => m.sink = .rack) = some m ∧
      (s.settle s.clk.phase).openEntry (bitsOf m.data 14 12) (m.data % 4096) = none := by decide +kernel
theorem test_rack_entries : let s := up [(.rack, RACK.TAB_SEL_TABLE, 1), (.rack, RACK.TAB_SEL_INDEX, 63), (.rack, RACK.TAB_SEL_CTRL, 7)]
    s.reaches .rack = true ∧ s.locked = false ∧ s.fld .rack RACK.TAB_SEL_TABLE = 1 ∧ s.fld .rack RACK.TAB_SEL_INDEX < 64 ∧
      rackReject s.racking 0 (s.shard 7 0) = false ∧ rackReject s.racking 8 (s.shard 7 0) = true := by decide +kernel


/-! The host. -/

/-- The controllers serve and nothing waits for them. -/
def idleHbm : State := up ((List.finRange 8).map fun k => (.mem k, MEM.STATUS_STATE, memReady))

theorem test_bar2_window : (up []).bar2Open = true ∧ (2 ^ 30 - 3 : BitVec 36).toNat + [1, 2, 3].length ≤ (up []).bar2Size ∧
    (∀ i, i < [1, 2, 3].length → (interGran ((up []).bar2Addr (2 ^ 30 - 3) + i)).isSome = true) ∧
    (up []).mem.wbuf.length + 3 ≤ 262144 ∧ (timed (up [])).sch.regime = .timed ∧ (timed (up [])).bar2Open = true := by decide +kernel
theorem test_bar2_read_ready : idleHbm.bar2Open = true ∧ (∀ k : Fin 8, idleHbm.memServes k.val = true) ∧ idleHbm.mem.reads = [] ∧
    idleHbm.mem.wbuf = [] ∧ idleHbm.host.lq = [] ∧ idleHbm.sch.regime ≠ .timed ∧
    (∀ i, i < 4 → (interGran (idleHbm.bar2Addr 0 + i)).isSome = true) ∧
    (∀ i, i < 4 → idleHbm.granPoison .inter (idleHbm.bar2Addr 0 + i) = false) := by decide +kernel
theorem test_zhexal_runs : (up []).zhexalRuns = true ∧ (tst [(.bst, BST.STATUS_STAGE, 2)]).zhexalRuns = true ∧
    (tst [(.bst, BST.STATUS_STAGE, 7)]).zhexalRuns = true ∧ State.reset.zhexalRuns = false ∧
    (tst [(.bst, BST.STATUS_STAGE, 8)]).zhexalRuns = false := by decide
theorem test_in_d0 : State.reset.host.d3hot = false := rfl

/-- Queue 15 of eight entries each way, on, with one entry submitted. -/
def queued (tail : Nat) (l : Lq) : State :=
  let s := up [(.hif, HIF.LQ_CTRL_ENABLE 15, 1), (.hif, HIF.LQ_CTRL_SQ_LOG 15, 3), (.hif, HIF.LQ_CTRL_CQ_LOG 15, 3),
    (.hif, HIF.STATUS_LQ_ACTIVE, 2 ^ 15), (.hif, HIF.LQ_SQ_TAIL 15, tail)]
  s.setQueue 15 l

/-- An entry that asks for three bytes. -/
def entry3 : BitVec 256 := BitVec.ofNat 256 (3 * 2 ^ 128 + 7 * 2 ^ 160)

theorem test_doorbells : (queued 0 Lq.initial).reaches .hif = true ∧ (queued 0 Lq.initial).settleQueue 15 = queued 0 Lq.initial ∧
    wData (wr 7) % 2 ^ 16 < (queued 0 Lq.initial).sqSize 15 ∧ (queued 0 Lq.initial).sqSize 15 ≤ wData (wr 8) % 2 ^ 16 ∧
    wData (wr 7) % 2 ^ 16 < (queued 0 Lq.initial).cqSize 15 ∧ (queued 0 Lq.initial).cqSize 15 ≤ wData (wr 8) % 2 ^ 16 ∧
    (queued 0 Lq.initial).clk.stopped = false ∧ (queued 0 Lq.initial).clk.ht.toNat < 2 ^ 79 := by decide +kernel
theorem test_queue_goes_on : (up []).reaches .hif = true ∧ (up []).settleQueue 0 = up [] ∧
    (up []).flag .hif (HIF.LQ_CTRL_ENABLE 0) = false ∧
    ((up []).store .hif (HIF.LQ_CTRL_ENABLE 0).off (wr (2 ^ (HIF.LQ_CTRL_ENABLE 0).lo))).flag .hif (HIF.LQ_CTRL_ENABLE 0) = true := by
  decide +kernel
theorem test_queue_goes_off : (queued 0 Lq.initial).flag .hif (HIF.LQ_CTRL_ENABLE 15) = true ∧
    ((queued 0 Lq.initial).store .hif (HIF.LQ_CTRL_ENABLE 15).off (wr 0)).flag .hif (HIF.LQ_CTRL_ENABLE 15) = false := by
  decide +kernel
theorem test_descriptor_ready : let s := timed (queued 1 Lq.initial)
    s.stage = stageReady ∧ s.settleQueue 15 = s ∧ s.queueReady 15 = true ∧ s.sch.regime = .timed ∧
      [1, 2, 3].length = deLen entry3.toNat ∧ descStatus (s.queue 15).aborting entry3.toNat = lqOk := by decide +kernel
theorem test_descriptor_overdue : let s := queued 1 { Lq.initial with inFlight := some entry3, reading := true }
    (s.queue 15).inFlight.isSome = true ∧ (s.queue 15).reading = true := by decide +kernel
theorem test_descriptor_visible : let s := queued 1 { Lq.initial with inFlight := some entry3 }
    s.settleQueue 15 = s ∧ (s.queue 15).inFlight = some entry3 ∧ (s.queue 15).reading = false ∧ (s.queue 15).todo = [] ∧
      (s.queue 15).status = lqOk ∧ deNeedBy entry3.toNat = 0 ∧ deIrq entry3.toNat = false := by decide +kernel

theorem test_accept_open : (up []).reaches .glb = true ∧ (wr 0xFFFF).half ≠ .high ∧ (up []).flag .hif HIF.STATUS_CLOSED = false ∧
    wHits (wr (2 ^ GLB.FEAT_CLOSE.lo)) GLB.FEAT_CLOSE = true ∧ (up []).stage = stageReady := by decide
theorem test_accept_closed : (up [(.hif, HIF.STATUS_CLOSED, 1)]).flag .hif HIF.STATUS_CLOSED = true ∧
    (up [(.hif, HIF.STATUS_CLOSED, 1)]).reaches .glb = true := by decide
theorem test_offer_of_a_failed_block : let s := tst [(.bst, BST.STATUS_FAILED, 1)]
    s.flag .bst BST.STATUS_FAILED = true ∧ s.ownerOn = false ∧ s.signedForced = false := by decide
theorem test_worked_negotiation : let s : State := { tst [(.glb, GLB.FEAT_OFFER, 0xDFFE), (.glb, GLB.FEAT_ACCEPT, 0xC7F3)] with
      host := { HostIf.initial with cfg := ⟨false, false, false, true⟩ } }
    s.fld .glb GLB.FEAT_OFFER = 0xDFFE ∧ s.fld .glb GLB.FEAT_ACCEPT = 0xC7F3 ∧ s.host.cfg.ptmEnable = true ∧
      s.signedForced = false := by decide +kernel

/-! Supply, temperature, zones. -/

theorem test_input_within : 3900 ≤ (3900 : BitVec 16).toNat ∧ (5800 : BitVec 16).toNat ≤ 5800 ∧ (6300 : BitVec 16).toNat ≤ 6300 ∧
    (up []).flag .pwr PWR.STATUS_UV_WARN = false ∧ (up []).flag .pwr PWR.STATUS_OV_WARN = false := by decide
theorem test_input_lost : (3499 : BitVec 16).toNat < 3500 ∧ (up []).stopped = false := by decide
theorem test_restart_due : let s : State := { up [] with
      clk := ⟨400000000, 0, false⟩
      pwr := { Power.initial with down := true, goodSince := some 0 } }
    s.pwr.down = true ∧ s.pwr.goodSince = some 0 ∧ 0 + 400000000 ≤ s.clk.phase ∧ s.pwr.lost = false ∧
      ({ s with pwr := { s.pwr with lost := true } } : State).pwr.lost = true := by decide
theorem test_peer_fault : stageFirmware ≤ (up []).stage ∧ (up []).stage < stageRecovery ∧
    (up []).flag .bst BST.PEER_FAULT_VALID = false ∧ (up [(.bst, BST.PEER_FAULT_VALID, 1)]).flag .bst BST.PEER_FAULT_VALID = true ∧
    stageFirmware ≤ (tst [(.bst, BST.STATUS_STAGE, 2)]).stage ∧ (tst [(.bst, BST.STATUS_STAGE, 7)]).stage < stageRecovery := by decide
theorem test_sensors_in_range : (List.replicate 64 (1759 : Int)).length = 64 ∧ (List.replicate 8 (1599 : Int)).length = 8 ∧
    (∀ x ∈ List.replicate 64 (1759 : Int), -640 ≤ x ∧ x < 1760) ∧ (∀ x ∈ List.replicate 8 (1599 : Int), -640 ≤ x ∧ x < 1600) ∧
    (up []).flag .thm THM.STATUS_HOT = false := by decide +kernel
theorem test_rails_in_range : (List.replicate 8 (2 ^ 16 - 1)).length = 8 ∧ (∀ x ∈ List.replicate 8 (2 ^ 16 - 1), x < 2 ^ 16) ∧
    ∀ z : Fin 8, (List.replicate 8 1).getD z.val 0 ≤ 2 * peakLimit ((up []).zoneOp z.val) ∧
      (List.replicate 8 1).getD z.val 0 < 2 ^ 16 := by decide +kernel
theorem test_limit_clears : let s : State := { up [(.zn 7, ZN.STATUS_LIMIT, 1)] with clk := ⟨4000000, 0, false⟩ }
    s.flag (.zn 7) ZN.STATUS_LIMIT = true ∧ smGet 0 s.pwr.limitAt 7 + 4000000 ≤ s.clk.phase := by decide
theorem test_coolant : let s : State := { up [] with
      clk := ⟨4000000000, 0, false⟩
      pwr := { Power.initial with coolHotFrom := some 0 } }
    s.pwr.coolHotFrom = some 0 ∧ 0 + 4000000000 ≤ s.clk.phase ∧ s.flag .thm THM.STATUS_COOLANT_HIGH = false := by decide

/-- Every zone at a point, with the same request. -/
def zonesAt (op : Nat) (fs : List (Page × Fld × Nat)) : State :=
  up (((List.finRange 8).flatMap fun z => [(Page.zn z, ZN.STATUS_OP, op), (Page.zn z, ZN.CTRL_OP_REQ, op)]) ++ fs)

/-- Whether a request of a zone breaks adjacency (R362). -/
def breaks (s : State) (z : Nat) (v : Nat) : Bool :=
  let req := fun (k : Nat) => if k = z then v else s.fld (znPage k) ZN.CTRL_OP_REQ
  zonePairs.any fun q => (q.1 = z || q.2 = z) && !(req q.1 ≤ req q.2 + 1 && req q.2 ≤ req q.1 + 1)

theorem test_requests : (zonesAt 1 []).reaches (.zn 0) = true ∧ (zonesAt 1 []).locked = false ∧ (wr 3).half = .whole ∧
    (wr 3).val.toNat < 4 ∧ breaks (zonesAt 1 []) 0 3 = true ∧ breaks (zonesAt 1 []) 0 0 = false ∧ (zonesAt 1 []).sch.img = none := by
  decide +kernel
theorem test_zones_move : let s : State := { zonesAt 1 [(.zn 2, ZN.STATUS_TRANS, 1)] with
      pwr := { Power.initial with zoneTarget := [(2, 2)] } }
    s.sch.regime = .none ∧ s.zonesMoving = true ∧ s.flag (.zn 2) ZN.STATUS_TRANS = true ∧ s.flag (.zn 3) ZN.STATUS_TRANS = false ∧
      s.zoneOp 2 < smGet 0 s.pwr.zoneTarget 2 ∧ smGet 0 s.pwr.zoneTarget 2 < 4 := by decide +kernel
theorem test_zones_move_down : let s : State := zonesAt 1 [(.zn 2, ZN.STATUS_TRANS, 1)]
    s.sch.regime = .none ∧ s.zonesMoving = true ∧ s.flag (.zn 2) ZN.STATUS_TRANS = true ∧
      smGet 0 s.pwr.zoneTarget 2 < s.zoneOp 2 := by decide +kernel
theorem test_descent : let s : State := { up [(.zn 7, ZN.STATUS_BALLAST, 15)] with pwr := { Power.initial with descentAt := some 40 } }
    s.pwr.descentAt = some 40 ∧ s.descentNext s.pwr.descentZone = some 7 := by decide +kernel
theorem test_energy_window : (up []).running = true := by decide

/-! PMBus. -/

/-- The PMBus on a page. -/
def paged (p : BitVec 8) : State := { up [] with pins := { Pins.initial with pmbusPage := p } }

theorem test_pmbus_pages : (up []).deaf = false ∧ (9 : BitVec 8).toNat ≤ 9 ∧ 9 < (10 : BitVec 8).toNat ∧ (up []).pins.pmbusPage = 0 ∧
    (up []).fld .pwr PWR.VIN ≤ 6553 ∧ (paged 1).pins.pmbusPage.toNat = (0 : Fin 8).val + 1 ∧ (paged 1).deaf = false ∧
    (paged 8).pins.pmbusPage.toNat = (7 : Fin 8).val + 1 := by decide

/-! Security and attestation. -/

theorem test_sec_commands : (up []).reaches .sec = true ∧ (wr 1).half = .whole ∧ (wr 1).val.toNat = 1 ∧ (wr 2).val.toNat = 2 ∧
    (wr 4).val.toNat = 4 ∧ [schArmed, schRunning, schVerdict, schCommit].contains (up []).schState = false ∧
    (up []).stage ≠ stageRecovery ∧ (tst [(.bst, BST.STATUS_STAGE, 8)]).stage = stageRecovery ∧
    (tst [(.bst, BST.STATUS_STAGE, 8)]).reaches .sec = true := by decide
theorem test_sec_busy : [schArmed, schRunning, schVerdict, schCommit].contains (sched schCommit []).schState = true ∧
    (sched schCommit []).reaches .sec = true := by decide
/-- HBM holds no token at reset. -/
theorem test_token_refused : let s := up []
    let r := (s.store .sec 0x010 (wr 1)).readMem false 0 .inter [] s.tokenAddr (tokenLen + sigLen)
    (leNat (r.1.data.take tokenLen)) % 2 ^ 32 ≠ tokenMagic := by decide +kernel
theorem test_token_without_magic (s : State) (v : Nat) (body block : List Byte) (h : v % 2 ^ 32 ≠ tokenMagic) :
    s.tokenOk v body block = false := by
  simp only [State.tokenOk, decide_eq_false h, Bool.false_and]
/-- A token that the signer of its transition has signed is accepted: whether a signature verifies no kernel can show (log 8). -/
theorem test_token_accepted (v : Nat) (body block : List Byte) (hs : trellekSigned block body = true)
    (hm : v % 2 ^ 32 = tokenMagic) (hz : bitsOf v 63 48 = 0) (hser : bitsOf v 127 64 = Config.serial.toNat)
    (hn : bitsOf v 191 128 = (up []).fld .sec SEC.LC_NONCE) (hk : bitsOf v 39 32 = 1) (hr : bitsOf v 1023 192 = 0)
    (ht : bitsOf v 47 40 = 4) : (up []).tokenOk v body block = true := by
  have hl : (up []).sec.otp.lc = 3 := by decide
  have ho : (up []).sec.otp.ownerValid = false := by decide
  have h2 : (up []).leaveSigned block body = true := by
    simp only [State.leaveSigned, hl, ho]; simpa using hs
  simp only [State.tokenOk, hl, hm, hz, hser, hn, hk, hr, ht, h2]
  rfl
theorem test_tamper_seen : (up []).deaf = false ∧ ∀ c, (up []).detects c = true := by
  refine ⟨by decide, fun c => ?_⟩
  cases c <;> decide
theorem test_tamper_held : (up [(.sec, SEC.STATUS_TAMPER_HOLD, 1)]).flag .sec SEC.STATUS_TAMPER_HOLD = true ∧
    (up [(.sec, SEC.STATUS_TAMPER_HOLD, 1)]).deaf = false := by decide
theorem test_tree_grows : ({ up [] with sec := { Sec.initial with growing := true } } : State).sec.growing = true := rfl
theorem test_leaf : (up []).sec.bonded.leaf = none ∧ (up []).flag .sec SEC.STATUS_LMS_EXHAUSTED = false ∧
    ({ up [] with sec := { Sec.initial with bonded := ⟨0, 0, some ⟨1, [2], []⟩, some 65534⟩ } } : State).sec.bonded.leaf = some 65534 ∧
    (up []).zhexalRuns = true ∧ (65534 : Nat) + 1 < 65536 ∧ 65536 ≤ (65535 : Nat) + 1 ∧ Otp.initial.lms1 ≠ 4096 := by decide
theorem test_handle_kept : ([((5 : BitVec 128), ([1] : List Byte))].find? fun x => x.1 = 5) = some (5, [1]) := by decide
theorem test_part_of_a_chain : (0 : BitVec 16).toNat + (0 : BitVec 16).toNat ≤ (up []).chain.length := Nat.zero_le _

/-! Resets and start-up. -/

/-- A module past its power-on reset. -/
def settled (fs : List (Page × Fld × Nat)) : State := { up fs with boot := { Boot.initial with powerStart := false } }

theorem test_reset_taken : (settled []).powerOning = false ∧ (up []).powerOning = false ∧ State.reset.powerOning = true ∧
    ({ up [] with boot := { Boot.initial with perst := true } } : State).boot.perst = true ∧ (up []).answers .glb = true ∧
    (up []).deaf = false ∧ wHits (wr 1) COM.CNT_CLR = false ∧ wHits (wr 1) GLB.CTRL_MODULE_RESET = true ∧
    (up []).stage = stageReady ∧ (wr 2).val.toNat = 2 ∧ (wr 4).val.toNat = 4 ∧ (up []).sch.regime = .none := by decide
theorem test_resets_end : let s : State := { up [(.mem 0, MEM.STATUS_STATE, memSelfRefresh)] with
      boot := { Boot.initial with coreBusy := true, fabricBusy := true } }
    s.boot.coreBusy = true ∧ s.boot.fabricBusy = true ∧ s.fld (.mem 0) MEM.STATUS_STATE = memSelfRefresh := by decide

/-- A stage of start-up. -/
def at_ (stage : Nat) : State := tst [(.bst, BST.STATUS_STAGE, stage)]

theorem test_start_not_held : State.reset.stage = stageAux ∧ State.reset.startHeld = false := by decide
theorem slot_of_a_scrapped_module (s : State) (k : Nat) (h : s.sec.otp.lc = lcScrapped) : s.slotOk k = false := by
  simp only [State.slotOk, h, Nat.lt_irrefl, decide_false, Bool.false_and]
theorem test_slot_fails : let s : State := { at_ stageRom with sec := { Sec.initial with otp := { Otp.initial with lcPairs := 0x3FF } } }
    s.stage = stageRom ∧ s.slotOk s.boot.trySlot = false ∧ s.boot.trySlot = 0 ∧
      ({ s with boot := { s.boot with trySlot := 1 } } : State).slotOk 1 = false := by
  exact ⟨by decide, slot_of_a_scrapped_module _ _ (by decide), by decide, slot_of_a_scrapped_module _ _ (by decide)⟩
/-- A slot passes where both its images verify: whether they do no kernel can show (log 8). -/
theorem test_slot_passes (h : (at_ stageRom).firmwareOk 1 (slotBase 0) = true)
    (hz : (at_ stageRom).firmwareOk 2 ((at_ stageRom).zhexalAt 0) = true) :
    (at_ stageRom).stage = stageRom ∧ (at_ stageRom).slotOk (at_ stageRom).boot.trySlot = true ∧ (at_ stageRom).boot.trySlot < 2 := by
  refine ⟨by decide, ?_, by decide⟩
  have e : (at_ stageRom).boot.trySlot = 0 := by decide
  have l : (at_ stageRom).sec.otp.lc = 3 := by decide
  simp [State.slotOk, e, h, hz, l, lcScrapped]

/-- A state whose flash holds the record that its shutdown self-test would write. -/
def recorded (s : State) : State := s.flashSet recordAt s.recordBytes

theorem test_record_valid : (recorded (up [])).recordValid = true ∧ (recorded (up [])).stage = stageReady ∧
    (recorded (up [])).reaches .bst = true ∧ (wr 2).val.toNat = 2 :=
  ⟨recordValid_recordBytes _, by decide, by decide, by decide⟩
theorem test_record_spares_the_test : (recorded (at_ stageFirmware)).stage = stageFirmware ∧ (recorded (at_ stageFirmware)).recordValid = true :=
  ⟨by decide, recordValid_recordBytes _⟩
theorem test_record_erased : let s : State := { at_ stageFirmware with sec := { Sec.initial with
      flash := (List.range 4).map fun i => (recordAt + i, 0xFF) } }
    s.stage = stageFirmware ∧ s.recordValid = false ∧ s.sec.bonded.leaf = none ∧ s.sec.otp.lms1 ≠ 4096 ∧
      ({ s with sec := { s.sec with otp := { s.sec.otp with lms1 := 4096 } } } : State).sec.otp.lms1 = 4096 := by decide +kernel
theorem test_blocks : (at_ stageSelftest).stage = stageSelftest ∧ (at_ stageSelftest).boot.nextBlock < 142 ∧
    (141 : Nat) < 142 ∧ (tst [(.mem 7, MEM.STATUS_STATE, memTraining)]).fld (.mem 7) MEM.STATUS_STATE = memTraining := by decide
theorem test_trained : let s : State := { at_ stageTraining with boot := { Boot.initial with trained := List.range 8 } }
    s.stage = stageTraining ∧ s.boot.trained.length = 8 := by decide
theorem test_shutdown : (up []).reaches .bst = true ∧ (up []).stage = stageReady ∧ (wr 1).val.toNat = 1 ∧
    [schEmpty, schLoaded, schHeld].contains (up []).schState = true ∧
    [schEmpty, schLoaded, schHeld].contains (sched schRunning []).schState = false ∧ (sched schRunning []).reaches .bst = true := by decide
theorem test_last_block : let s : State := { at_ stageShutdown with boot := { Boot.initial with nextBlock := 142 } }
    s.stage = stageShutdown ∧ s.boot.nextBlock = 142 := by decide

/-! Further clauses of the statements, each met at a state of its own. -/

/-- A module whose wipe has failed. -/
def deafened : State := up [(.sec, SEC.STATUS_WIPE_FAIL, 1)]

theorem test_deaf : deafened.deaf = true ∧ (up []).deaf = false ∧ (up []).stopped = false := by decide
/-- BAR2 over the last GiB of HBM and a GiB beyond it. -/
def farBar2 : State := up [(.hif, HIF.BAR2_BASE, 383), (.hif, HIF.STATUS_BAR2_SIZE, 1)]
theorem test_bar2_outside : farBar2.bar2Open = true ∧ (2 ^ 30 : BitVec 36).toNat + 4 ≤ farBar2.bar2Size ∧
    (∀ i, i < 4 → interGran (farBar2.bar2Addr (2 ^ 30) + i) = none) ∧ (interGran (farBar2.bar2Addr (2 ^ 30 - 1))).isSome = true ∧
    State.reset.bar2Open = false := by decide +kernel
theorem test_bar2_partly_outside : (([1, 2].zipIdx.map fun (x : Byte × Nat) => (farBar2.bar2Addr (2 ^ 30 - 1) + x.2, x.1)).filter
    fun b => (interGran b.1).isSome).length < [1, 2].length := by decide +kernel
theorem test_queue_high_half : (⟨.high, 0⟩ : RegW).half = .high ∧ (queued 0 Lq.initial).reaches .hif = true := by decide +kernel
theorem test_doorbells_wait : ((queued 0 { Lq.initial with tailAt := some (3, 0), headAt := some (2, 0), offAt := some 0 }).queue 15).tailAt =
      some (3, 0) ∧ ((queued 0 { Lq.initial with headAt := some (2, 0) }).queue 15).headAt = some (2, 0) ∧
    ((queued 0 { Lq.initial with offAt := some 0 }).queue 15).offAt = some 0 := by decide +kernel
theorem test_queue_empty : (queued 0 Lq.initial).stage = stageReady ∧ (queued 0 Lq.initial).queueReady 15 = false ∧
    ((queued 0 Lq.initial).queue 15).inFlight = none ∧ State.reset.stage ≠ stageReady := by decide +kernel
/-- Two queues that read in a timed step: it is the turn of queue 15. -/
def twoReading : State :=
  let s := timed (queued 1 { Lq.initial with inFlight := some entry3, reading := true })
  let s1 := s.setQueue 3 { Lq.initial with inFlight := some entry3, reading := true }
  { s1 with host := { s1.host with lqNext := 15 } }
theorem test_queue_turn : twoReading.settleQueue 15 = twoReading ∧ twoReading.stage = stageReady ∧ twoReading.lqTurn = some 15 ∧
    (twoReading.queue 15).reading = true ∧ (twoReading.queue 3).reading = true ∧ twoReading.sch.regime = .timed ∧
    twoReading.lqTurn ≠ some 3 := by decide +kernel
theorem test_read_times_out : let s := queued 1 { Lq.initial with inFlight := some entry3, reading := true }
    let t := { s with clk := ⟨2 ^ 60, 0, false⟩ }
    (t.queue 15).inFlight.isSome = true ∧ (t.queue 15).reading = true ∧
      (t.queue 15).readAt + t.fld .hif HIF.CPL_TIMEOUT * 4000 < t.clk.phase ∧
      ¬(s.queue 15).readAt + s.fld .hif HIF.CPL_TIMEOUT * 4000 < s.clk.phase := by decide +kernel
theorem test_accept_high_half : (⟨.high, 1⟩ : RegW).half = .high ∧ wHits (⟨.high, 1⟩ : RegW) GLB.FEAT_CLOSE = false := by decide

theorem test_input_current_high : let s : State := { up [] with
      clk := ⟨80001, 0, false⟩
      pwr := { Power.initial with inOverFrom := some 0 } }
    s.deaf = false ∧ s.stopped = false ∧ 6300 < (6301 : BitVec 16).toNat ∧ s.pwr.inOverFrom.getD s.clk.phase + 80000 < s.clk.phase := by
  decide
theorem test_dip_ends : (up [(.pwr, PWR.STATUS_UV_WARN, 1)]).flag .pwr PWR.STATUS_UV_WARN = true ∧ 4000 ≤ (4000 : BitVec 16).toNat := by decide
theorem test_second_stop : let s : State := { up [(.pwr, PWR.LAST_STOP_CAUSE, 7)] with pwr := { Power.initial with hardStop := true } }
    s.deaf = false ∧ s.stopped = true ∧ s.pwr.stopAt = s.sclk ∧ (StopCause.code .inputCurrent).1 < s.fld .pwr PWR.LAST_STOP_CAUSE := by decide
theorem test_not_rested : (up []).pwr.down = false := by decide
theorem test_peer_fault_too_early : (tst [(.bst, BST.STATUS_STAGE, 1)]).stage < stageFirmware ∧
    (tst [(.bst, BST.STATUS_STAGE, 8)]).stage = stageRecovery := by decide

theorem test_too_hot : (∃ x ∈ [(1760 : Int)], 1760 ≤ x) ∧ (∀ x ∈ [(1759 : Int)], x < 1760) ∧ (∃ x ∈ [(1600 : Int)], 1600 ≤ x) := by decide
theorem test_rail_off_nominal : let s : State := { up [] with
      clk := ⟨40000, 0, false⟩
      pwr := { Power.initial with railBadFrom := [(7, 0)] } }
    s.sensing = true ∧ s.zoneOp 7 ≠ 3 ∧ s.flag (.zn 7) ZN.STATUS_TRANS = false ∧ 10 < gap 0 (railNominal (s.zoneOp 7)) ∧
      smGet (s.clk.phase + 1) s.pwr.railBadFrom 7 + 40000 ≤ s.clk.phase := by decide
theorem test_rail_over_current : let s : State := { up [] with
      clk := ⟨20001, 0, false⟩
      pwr := { Power.initial with railOverFrom := [(0, 0)] } }
    s.deaf = false ∧ s.stopped = false ∧ s.zoneOp 0 ≠ 3 ∧ 2 * peakLimit (s.zoneOp 0) < [65535].getD 0 0 ∧
      smGet (s.clk.phase + 1) s.pwr.railOverFrom 0 + 20000 < s.clk.phase := by decide
theorem test_limit_stays : (up []).flag (.zn 7) ZN.STATUS_LIMIT = false ∧ (up []).pwr.coolHotFrom = none := by decide

theorem test_locked_request : (zonesAt 1 [(.sch, SCH.STATUS_LOCKED, 1)]).reaches (.zn 0) = true ∧
    (zonesAt 1 [(.sch, SCH.STATUS_LOCKED, 1)]).locked = true ∧ wCovers (wr 3) ZN.CTRL_OP_REQ = true ∧
    wCovers (⟨.high, 0⟩ : RegW) ZN.CTRL_OP_REQ = false ∧ wHits (wr 3) COM.CNT_CLR = false := by decide +kernel
theorem test_nothing_moves : (zonesAt 1 []).zonesMoving = false ∧ (zonesAt 1 []).pwr.descentAt = none ∧ State.reset.running = false := by
  decide +kernel
theorem test_descent_is_over : let s : State := { up [] with pwr := { Power.initial with descentAt := some 40 } }
    s.pwr.descentAt = some 40 ∧ (s.advanceTo 40).descentNext (s.advanceTo 40).pwr.descentZone = none := by decide +kernel
/-- A timed step of 1,000 W windows with LOAD_SHAPING active, and 100 windows too high behind it. -/
def drawing : State :=
  let s := timed (sched schRunning [(.glb, GLB.FEAT_ACTIVE, 0x101)])
  { s with clk := ⟨4000, 0, false⟩, pwr := { Power.initial with overSpan := 100 } }
theorem test_window_too_high : drawing.running = true ∧ drawing.shaping = true ∧ (drawing.declWindow drawing.clk.phase).isSome = true ∧
    ((drawing.declWindow (drawing.clk.phase - 1)).map fun x => decide (x.2.total * 11 < 1000000 * 10)) = some true ∧
    drawing.pwr.overSpan = 100 ∧ drawing.pwr.overTold = false := by decide +kernel

theorem test_pmbus_other_pages : (paged 9).deaf = false ∧ (paged 9).pins.pmbusPage = 9 ∧ (paged 10).pins.pmbusPage.toNat > 9 ∧
    8 < (paged 9).pins.pmbusPage.toNat := by decide

theorem test_svn_commit : (up [(.sec, SEC.SVN_RUNNING, 65)]).reaches .sec = true ∧ wHits (wr 2) SEC.CTRL_SVN_COMMIT = true ∧
    wHits (wr 2) SEC.CTRL_LC_APPLY = false ∧ wHits (wr 2) SEC.CTRL_REC_WRITE = false ∧
    [schArmed, schRunning, schVerdict, schCommit].contains (up []).schState = false := by decide
theorem test_tamper_by_rail : (at_ stageAux).detects .coreRail = false ∧ (at_ stageRom).detects .secureRail = false := by decide
theorem test_no_tree_grows : (up []).sec.growing = false ∧ (up []).flag .sec SEC.STATUS_TAMPER_HOLD = false := by decide
theorem test_identity_tree : let s : State := { up [] with sec := { Sec.initial with bonded := ⟨0, 0, some ⟨1, [2], []⟩, some 65535⟩ } }
    s.zhexalRuns = true ∧ s.sec.bonded.tree = some ⟨1, [2], []⟩ ∧ s.sec.bonded.leaf = some 65535 ∧ s.sec.otp.lms1 ≠ 4096 := by decide

theorem test_perst_not_held : (up []).boot.perst = false ∧ (up []).boot.coreBusy = false ∧ (up []).boot.fabricBusy = false := by decide
theorem test_reset_in_a_power_on : State.reset.powerOning = true ∧ State.reset.pwr.hardStop = false ∧ State.reset.answers .glb = true := by
  decide
theorem test_reset_inside_a_wider_one : (at_ stageTraining).answers .glb = true ∧ (at_ stageTraining).stage ≠ stageReady ∧
    wHits (wr 2) GLB.CTRL_MODULE_RESET = false ∧ wHits (wr 2) GLB.CTRL_CORE_RESET = true ∧ wHits (wr 4) GLB.CTRL_FABRIC_RESET = true ∧
    wHits (wr 6) GLB.CTRL_CORE_RESET = true ∧ wHits (wr 6) GLB.CTRL_FABRIC_RESET = true := by decide
theorem test_fabric_reset_in_a_step : (timed (sched schRunning [])).answers .glb = true ∧
    (timed (sched schRunning [])).stage = stageReady ∧ (timed (sched schRunning [])).sch.regime ≠ .none := by decide +kernel
theorem test_core_done_after_flr : ({ up [] with boot := { Boot.initial with coreBusy := true, coreByFlr := true } } : State).boot.coreByFlr =
    true := rfl

theorem test_other_stages : (up []).stage ≠ stageAux ∧ (up []).stage ≠ stageRom ∧ (up []).stage ≠ stageFirmware ∧
    (up []).stage ≠ stageSelftest ∧ (up []).stage ≠ stageShutdown ∧ (up []).stage ≠ stageTraining ∧
    (up []).fld (.mem 7) MEM.STATUS_STATE ≠ memTraining := by decide
theorem test_shutdown_under_test : (at_ stageShutdown).answers .bst = true ∧ (at_ stageShutdown).testing = true ∧
    wHits (wr 1) BST.CTRL_SHUTDOWN = true ∧ wHits (wr 2) BST.CTRL_RETEST = true ∧ wHits (wr 2) BST.CTRL_SHUTDOWN = false := by decide

end
end Sys2Proof.Tests
end

section
/-! PROOFS. What a register write does: the bits that it merges, the events and the lock that it meets, and the register that its BAR0
offset names. -/
namespace Sys2Proof.Machine

/-! Bits of numbers. -/

theorem bitOf_eq_testBit (v i : Nat) : bitOf v i = v.testBit i := Nat.testBit_eq_decide_div_mod_eq.symm

/-- A merged register takes a bit from the new value exactly where the mask names it. -/
theorem bitOf_mergeBits (old new m i : Nat) :
    bitOf (mergeBits old new m) i = if bitOf m i then bitOf new i else bitOf old i := by
  simp only [bitOf_eq_testBit, mergeBits, Nat.testBit_or, Nat.testBit_xor, Nat.testBit_and]
  cases m.testBit i <;> simp

/-- A register keeps the low 64 bits of a number. -/
theorem bitOf_ofNat {i : Nat} (n : Nat) (h : i < 64) : bitOf (BitVec.ofNat 64 n).toNat i = bitOf n i := by
  rw [bitOf_eq_testBit, bitOf_eq_testBit, BitVec.toNat_ofNat, Nat.testBit_mod_two_pow, decide_eq_true h, Bool.true_and]

/-- Adding a power of two whose bit is clear sets that bit. -/
theorem add_two_pow_of_bitOf_clear {n b : Nat} (hn : n < 2 ^ 64) (hb : b < 64) (h : bitOf n b = false) :
    (n + 2 ^ b) % 2 ^ 64 = n ||| 2 ^ b := by
  rw [bitOf_eq_testBit] at h
  have apart : BitVec.ofNat 64 n &&& BitVec.twoPow 64 b = 0#64 := by
    rw [BitVec.and_twoPow, BitVec.getLsbD_ofNat, h, Bool.and_false, if_neg Bool.false_ne_true]
  have sum := congrArg BitVec.toNat (BitVec.add_eq_or_of_and_eq_zero _ _ apart)
  have hp : 2 ^ b < 2 ^ 64 := Nat.pow_lt_pow_right (by decide) hb
  rwa [BitVec.toNat_add, BitVec.toNat_or, BitVec.toNat_ofNat, BitVec.toNat_twoPow, Nat.mod_eq_of_lt hn, Nat.mod_eq_of_lt hp] at sum

/-! Registers and fields. -/

theorem State.reg_setFld_other (s : State) {p : Page} {f : Fld} {a : Nat} (v : Nat) (h : a ≠ fldAddr p f) :
    (s.setFld p f v).reg a = s.reg a := State.reg_setReg_other s _ h

@[simp] theorem State.reg_request (s : State) (p : Page) (b a : Nat) : (s.request p b).reg a = s.reg a := by
  simp only [State.reg, State.request_regs]

/-- A field follows its register. -/
theorem State.fld_of_reg {s t : State} {p : Page} {f : Fld} (h : t.reg (fldAddr p f) = s.reg (fldAddr p f)) :
    t.fld p f = s.fld p f := by
  simp only [State.fld, h]

theorem State.flag_of_reg {s t : State} {p : Page} {f : Fld} (h : t.reg (fldAddr p f) = s.reg (fldAddr p f)) :
    t.flag p f = s.flag p f := by
  simp only [State.flag, State.fld_of_reg h]

/-- A field is a part of the value of the field that names its whole register. -/
theorem State.fld_part (s : State) (p : Page) {f g : Fld} (ho : f.off = g.off) (hhi : f.hi = 63) (hlo : f.lo = 0) :
    s.fld p g = bitsOf (s.fld p f) g.hi g.lo := by
  have whole : s.fld p f = (s.reg (fldAddr p f)).toNat := by
    simp only [State.fld, bitsOf, hhi, hlo, Nat.pow_zero, Nat.div_one]
    exact Nat.mod_eq_of_lt (s.reg (fldAddr p f)).isLt
  rw [whole, fldAddr, ho]
  rfl

/-- A counter saturates at its width (R413). -/
theorem State.fld_count_same (s : State) (p : Page) (f : Fld) (hl : f.lo ≤ f.hi) (hh : f.hi < 64) :
    (s.count p f).fld p f = min (s.fld p f + 1) (2 ^ (f.hi + 1 - f.lo) - 1) := by
  have hw := Nat.two_pow_pos (f.hi + 1 - f.lo)
  simp only [State.count, State.countN]
  rw [State.fld_setFld_same _ _ _ _ hl hh]
  exact Nat.mod_eq_of_lt (by omega)

theorem State.reg_count_other (s : State) {p : Page} {f : Fld} {a : Nat} (h : a ≠ fldAddr p f) :
    (s.count p f).reg a = s.reg a := State.reg_setFld_other s _ h

/-! Pages. -/

/-- Pages lie at multiples of 4 KiB. -/
theorem pageBase_mod (p : Page) : pageBase p % 0x1000 = 0 := by
  cases p <;> simp only [pageBase] <;> omega

/-- Every page lies in the 64 MiB of BAR0. -/
theorem pageBase_le (p : Page) : pageBase p + 0x1000 ≤ 2 ^ 26 := by
  cases p <;> simp only [pageBase] <;> omega

/-! Events (R412). -/

/-- What an event does to EVENT_FIRST and EVENT_TIME. -/
def State.noteFirst (s : State) (p : Page) (b : Nat) : State :=
  if !bitOf (s.fld p COM.EVENT_FIRST) 31 || (bitOf (s.fld p COM.EVENT_FIRST) 31 && s.fld p COM.EVENT_TIME / 4 = s.ht / 4 &&
      b < s.fld p COM.EVENT_FIRST % 64) then
    s.setFlds p [(COM.EVENT_FIRST, 2 ^ 31 + b), (COM.EVENT_TIME, s.ht)]
  else s

/-- An event notes itself as the first where it is, and sets its bit where that is clear. -/
theorem State.raise_eq (s : State) (p : Page) (b : Nat) :
    s.raise p b = if bitOf (s.fld p COM.EVENT) b then s.noteFirst p b
      else if bitOf (s.fld p COM.EVENT_EN) b then
        ((s.noteFirst p b).setFld p COM.EVENT (s.fld p COM.EVENT + 2 ^ b)).request p b
      else (s.noteFirst p b).setFld p COM.EVENT (s.fld p COM.EVENT + 2 ^ b) := rfl

theorem State.reg_noteFirst_other (s : State) {p : Page} {a : Nat} (b : Nat) (hf : a ≠ fldAddr p COM.EVENT_FIRST)
    (ht : a ≠ fldAddr p COM.EVENT_TIME) : (s.noteFirst p b).reg a = s.reg a := by
  unfold State.noteFirst
  split
  · exact (State.reg_setFld_other _ _ ht).trans (State.reg_setFld_other _ _ hf)
  · rfl

/-- An event touches no register but the page's EVENT, EVENT_FIRST and EVENT_TIME. -/
theorem State.reg_raise_other (s : State) {p : Page} {a : Nat} (b : Nat) (he : a ≠ fldAddr p COM.EVENT)
    (hf : a ≠ fldAddr p COM.EVENT_FIRST) (ht : a ≠ fldAddr p COM.EVENT_TIME) : (s.raise p b).reg a = s.reg a := by
  have first := s.reg_noteFirst_other b hf ht
  rw [State.raise_eq]
  split
  · exact first
  · split
    · rw [State.reg_request, State.reg_setFld_other _ _ he, first]
    · rw [State.reg_setFld_other _ _ he, first]

/-- An event sets its bit of EVENT and no other. -/
theorem State.fld_raise_event (s : State) (p : Page) {b : Nat} (hb : b < 64) :
    (s.raise p b).fld p COM.EVENT = s.fld p COM.EVENT ||| 2 ^ b := by
  have other : ∀ f : Fld, f.off ≠ 0x020 → fldAddr p COM.EVENT ≠ fldAddr p f := by
    intro f hf e
    exact hf (Nat.add_left_cancel e).symm
  by_cases h : bitOf (s.fld p COM.EVENT) b = true
  · rw [State.raise_eq, if_pos h, State.fld_of_reg (s.reg_noteFirst_other b (other _ (by decide)) (other _ (by decide)))]
    apply Nat.eq_of_testBit_eq
    intro i
    rw [bitOf_eq_testBit] at h
    by_cases hi : b = i
    · subst hi; simp [h]
    · simp [hi]
  · have sets : ∀ t : State, (t.setFld p COM.EVENT (s.fld p COM.EVENT + 2 ^ b)).fld p COM.EVENT = s.fld p COM.EVENT ||| 2 ^ b := by
      intro t
      rw [State.fld_setFld_same _ _ _ _ (by decide) (by decide)]
      exact add_two_pow_of_bitOf_clear (bitsOf_lt _ _ _) hb (Bool.eq_false_iff.mpr h)
    rw [State.raise_eq, if_neg h]
    split
    · rw [State.fld_of_reg (State.reg_request _ _ _ _), sets]
    · exact sets _

/-! A write to a locked field (R65). -/

/-- Offsets of the SCH registers that a write to a locked field may change: the event registers, LOCK_WRITE_CNT and LOCK_WR_FIRST. -/
def lockRecordOffs : List Nat := [0x020, 0x030, 0x038, 0x070, 0x168]

/-- A register with a lockable field is none of those that record a write to a locked field. -/
theorem lockable_ne_lockRecord {p : Page} {off o : Nat} (h : off < 0x1000) (hr : (regRow p off).rwl ≠ 0) (ho : o ∈ lockRecordOffs) :
    pageBase p + off ≠ pageBase .sch + o := by
  have plain : ∀ o ∈ lockRecordOffs, o < 0x1000 ∧ (regRow .sch o).rwl = 0 := by decide
  obtain ⟨hlt, h0⟩ := plain o ho
  intro e
  have hp : p = .sch := by
    have page := pageAt_pageBase p off h
    rw [e, pageAt_pageBase _ _ hlt] at page
    exact (Option.some.inj page).symm
  subst hp
  exact hr (Nat.add_left_cancel e ▸ h0)

/-- Counting a write to a locked field leaves the mark that one is recorded. -/
theorem State.recorded_count (s : State) :
    (s.count .sch SCH.LOCK_WRITE_CNT).flag .sch SCH.LOCK_WR_FIRST_VALID = s.flag .sch SCH.LOCK_WR_FIRST_VALID :=
  State.flag_of_reg (s.reg_count_other (by decide))

/-- A write to a locked field after the first recorded one is counted and no more. -/
theorem State.lockWrite_again {s : State} (p : Page) (off : Nat) (h : s.flag .sch SCH.LOCK_WR_FIRST_VALID = true) :
    s.lockWrite p off = s.count .sch SCH.LOCK_WRITE_CNT := by
  simp only [State.lockWrite, State.recorded_count, h, if_true]

/-- The first write to a locked field is counted and recorded, and raises LOCK_WRITE. -/
theorem State.lockWrite_first {s : State} (p : Page) (off : Nat) (h : s.flag .sch SCH.LOCK_WR_FIRST_VALID = false) :
    s.lockWrite p off = ((s.count .sch SCH.LOCK_WRITE_CNT).setFld .sch SCH.LOCK_WR_FIRST (pageBase p + off + 2 ^ 31)).raise .sch
      SCH.EV_LOCK_WRITE := by
  simp only [State.lockWrite, State.recorded_count, h, Bool.false_eq_true, if_false]

/-- The records of a write to a locked field are all that it changes. -/
theorem State.reg_lockWrite_other (s : State) (p : Page) (off : Nat) {a : Nat} (h : ∀ o ∈ lockRecordOffs, a ≠ pageBase .sch + o) :
    (s.lockWrite p off).reg a = s.reg a := by
  have cnt := s.reg_count_other (f := SCH.LOCK_WRITE_CNT) (h 0x070 (by decide))
  cases hv : s.flag .sch SCH.LOCK_WR_FIRST_VALID with
  | true => rw [State.lockWrite_again p off hv, cnt]
  | false =>
    rw [State.lockWrite_first p off hv, State.reg_raise_other _ _ (h 0x020 (by decide)) (h 0x030 (by decide)) (h 0x038 (by decide)),
      State.reg_setFld_other _ _ (h 0x168 (by decide)), cnt]

theorem State.fld_lockWrite_cnt (s : State) (p : Page) (off : Nat) :
    (s.lockWrite p off).fld .sch SCH.LOCK_WRITE_CNT = min (s.fld .sch SCH.LOCK_WRITE_CNT + 1) (2 ^ 64 - 1) := by
  have cnt := s.fld_count_same .sch SCH.LOCK_WRITE_CNT (by decide) (by decide)
  cases hv : s.flag .sch SCH.LOCK_WR_FIRST_VALID with
  | true => rw [State.lockWrite_again p off hv, cnt]; rfl
  | false =>
    rw [State.lockWrite_first p off hv, State.fld_of_reg (State.reg_raise_other _ _ (by decide) (by decide) (by decide)),
      State.fld_setFld_otherReg _ _ (by decide), cnt]
    rfl

/-- The first write to a locked field leaves its offset with VALID in LOCK_WR_FIRST. -/
theorem State.fld_lockWrite_first {s : State} (p : Page) {off : Nat} (hoff : off < 0x1000)
    (h : s.flag .sch SCH.LOCK_WR_FIRST_VALID = false) :
    (s.lockWrite p off).fld .sch SCH.LOCK_WR_FIRST = pageBase p + off + 2 ^ 31 := by
  have hle := pageBase_le p
  rw [State.lockWrite_first p off h, State.fld_of_reg (State.reg_raise_other _ _ (by decide) (by decide) (by decide)),
    State.fld_setFld_same _ _ _ _ (by decide) (by decide)]
  exact Nat.mod_eq_of_lt (show pageBase p + off + 2 ^ 31 < 2 ^ 64 by omega)

theorem State.offset_lockWrite_first {s : State} (p : Page) {off : Nat} (hoff : off < 0x1000)
    (h : s.flag .sch SCH.LOCK_WR_FIRST_VALID = false) :
    (s.lockWrite p off).fld .sch SCH.LOCK_WR_FIRST_OFFSET = pageBase p + off := by
  have hle := pageBase_le p
  rw [State.fld_part (f := SCH.LOCK_WR_FIRST) (g := SCH.LOCK_WR_FIRST_OFFSET) _ _ rfl rfl rfl, State.fld_lockWrite_first p hoff h]
  show (pageBase p + off + 2 ^ 31) / 2 ^ 0 % 2 ^ 28 = _
  omega

theorem State.recorded_lockWrite_first {s : State} (p : Page) {off : Nat} (hoff : off < 0x1000)
    (h : s.flag .sch SCH.LOCK_WR_FIRST_VALID = false) :
    (s.lockWrite p off).flag .sch SCH.LOCK_WR_FIRST_VALID = true := by
  have hle := pageBase_le p
  have hbit : bitsOf (pageBase p + off + 2 ^ 31) 31 31 = 1 := by
    show (pageBase p + off + 2 ^ 31) / 2 ^ 31 % 2 ^ 1 = 1
    omega
  rw [State.flag, State.fld_part (f := SCH.LOCK_WR_FIRST) (g := SCH.LOCK_WR_FIRST_VALID) _ _ rfl rfl rfl,
    State.fld_lockWrite_first p hoff h]
  show (bitsOf (pageBase p + off + 2 ^ 31) 31 31 != 0) = true
  rw [hbit]
  rfl

theorem State.event_lockWrite_first {s : State} (p : Page) (off : Nat) (h : s.flag .sch SCH.LOCK_WR_FIRST_VALID = false) :
    bitOf ((s.lockWrite p off).fld .sch COM.EVENT) SCH.EV_LOCK_WRITE = true := by
  rw [State.lockWrite_first p off h, State.fld_raise_event _ _ (by decide), bitOf_eq_testBit, Nat.testBit_or, Nat.testBit_two_pow_self,
    Bool.or_true]

theorem State.fld_lockWrite_again {s : State} (p : Page) (off : Nat) (h : s.flag .sch SCH.LOCK_WR_FIRST_VALID = true) :
    (s.lockWrite p off).fld .sch SCH.LOCK_WR_FIRST = s.fld .sch SCH.LOCK_WR_FIRST := by
  rw [State.lockWrite_again p off h]
  exact State.fld_of_reg (State.reg_count_other _ (by decide))

/-! A stored write (R3, R65, R406). -/

/-- The state with the written bits that a mask names in their register. -/
def State.merged (s : State) (p : Page) (off : Nat) (w : RegW) (m : Nat) : State :=
  s.setReg (pageBase p + off) (BitVec.ofNat 64 (mergeBits (s.reg (pageBase p + off)).toNat (wData w) m))

theorem State.bitOf_merged (s : State) (p : Page) (off : Nat) (w : RegW) (m : Nat) {i : Nat} (h : i < 64) :
    bitOf ((s.merged p off w m).reg (pageBase p + off)).toNat i =
      if bitOf m i then bitOf (wData w) i else bitOf (s.reg (pageBase p + off)).toNat i := by
  rw [State.merged, State.reg_setReg_same, bitOf_ofNat _ h, bitOf_mergeBits]

/-- While no lock holds a write stores its RW and RWL bits and does no more. -/
theorem State.store_unlocked {s : State} (p : Page) (off : Nat) (w : RegW) (h : s.locked = false) :
    s.store p off w = s.merged p off w (Half.mask w.half &&& ((regRow p off).rw ||| (regRow p off).rwl)) := by
  simp [State.store, State.merged, takenBits, h]

/-- While the lock holds a write that covers a locked field stores its RW bits and is a write to a locked field. -/
theorem State.store_locked {s : State} {p : Page} {off : Nat} {w : RegW} (h : s.locked = true)
    (hw : Half.mask w.half &&& (regRow p off).rwl ≠ 0) :
    s.store p off w = (s.merged p off w (Half.mask w.half &&& (regRow p off).rw)).lockWrite p off := by
  simp [State.store, State.merged, takenBits, h, hw]

/-! The register that a BAR0 offset names (R337, R406, R415, R416). -/

/-- An access of 8 bytes to a register covers the whole of it, and one of 4 to either half that half. -/
theorem accessHalf_of_half {a : Nat} (h : Half) (ha : a % 8 = 0) :
    accessHalf (a + if h = .high then 4 else 0) (if h = .whole then 8 else 4) = some h := by
  have high : (a + 4) % 8 = 4 := by omega
  cases h <;> simp [accessHalf, ha, high]

/-- A BAR0 write of 8 bytes, or of 4 to one half, reaches the register that its offset names. -/
theorem exec_registerWrite {p : Page} {off : Nat} (h : Half) (val : Reg) (s : State) (hoff : off < 0x1000) (h8 : off % 8 = 0) :
    exec (.registerWrite (BitVec.ofNat 26 (pageBase p + off + if h = .high then 4 else 0)) (if h = .whole then 8 else 4) val) s =
      .next (pageWrite p off ⟨h, val⟩ s) := by
  have hbase := pageBase_mod p
  have hle := pageBase_le p
  have half := accessHalf_of_half (a := pageBase p + off) h (by omega)
  generalize hd : (if h = .high then 4 else 0) = d at half ⊢
  have hd4 : d ≤ 4 := by split at hd <;> omega
  have addr : (BitVec.ofNat 26 (pageBase p + off + d)).toNat = pageBase p + off + d := by
    rw [BitVec.toNat_ofNat]; exact Nat.mod_eq_of_lt (by omega)
  have page : pageAt (pageBase p + off + d) = some p := by
    rw [Nat.add_assoc]; exact pageAt_pageBase p _ (by omega)
  have reg : (pageBase p + off + d) % 0x1000 / 8 * 8 = off := by omega
  show execRegisterWrite _ _ _ _ = _
  simp only [execRegisterWrite, addr, half, page, reg]

/-- A write to a register that does no more than store, on a page that answers, is stored. -/
theorem pageWrite_plain {s : State} {p : Page} {off : Nat} (w : RegW) (hctrl : off ≠ 0x010) (hev : off ≠ 0x020) (hen : off ≠ 0x028)
    (hplain : ∀ w t, blockWrite p off w t = plainWrite p off w t) (hr : s.reaches p = true) :
    pageWrite p off w s = s.store p off w := by
  simp [pageWrite, hctrl, hev, hen, hplain, plainWrite, onlyIf, hr]

/-- Settles O9: an unlocked write is `State.merged` and a locked one that followed by `State.lockWrite`, whose records are no register
with a lockable field. -/
theorem registerWritesStoreOrAreLocked : Obligations.RegisterWritesStoreOrAreLocked := by
  refine ⟨?unlocked, ?locked⟩
  case unlocked =>
    intro s p off val h hoff h8 hctrl hev hen hplain hr hl
    refine ⟨s.store p off ⟨h, val⟩, ?_, ?_⟩
    · rw [exec_registerWrite h val s hoff h8, pageWrite_plain _ hctrl hev hen hplain hr]
    · rw [State.store_unlocked p off _ hl]
      exact ⟨fun i hi => s.bitOf_merged p off _ _ hi, fun a ha => State.reg_setReg_other s _ ha, rfl⟩
  case locked =>
    intro s p off w hoff hl hw
    have hrwl : (regRow p off).rwl ≠ 0 := by
      intro h0
      rw [h0, Nat.and_zero] at hw
      exact hw rfl
    have apart : ∀ o ∈ lockRecordOffs, pageBase p + off ≠ pageBase .sch + o := fun o ho => lockable_ne_lockRecord hoff hrwl ho
    rw [State.store_locked hl hw]
    generalize hu : s.merged p off w (Half.mask w.half &&& (regRow p off).rw) = u
    have kept : ∀ o ∈ lockRecordOffs, u.reg (pageBase .sch + o) = s.reg (pageBase .sch + o) := by
      intro o ho
      rw [← hu]
      exact State.reg_setReg_other s _ (apart o ho).symm
    have valid : u.flag .sch SCH.LOCK_WR_FIRST_VALID = s.flag .sch SCH.LOCK_WR_FIRST_VALID :=
      State.flag_of_reg (kept 0x168 (by decide))
    refine ⟨?bits, ?counted, ?first, ?again⟩
    case bits =>
      intro i hi
      rw [u.reg_lockWrite_other p off apart, ← hu, s.bitOf_merged p off w _ hi]
    case counted =>
      rw [u.fld_lockWrite_cnt, State.fld_of_reg (kept 0x070 (by decide))]
    case first =>
      intro hv
      rw [← valid] at hv
      exact ⟨State.offset_lockWrite_first p hoff hv, State.recorded_lockWrite_first p hoff hv,
        State.event_lockWrite_first p off hv⟩
    case again =>
      intro hv
      rw [← valid] at hv
      rw [u.fld_lockWrite_again p off hv, State.fld_of_reg (kept 0x168 (by decide))]

end Sys2Proof.Machine
end

section
/-! PROOFS. What the other units leave of the scheduler: at a step's boundaries, and as time goes on, they set causes of an invalid step
and no other field of it, and of its page they touch only what a step start clears. -/
namespace Sys2Proof.Machine

/-- The scheduler's fields but the causes of an invalid step, and the registers of its page but those that a step start clears, are
kept. -/
structure State.KeepsSch (s t : State) : Prop where
  sch : t.sch = { s.sch with causes := t.sch.causes, causesNext := t.sch.causesNext, causes2 := t.sch.causes2,
                             causes2Next := t.sch.causes2Next }
  reg : ∀ off, off < 0x1000 → stepReg .sch off = false → t.reg (pageBase .sch + off) = s.reg (pageBase .sch + off)

@[refl] theorem State.KeepsSch.refl (s : State) : s.KeepsSch s := ⟨rfl, fun _ _ _ => rfl⟩

theorem State.KeepsSch.trans {s t u : State} (h : s.KeepsSch t) (k : t.KeepsSch u) : s.KeepsSch u := by
  refine ⟨?_, fun off hoff hs => (k.reg off hoff hs).trans (h.reg off hoff hs)⟩
  have hsch := k.sch
  rw [h.sch] at hsch
  exact hsch

theorem State.KeepsSch.fld {s t : State} (h : s.KeepsSch t) (f : Fld) (hoff : f.off < 0x1000) (hs : stepReg .sch f.off = false) :
    t.fld .sch f = s.fld .sch f := State.fld_of_reg (h.reg f.off hoff hs)

theorem State.KeepsSch.schState {s t : State} (h : s.KeepsSch t) : t.schState = s.schState :=
  h.fld SCH.STATUS_STATE (by decide) (by decide)

theorem State.KeepsSch.locked {s t : State} (h : s.KeepsSch t) : t.locked = s.locked :=
  State.flag_of_reg (h.reg SCH.STATUS_LOCKED.off (by decide) (by decide))

theorem State.KeepsSch.regime {s t : State} (h : s.KeepsSch t) : t.sch.regime = s.sch.regime := by rw [h.sch]

theorem State.KeepsSch.armed {s t : State} (h : s.KeepsSch t) : t.sch.armed = s.sch.armed := by rw [h.sch]

theorem State.KeepsSch.startTick {s t : State} (h : s.KeepsSch t) : t.sch.startTick = s.sch.startTick := by rw [h.sch]

theorem State.KeepsSch.startPhase {s t : State} (h : s.KeepsSch t) : t.sch.startPhase = s.sch.startPhase := by rw [h.sch]

theorem State.KeepsSch.ite {s t u : State} {c : Prop} [Decidable c] (ht : s.KeepsSch t) (hu : s.KeepsSch u) :
    s.KeepsSch (if c then t else u) := by
  split
  · exact ht
  · exact hu

theorem State.KeepsSch.foldl {α : Type} {f : State → α → State} (hf : ∀ (s : State) x, s.KeepsSch (f s x)) (xs : List α) (s : State) :
    s.KeepsSch (xs.foldl f s) := by
  induction xs generalizing s with
  | nil => rfl
  | cons x xs ih => exact (hf s x).trans (ih _)

/-- What leaves the scheduler's fields and every register alone keeps the scheduler. -/
theorem State.KeepsSch.of_eq {s t : State} (hs : t.sch = s.sch) (hr : t.regs = s.regs) : s.KeepsSch t :=
  ⟨by rw [hs], fun _ _ _ => by simp only [State.reg, hr]⟩

/-! Registers, counters and events of the pages that lie above the scheduler's. -/

/-- The pages that lie above the scheduler's page in BAR0. -/
def aboveSch : Page → Bool
  | .glb | .hif | .irq | .htm | .sch => false
  | _ => true

theorem ne_fldAddr_of_aboveSch {p : Page} {f : Fld} {off : Nat} (h : aboveSch p = true) (hoff : off < 0x1000) :
    pageBase .sch + off ≠ fldAddr p f := by
  have hbase : 0x5000 ≤ pageBase p := by
    cases p <;> simp only [aboveSch, Bool.false_eq_true] at h <;> simp only [pageBase] <;> omega
  have hsch : pageBase .sch = 0x4000 := rfl
  rw [hsch, fldAddr]
  omega

theorem keepsSch_setFld (s : State) {p : Page} (f : Fld) (v : Nat) (h : aboveSch p = true) : s.KeepsSch (s.setFld p f v) :=
  ⟨rfl, fun _ hoff _ => State.reg_setFld_other _ _ (ne_fldAddr_of_aboveSch h hoff)⟩

theorem keepsSch_setFlds (s : State) {p : Page} (fs : List (Fld × Nat)) (h : aboveSch p = true) : s.KeepsSch (s.setFlds p fs) :=
  State.KeepsSch.foldl (fun s (x : Fld × Nat) => keepsSch_setFld s x.1 x.2 h) fs s

theorem keepsSch_countN (s : State) {p : Page} (f : Fld) (n : Nat) (h : aboveSch p = true) : s.KeepsSch (s.countN p f n) :=
  keepsSch_setFld s f _ h

theorem keepsSch_count (s : State) {p : Page} (f : Fld) (h : aboveSch p = true) : s.KeepsSch (s.count p f) :=
  keepsSch_countN s f 1 h

theorem keepsSch_raise (s : State) {p : Page} (b : Nat) (h : aboveSch p = true) : s.KeepsSch (s.raise p b) :=
  ⟨by rw [State.raise_sch], fun _ hoff _ => State.reg_raise_other _ _ (ne_fldAddr_of_aboveSch h hoff)
    (ne_fldAddr_of_aboveSch h hoff) (ne_fldAddr_of_aboveSch h hoff)⟩

theorem keepsSch_tally (s : State) {p : Page} (f : Fld) (b : Nat) (h : aboveSch p = true) : s.KeepsSch (s.tally p f b) :=
  (keepsSch_count s f h).trans (keepsSch_raise _ b h)

theorem keepsSch_tallyN (s : State) {p : Page} (f : Fld) (n b : Nat) (h : aboveSch p = true) : s.KeepsSch (s.tallyN p f n b) :=
  .ite (.refl s) ((keepsSch_countN s f n h).trans (keepsSch_raise _ b h))

theorem keepsSch_setCause (s : State) (second : Bool) (c : Cause) : s.KeepsSch (s.setCause second c) := by
  refine ⟨?_, fun _ _ _ => by simp only [State.reg, State.setCause_regs]⟩
  unfold State.setCause
  cases second <;> cases s.inInterval _ <;> rfl

theorem keepsSch_invalid (s : State) (second : Bool) (c : Cause) : s.KeepsSch (s.invalid second c) :=
  (keepsSch_setCause s second c).trans (keepsSch_tally _ _ _ rfl)

/-! HBM (R324, R329). -/

theorem keepsSch_storePhys (s : State) (g : Nat) (ps : List (Nat × List Byte)) (poison : Bool) :
    s.KeepsSch (s.storePhys g ps poison) := by
  have counted := keepsSch_count s MEM.WR_GRAN_CNT (p := memPage (granStack g)) rfl
  have marked : s.KeepsSch (if poison then (s.count (memPage (granStack g)) MEM.WR_GRAN_CNT).count (memPage (granStack g))
      MEM.POISON_WR_CNT else s.count (memPage (granStack g)) MEM.WR_GRAN_CNT) :=
    .ite (counted.trans (keepsSch_count _ _ rfl)) counted
  exact marked.trans (.of_eq rfl rfl)

theorem keepsSch_addrRange (s : State) (edge : Nat) : s.KeepsSch (s.addrRange edge) := keepsSch_tally s _ _ rfl

theorem keepsSch_corrected (s : State) (g : Nat) (ws : List (Fin 32)) : s.KeepsSch (s.corrected g ws) :=
  have one : ∀ (s : State) (v : Nat), s.KeepsSch
      ((s.tally (memPage (granStack g)) MEM.CE_CNT MEM.EV_CE).setFld (memPage (granStack g)) MEM.CE_LAST v) := fun s _ =>
    (keepsSch_tally s _ _ rfl).trans (keepsSch_setFld _ _ _ rfl)
  State.KeepsSch.foldl (fun s _ => one s _) ws s

theorem keepsSch_uncorrectable (s : State) (second : Bool) (g : Nat) : s.KeepsSch (s.uncorrectable second g) := by
  have told := keepsSch_tally s MEM.UE_CNT MEM.EV_UE (p := memPage (granStack g)) rfl
  unfold State.uncorrectable
  extract_lets p s1 s2
  have first : s.KeepsSch s2 := .ite told (told.trans (keepsSch_setFld _ _ _ rfl))
  exact .ite (first.trans (keepsSch_invalid _ _ _)) first

theorem keepsSch_readGran (s : State) (second : Bool) (w : Win) (ecc : List EccErr) (i a n : Nat) :
    s.KeepsSch (s.readGran second w ecc i a n).2 := by
  unfold State.readGran
  split
  · rfl
  · extract_lets p e s1 old s2 s3
    have h1 : s.KeepsSch s1 := (keepsSch_count s _ rfl).trans (keepsSch_corrected _ _ _)
    have h2 : s.KeepsSch s2 := .ite (h1.trans (keepsSch_uncorrectable _ _ _)) h1
    exact .ite (h2.trans (keepsSch_tally _ _ _ rfl)) h2

theorem keepsSch_readMem (s : State) (second : Bool) (edge : Nat) (w : Win) (ecc : List EccErr) (a n : Nat) :
    s.KeepsSch (s.readMem second edge w ecc a n).2 := by
  unfold State.readMem
  extract_lets out s0 s1
  have h0 : s.KeepsSch s0 := .ite (keepsSch_addrRange s edge) (.refl s)
  have h1 : s.KeepsSch s1 := .ite (h0.trans (keepsSch_invalid _ _ _)) h0
  generalize (⟨[], [], false⟩ : MemRead) = r
  generalize (pieces a n).zipIdx = qs
  clear_value s1
  induction qs generalizing s1 r with
  | nil => exact h1
  | cons q qs ih => exact ih _ (h1.trans (keepsSch_readGran _ _ _ _ _ _ _)) _

theorem keepsSch_writeGran (s : State) (w : Win) (a : Nat) (data : List Byte) (poison : Bool) (till : Phase) :
    s.KeepsSch (s.writeGran w a data poison till) := by
  unfold State.writeGran
  split
  · rfl
  · exact .ite (keepsSch_storePhys _ _ _ _) (.of_eq rfl rfl)

theorem keepsSch_writeMem (s : State) (edge : Nat) (w : Win) (a : Nat) (data : List Byte) (marks : List Bool) (till : Phase) :
    s.KeepsSch (s.writeMem edge w a data marks till) :=
  (State.KeepsSch.ite (keepsSch_addrRange s edge) (.refl s)).trans
    (.foldl (fun s _ => keepsSch_writeGran s _ _ _ _ _) _ _)

/-! Time (R440, R441). -/

theorem keepsSch_spadWrite (s : State) (t : Fin 128) (p : Bool) (a : Nat) (d : List Byte) : s.KeepsSch (s.spadWrite t p a d) := by
  unfold State.spadWrite
  exact .foldl (fun s _ => by exact .ite (.of_eq rfl rfl) (.refl s)) _ s

theorem keepsSch_apply (s : State) (d : DueAct) : s.KeepsSch (d.apply s) := by
  cases d with
  | hbm g ps p => exact keepsSch_storePhys s g ps p
  | spad t a data p => exact keepsSch_spadWrite s t p a data
  | fetch t a g l till => exact .of_eq rfl rfl
  | cell t a n l sh f => exact .of_eq rfl rfl
  | reopen out => exact .of_eq rfl rfl

theorem keepsSch_settleDue (n : Nat) (t : Phase) (s : State) : s.KeepsSch (State.settleDue n t s) := by
  induction n generalizing s with
  | zero => rfl
  | succ n ih =>
    unfold State.settleDue
    split
    · rfl
    · rename_i d rest _
      have clock : s.KeepsSch (({ s with due := rest } : State).clockTo d.at_) := .of_eq rfl rfl
      exact .ite ((clock.trans (keepsSch_apply _ _)).trans (ih _)) (.refl s)

theorem keepsSch_advanceTo (s : State) (t : Phase) : s.KeepsSch (s.advanceTo t) :=
  (keepsSch_settleDue _ _ _).trans (.of_eq rfl rfl)

end Sys2Proof.Machine
end

section
/-! PROOFS. What a step's boundaries leave of the scheduler: the change of operating points, all that a step start clears or takes over,
the check of the sequence pass, and what a step end settles. -/
namespace Sys2Proof.Machine

/-! Operating points and banks (R188, R362). -/

theorem keepsSch_showBank (s : State) (t : Fin 128) (b code : Nat) : s.KeepsSch (s.showBank t b code) :=
  keepsSch_setFlds s _ rfl

theorem keepsSch_setBankWait (s : State) (t : Fin 128) (b : Nat) (v : Bool) : s.KeepsSch (s.setBankWait t b v) := .of_eq rfl rfl

theorem keepsSch_setBankTr (s : State) (t : Fin 128) (b : Nat) (v : Option BankTr) : s.KeepsSch (s.setBankTr t b v) :=
  .of_eq rfl rfl

theorem keepsSch_startBank (s : State) (t : Fin 128) (b : Nat) : s.KeepsSch (s.startBank t b) :=
  .ite (keepsSch_setBankWait ..) (.ite (keepsSch_setBankWait ..)
    (((keepsSch_setBankWait ..).trans (keepsSch_setBankTr ..)).trans (keepsSch_showBank ..)))

theorem keepsSch_bankZoneOff (s : State) (t : Fin 128) (b : Nat) : s.KeepsSch (s.bankZoneOff t b) := by
  have ended : ∀ code, s.KeepsSch ((s.setBankTr t b none).showBank t b code) := fun _ =>
    (keepsSch_setBankTr ..).trans (keepsSch_showBank ..)
  unfold State.bankZoneOff
  extract_lets s1
  have h1 : s.KeepsSch s1 := by
    unfold s1
    split
    · exact .ite (ended _) (.ite (ended _) (.refl s))
    · exact .ite (keepsSch_showBank ..) (.refl s)
  exact .ite h1 (h1.trans (keepsSch_startBank ..))

theorem keepsSch_wakeFollows (s : State) (z : Fin 8) (old new : Nat) : s.KeepsSch (s.wakeFollows z old new) :=
  .ite (.refl s) (.of_eq rfl rfl)

theorem keepsSch_banksFollow (s : State) (z : Fin 8) (old new : Nat) : s.KeepsSch (s.banksFollow z old new) := by
  refine .ite (.refl s) ((keepsSch_wakeFollows s z old new).trans (.foldl (fun s t => .foldl (fun s b => ?_) _ s) _ _))
  refine .ite (keepsSch_bankZoneOff ..) ?_
  split
  · exact .ite (.refl s) (keepsSch_setBankTr ..)
  · exact .ite (keepsSch_startBank ..) (.refl s)

theorem keepsSch_stepZone (s : State) (z : Fin 8) : s.KeepsSch (s.stepZone z) := by
  have moved : ∀ old new, s.KeepsSch ((s.setFld (.zn z) ZN.STATUS_OP new).banksFollow z old new) := fun _ _ =>
    (keepsSch_setFld s _ _ rfl).trans (keepsSch_banksFollow ..)
  exact .ite (.ite ((moved _ _).trans ((keepsSch_setFld _ _ _ rfl).trans (keepsSch_tally _ _ _ rfl))) (moved _ _)) (.refl s)

theorem keepsSch_settleZones (s : State) : s.KeepsSch s.settleZones :=
  have one : ∀ s : State, s.KeepsSch s.stepZones := State.KeepsSch.foldl keepsSch_stepZone _
  ((one s).trans (one _)).trans (one _)

/-! The cooperage (R195 to R202, R205). -/

theorem keepsSch_setBuf (s : State) (id : Nat) (b : Buf) : s.KeepsSch (s.setBuf id b) := .of_eq rfl rfl

theorem keepsSch_freeBuffer (s : State) (id : Nat) : s.KeepsSch (s.freeBuffer id) := .of_eq rfl rfl

theorem keepsSch_releaseNow (s : State) (unit : BitVec 16) (id : Nat) : s.KeepsSch (s.releaseNow unit id) := by
  have counted := keepsSch_count s COOP.RELEASE_CNT (p := .coop) rfl
  unfold State.releaseNow
  extract_lets s1 b
  refine counted.trans ?_
  split
  · exact .ite (.ite (keepsSch_freeBuffer ..) (keepsSch_tally _ _ _ rfl)) (.ite (keepsSch_freeBuffer ..) (.of_eq rfl rfl))
  · exact keepsSch_tally _ _ _ rfl

theorem keepsSch_portRelease (s : State) (unit : BitVec 16) (id : Nat) : s.KeepsSch (s.portRelease unit id) := by
  have one : s.KeepsSch { s with coop := { s.coop with releases := s.coop.releases + 1 } } := .of_eq rfl rfl
  exact .ite (keepsSch_tally _ _ _ rfl) (one.trans (keepsSch_releaseNow ..))

theorem keepsSch_coopAt (s : State) (cycle : Nat) : s.KeepsSch (s.coopAt cycle) := .ite (.refl s) (.of_eq rfl rfl)

theorem keepsSch_poolLow (s : State) (n : Nat) (p : Pool) (fresh : Bool) : s.KeepsSch (s.poolLow n p fresh) :=
  keepsSch_setFld s _ _ rfl

theorem keepsSch_allocFails (s : State) (n : Nat) : s.KeepsSch (s.allocFails n) :=
  (State.KeepsSch.ite (keepsSch_count s _ rfl) (.refl s)).trans (keepsSch_count _ _ rfl)

theorem keepsSch_accept (s : State) (n size : Nat) (init : BitVec 16) : s.KeepsSch (s.accept n size init).2 := by
  unfold State.accept
  split
  · exact (keepsSch_tally s _ _ rfl).trans (keepsSch_allocFails ..)
  · extract_lets taken s1 p
    have h1 : s.KeepsSch s1 := .of_eq rfl rfl
    split
    · exact h1.trans ((keepsSch_tally _ _ _ rfl).trans (keepsSch_allocFails ..))
    · clear_value p
      split
      · exact h1
      · extract_lets r s2
        have h2 : s.KeepsSch s2 := h1.trans (keepsSch_countN _ _ _ rfl)
        split
        · exact h2.trans ((keepsSch_allocFails ..).trans (keepsSch_raise _ _ rfl))
        · exact h2.trans ((keepsSch_setBuf ..).trans (keepsSch_poolLow ..))

theorem keepsSch_serve (d : CoopDue) (s : State) : s.KeepsSch (d.serve s) := by
  refine (keepsSch_coopAt s (d.at_ / 2)).trans ?_
  unfold CoopDue.serve
  dsimp only
  split
  · exact keepsSch_portRelease ..
  · exact (keepsSch_accept ..).trans (.of_eq rfl rfl)

theorem keepsSch_coopBefore (s : State) (k : Nat) : s.KeepsSch (s.coopBefore k) := by
  unfold State.coopBefore
  extract_lets now
  have taken : s.KeepsSch { s with coop := { s.coop with due := s.coop.due.filter fun d => !now d } } := .of_eq rfl rfl
  exact taken.trans (.foldl (fun s d => keepsSch_serve d s) _ _)

theorem keepsSch_coopCycle (s : State) : s.KeepsSch s.coopCycle := (keepsSch_coopBefore ..).trans (keepsSch_coopAt ..)

theorem keepsSch_releaseBuf (s : State) (unit : BitVec 16) (id : Nat) : s.KeepsSch (s.releaseBuf unit id) :=
  (keepsSch_coopCycle s).trans (.of_eq rfl rfl)

theorem keepsSch_poolsLow (s : State) : s.KeepsSch s.poolsLow := by
  refine .foldl (fun s n => ?_) _ s
  split
  · exact keepsSch_poolLow ..
  · exact keepsSch_setFld s _ _ rfl

theorem keepsSch_coopStepStart (s : State) : s.KeepsSch s.coopStepStart := by
  unfold State.coopStepStart
  extract_lets now perStep left s1
  have h0 : s.KeepsSch now := keepsSch_coopBefore ..
  have h1 : now.KeepsSch s1 := .of_eq rfl rfl
  exact (h0.trans h1).trans (keepsSch_poolsLow s1)

/-! The lauter engine (R242, R245, R251, R254). -/

theorem keepsSch_quotaSwapAt (s : State) : s.KeepsSch s.quotaSwapAt := by
  refine .ite (.refl s) ((keepsSch_setFld s LTR.STATUS_SWAP_PEND (Bool.toNat false) (p := .ltr) rfl).trans ?_)
  dsimp only
  split
  · exact (keepsSch_tally _ _ _ rfl).trans (keepsSch_setFld _ _ _ rfl)
  · exact .of_eq rfl rfl

theorem keepsSch_asmLost (s : State) (a : Assembly) : s.KeepsSch (s.asmLost a) := by
  unfold State.asmLost
  split
  · exact (keepsSch_releaseBuf ..).trans (keepsSch_tally _ _ _ rfl)
  · rfl

theorem keepsSch_cellsLost (s : State) (c : Fld) (ev : Nat) : s.KeepsSch (s.cellsLost c ev) :=
  (keepsSch_tally s c ev rfl).trans (keepsSch_invalid ..)

theorem keepsSch_runsShort (s : State) (p : Choice → Bool) : s.KeepsSch (s.runsShort p) := by
  refine State.KeepsSch.trans ?_ (.foldl (fun s _ => keepsSch_cellsLost s _ _) _ _)
  exact .of_eq rfl rfl

theorem keepsSch_ltrStepEnd (s : State) : s.KeepsSch s.ltrStepEnd := by
  have taken : s.KeepsSch { s with ltr := { s.ltr with asm := [] } } := .of_eq rfl rfl
  exact (taken.trans (.foldl keepsSch_asmLost _ _)).trans (keepsSch_runsShort ..)

theorem keepsSch_ltrStepStart (s : State) : s.KeepsSch s.ltrStepStart := by
  refine (keepsSch_ltrStepEnd s).trans (.trans ?_ (keepsSch_setFld _ _ _ rfl))
  exact .of_eq rfl rfl

/-! Kilns, racks and the hydrometer (R264, R266, R288, R291, R294, R309). -/

theorem keepsSch_hyperSwapAt (s : State) (k : Nat) : s.KeepsSch (s.hyperSwapAt k) := by
  refine .ite (.refl s) ((keepsSch_setFld s KLN.STATUS_SWAP_PEND (Bool.toNat false) (p := klnPage k) rfl).trans ?_)
  dsimp only
  split
  · exact (keepsSch_tally _ _ _ rfl).trans (keepsSch_setFld _ _ _ rfl)
  · exact .of_eq rfl rfl

theorem keepsSch_clearHanded (s : State) (k : Nat) : s.KeepsSch (s.clearHanded k) := by
  refine State.KeepsSch.trans ?_ ((keepsSch_setFld _ _ _ rfl).trans (keepsSch_setFld _ _ _ rfl))
  exact .of_eq rfl rfl

theorem keepsSch_rackStepStart (s : State) : s.KeepsSch s.rackStepStart := by
  refine State.KeepsSch.trans ?_ (keepsSch_setFlds _ _ rfl)
  exact .of_eq rfl rfl

theorem keepsSch_takeTap (s : State) (t : Tap) : s.KeepsSch (s.takeTap t) := by
  unfold State.takeTap
  extract_lets e r recs s1
  have h1 : s.KeepsSch s1 := .of_eq rfl rfl
  split
  · exact .ite (h1.trans (keepsSch_tallyN _ _ _ _ rfl)) h1
  · exact h1

theorem keepsSch_settleTaps (s : State) (till : Phase) : s.KeepsSch (s.settleTaps till) := by
  refine State.KeepsSch.trans ?_ (.foldl keepsSch_takeTap _ _)
  exact .of_eq rfl rfl

theorem keepsSch_judgeSilent (s : State) (id : Nat) : s.KeepsSch (s.judgeSilent id) := by
  unfold State.judgeSilent
  extract_lets e r run alarm r1 recs s1 s2
  have h1 : s.KeepsSch s1 := .of_eq rfl rfl
  have h2 : s.KeepsSch s2 := h1.trans (keepsSch_tally _ _ _ rfl)
  exact .ite (.ite h2 (h2.trans (keepsSch_setFld _ _ _ rfl))) h1

theorem keepsSch_watchdog (s : State) : s.KeepsSch s.watchdog :=
  (keepsSch_settleTaps s _).trans (.foldl keepsSch_judgeSilent _ _)

theorem keepsSch_activateSelections (s : State) (start : Phase) : s.KeepsSch (s.activateSelections start) := by
  unfold State.activateSelections
  extract_lets late fromRead s1 hyd s2
  have h1 : s.KeepsSch s1 := by
    refine .foldl (fun s e => ?_) _ s
    exact .ite (.refl s) (.of_eq rfl rfl)
  have h2 : s.KeepsSch s2 := h1.trans (.of_eq rfl rfl)
  exact .ite (h2.trans (keepsSch_tally _ _ _ rfl)) h2

/-! The ports (R233, R234). -/

theorem keepsSch_foldIdle (s : State) (p : Nat) : s.KeepsSch (s.foldIdle p) :=
  (keepsSch_countN s _ _ rfl).trans (.of_eq rfl rfl)

theorem keepsSch_enterPort (s : State) (p st : Nat) : s.KeepsSch (s.enterPort p st) := by
  have shown := (keepsSch_foldIdle s p).trans (keepsSch_setFld _ LNK.STATUS_STATE st (p := lnkPage p) rfl)
  exact (State.KeepsSch.ite shown (shown.trans (keepsSch_setFld _ _ _ rfl))).trans
    ((keepsSch_setFld _ _ _ rfl).trans (keepsSch_setFld _ _ _ rfl))

theorem keepsSch_admitPending (s : State) : s.KeepsSch s.admitPending :=
  .foldl (fun s _ => .ite ((keepsSch_setFld s _ _ rfl).trans ((keepsSch_enterPort ..).trans (keepsSch_raise _ _ rfl)))
    (.refl s)) _ s

/-! Step start (R61, R302). -/

theorem smGet_smDrop {α : Type} (d : α) (p : Nat → Bool) (m : SMap α) {k : Nat} (h : p k = false) :
    smGet d (smDrop p m) k = smGet d m k := by
  induction m with
  | nil => rfl
  | cons e t ih =>
    obtain ⟨a, v⟩ := e
    by_cases ha : k = a
    · subst ha
      simp [smDrop, smGet, h]
    · have rest : smGet d ((a, v) :: t) k = smGet d t k := by simp [smGet, ha]
      rw [rest, ← ih]
      cases hp : p a <;> simp [smDrop, smGet, hp, ha]

/-- The registers that a step start clears are not those that the scheduler keeps. -/
theorem keepsSch_dropStepRegs (s : State) : s.KeepsSch { s with regs := smDrop stepAddr s.regs } := by
  refine ⟨rfl, fun off hoff hs => smGet_smDrop _ _ _ ?_⟩
  have place : (pageBase .sch + off) % 0x1000 = off := by rw [show pageBase .sch = 0x4000 from rfl]; omega
  simp only [stepAddr, pageAt_pageBase _ _ hoff, place, hs]

theorem keepsSch_freshStep (s : State) (start : Phase) : s.KeepsSch (s.freshStep start) := by
  unfold State.freshStep
  extract_lets active s1 mem fab s2 s3 s4
  have h1 : s.KeepsSch s1 := (keepsSch_activateSelections s start).trans (keepsSch_dropStepRegs (s.activateSelections start))
  have h2 : s.KeepsSch s2 := h1.trans (.of_eq rfl rfl)
  have h3 : s.KeepsSch s3 := h2.trans ((keepsSch_rackStepStart _).trans ((keepsSch_coopStepStart _).trans
    (keepsSch_quotaSwapAt _)))
  have h4 : s.KeepsSch s4 := h3.trans (.foldl (fun s k => (keepsSch_hyperSwapAt s k).trans (keepsSch_clearHanded _ k)) _ _)
  exact h4.trans (keepsSch_ltrStepStart _)

theorem keepsSch_readBatch (s : State) (b : Batch) : s.KeepsSch (s.readBatch b).2 := by
  have drawn : s.KeepsSch s.drawErrs.2 := .of_eq rfl rfl
  unfold State.readBatch
  extract_lets h count r a
  have head : s.KeepsSch h.2 := drawn.trans (keepsSch_readMem ..)
  exact head.trans (keepsSch_readMem ..)

theorem keepsSch_passReached (s : State) (b : Batch) : s.KeepsSch (s.passReached b) := by
  have drawn : s.KeepsSch s.draw.2 := .of_eq rfl rfl
  unfold State.passReached
  extract_lets d r out
  have read : s.KeepsSch r.2 := drawn.trans (keepsSch_readBatch ..)
  exact read.trans (keepsSch_writeMem ..)

theorem keepsSch_seqFirst (s : State) (batch cause entry : Nat) : s.KeepsSch (s.seqFirst batch cause entry) :=
  .ite (.refl s) (keepsSch_setFld s _ _ rfl)

theorem keepsSch_seqCheck (s : State) (done : Nat) (begun : Phase) : s.KeepsSch (s.seqCheck done begun) := by
  unfold State.seqCheck
  split
  · extract_lets s1
    have h1 : s.KeepsSch s1 := .ite (keepsSch_passReached ..) (.refl s)
    exact h1.trans ((keepsSch_tally _ _ _ rfl).trans ((keepsSch_seqFirst ..).trans (keepsSch_invalid ..)))
  · rfl

/-! Ballast (R360, R361). -/

theorem keepsSch_setBallast (s : State) (v : Nat) : s.KeepsSch (s.setBallast v) :=
  .foldl (fun s _ => keepsSch_setFld s _ _ rfl) _ s

theorem keepsSch_startDescent (s : State) : s.KeepsSch s.startDescent := by
  unfold State.startDescent
  extract_lets on shown
  have h : s.KeepsSch shown := keepsSch_setFld _ _ _ rfl
  exact h.trans (.of_eq rfl rfl)

theorem keepsSch_holdBallast (s : State) : s.KeepsSch s.holdBallast := by
  unfold State.holdBallast
  extract_lets shown pwr s0
  have h : s.KeepsSch shown := keepsSch_setFld _ _ _ rfl
  have h0 : s.KeepsSch s0 := h.trans (.of_eq rfl rfl)
  split
  · exact .ite (h0.trans ((keepsSch_setBallast ..).trans (keepsSch_startDescent _))) h0
  · exact h0

end Sys2Proof.Machine
end

section
/-! PROOFS. The life of a step: the states that the scheduler enters, the record that a step start opens and a step end closes, and the
statement of step starts and ends. -/
namespace Sys2Proof.Machine

/-! Fields beside events and counters. -/

theorem State.fld_raise_other (s : State) {p : Page} {f : Fld} (b : Nat) (h : f.off ∉ [0x020, 0x030, 0x038]) :
    (s.raise p b).fld p f = s.fld p f := by
  have apart : ∀ g : Fld, g.off ∈ [0x020, 0x030, 0x038] → fldAddr p f ≠ fldAddr p g := by
    intro g hg e
    exact h (Nat.add_left_cancel e ▸ hg)
  exact State.fld_of_reg (s.reg_raise_other b (apart _ (by decide)) (apart _ (by decide)) (apart _ (by decide)))

theorem State.fld_tally_other (s : State) {p : Page} {c f : Fld} (b : Nat) (hc : f.off ≠ c.off) (h : f.off ∉ [0x020, 0x030, 0x038]) :
    (s.tally p c b).fld p f = s.fld p f := by
  rw [State.tally, State.fld_raise_other _ _ h]
  exact State.fld_of_reg (s.reg_count_other fun e => hc (Nat.add_left_cancel e))

/-- A counter of 64 bits that is counted with an event (R413). -/
theorem State.fld_tally_same (s : State) {p : Page} {c : Fld} (b : Nat) (h : c.off ∉ [0x020, 0x030, 0x038]) (hlo : c.lo = 0)
    (hhi : c.hi = 63) : (s.tally p c b).fld p c = min (s.fld p c + 1) (2 ^ 64 - 1) := by
  rw [State.tally, State.fld_raise_other _ _ h, State.fld_count_same _ _ _ (by omega) (by omega), hlo, hhi]

/-! States of the scheduler (R65, R75). -/

@[simp] theorem State.enterSch_sch (s : State) (st : Nat) : (s.enterSch st).sch = s.sch := by
  unfold State.enterSch
  dsimp only
  split <;> rfl

@[simp] theorem State.enterSch_fab (s : State) (st : Nat) : (s.enterSch st).fab = s.fab := by
  unfold State.enterSch
  dsimp only
  split <;> rfl

@[simp] theorem State.enterSch_clk (s : State) (st : Nat) : (s.enterSch st).clk = s.clk := by
  unfold State.enterSch
  dsimp only
  split <;> rfl

theorem State.schState_of_regs {s t : State} (h : t.regs = s.regs) : t.schState = s.schState := by
  simp only [State.schState, State.fld, State.reg, h]

theorem State.schState_enterSch (s : State) {st : Nat} (h : st < 8) : (s.enterSch st).schState = st := by
  have entered : (s.setFld .sch SCH.STATUS_STATE st).fld .sch SCH.STATUS_STATE = st :=
    (State.fld_setFld_same _ _ _ _ (by decide) (by decide)).trans (Nat.mod_eq_of_lt h)
  rw [State.enterSch, State.schState]
  split
  · rw [State.fld_setFld_apart _ _ _ (by decide) (by decide) (by decide) (by decide) (by decide), entered]
  · exact entered

/-- The lock ends in EMPTY, LOADED and HELD (R65). -/
theorem State.locked_enterSch (s : State) {st : Nat} (h : [schEmpty, schLoaded, schHeld].contains st = true) :
    (s.enterSch st).locked = false := by
  rw [State.enterSch, if_pos h, State.locked, State.flag, State.fld_setFld_same _ _ _ _ (by decide) (by decide)]
  rfl

theorem State.fld_enterSch_other (s : State) (st : Nat) {f : Fld} (h : f.off ≠ 0x018) : (s.enterSch st).fld .sch f = s.fld .sch f := by
  have apart : ∀ g : Fld, g.off = 0x018 → fldAddr .sch f ≠ fldAddr .sch g := fun g hg e => h ((Nat.add_left_cancel e).trans hg)
  have entered : (s.setFld .sch SCH.STATUS_STATE st).fld .sch f = s.fld .sch f := State.fld_setFld_otherReg _ _ (apart _ rfl)
  unfold State.enterSch
  dsimp only
  split
  · exact (State.fld_setFld_otherReg _ _ (apart _ rfl)).trans entered
  · exact entered

/-! HELD (R61, R62, R74). -/

theorem State.enterHeld_keeps (s : State) :
    ((({ s with sch := { s.sch with armed := none, next := none, seqDone := 0 } } : State).enterSch schHeld).raise .sch
      SCH.EV_HELD).KeepsSch s.enterHeld := keepsSch_holdBallast _

theorem State.schState_enterHeld (s : State) : s.enterHeld.schState = schHeld := by
  rw [s.enterHeld_keeps.schState, State.schState, State.fld_raise_other _ _ (by decide)]
  exact State.schState_enterSch _ (by decide)

theorem State.locked_enterHeld (s : State) : s.enterHeld.locked = false := by
  rw [s.enterHeld_keeps.locked, State.locked, State.flag, State.fld_raise_other _ _ (by decide)]
  exact State.locked_enterSch _ (by decide)

theorem State.fld_enterHeld_stepIndex (s : State) : s.enterHeld.fld .sch SCH.STEP_INDEX = s.fld .sch SCH.STEP_INDEX := by
  rw [s.enterHeld_keeps.fld _ (by decide) (by decide), State.fld_raise_other _ _ (by decide),
    State.fld_enterSch_other _ _ (by decide)]
  rfl

theorem State.regime_enterHeld (s : State) : s.enterHeld.sch.regime = s.sch.regime := by
  rw [s.enterHeld_keeps.regime, State.raise_sch, State.enterSch_sch]

theorem State.armed_enterHeld (s : State) : s.enterHeld.sch.armed = none := by
  rw [s.enterHeld_keeps.sch, State.raise_sch, State.enterSch_sch]

/-! The record of a step that starts (R24, R61, R65). -/

/-- The fields of SCH that a step's start sets before it is counted. -/
def State.showStep (s : State) (timed : Bool) (tick : Nat) : State :=
  (s.enterSch schRunning).setFlds .sch [(SCH.STATUS_TIMED, timed.toNat), (SCH.STATUS_LOCKED, timed.toNat), (SCH.STEP_START, tick)]

theorem State.schState_showStep (s : State) (timed : Bool) (tick : Nat) : (s.showStep timed tick).schState = schRunning := by
  simp only [State.showStep, State.setFlds, List.foldl_cons, List.foldl_nil, State.schState]
  rw [State.fld_setFld_otherReg _ _ (by decide), State.fld_setFld_apart _ _ _ (by decide) (by decide) (by decide) (by decide) (by decide),
    State.fld_setFld_apart _ _ _ (by decide) (by decide) (by decide) (by decide) (by decide)]
  exact State.schState_enterSch s (by decide)

theorem State.locked_showStep (s : State) (timed : Bool) (tick : Nat) : (s.showStep timed tick).locked = timed := by
  simp only [State.showStep, State.setFlds, List.foldl_cons, List.foldl_nil, State.locked, State.flag]
  rw [State.fld_setFld_otherReg _ _ (by decide), State.fld_setFld_same _ _ _ _ (by decide) (by decide)]
  cases timed <;> rfl

theorem State.fld_showStep_other (s : State) (timed : Bool) (tick : Nat) {f : Fld} (h : f.off ∉ [0x018, 0x128]) :
    (s.showStep timed tick).fld .sch f = s.fld .sch f := by
  have apart : ∀ g : Fld, g.off ∈ [0x018, 0x128] → fldAddr .sch f ≠ fldAddr .sch g := fun g hg e =>
    h (Nat.add_left_cancel e ▸ hg)
  simp only [State.showStep, State.setFlds, List.foldl_cons, List.foldl_nil]
  rw [State.fld_setFld_otherReg _ _ (apart _ (by decide)), State.fld_setFld_otherReg _ _ (apart _ (by decide)),
    State.fld_setFld_otherReg _ _ (apart _ (by decide))]
  exact State.fld_enterSch_other s _ fun e => h (by rw [e]; decide)

theorem State.sch_openStep (s : State) (timed : Bool) (tick : Nat) (start : Phase) :
    (s.openStep timed tick start).sch.regime = (if timed then .timed else .untimed) ∧
      (s.openStep timed tick start).sch.startTick = tick ∧ (s.openStep timed tick start).sch.startPhase = start ∧
      (s.openStep timed tick start).sch.armed = none := by
  simp [State.openStep]

theorem State.openStep_eq (s : State) (timed : Bool) (tick : Nat) (start : Phase) :
    ∃ x : Sched, s.openStep timed tick start =
      (({ s with sch := x } : State).showStep timed tick).tally .sch SCH.STEP_CNT SCH.EV_STEP_START := ⟨_, rfl⟩

theorem State.schState_openStep (s : State) (timed : Bool) (tick : Nat) (start : Phase) :
    (s.openStep timed tick start).schState = schRunning := by
  obtain ⟨x, hx⟩ := s.openStep_eq timed tick start
  rw [hx, State.schState, State.fld_tally_other _ _ (by decide) (by decide)]
  exact State.schState_showStep _ _ _

theorem State.locked_openStep (s : State) (timed : Bool) (tick : Nat) (start : Phase) :
    (s.openStep timed tick start).locked = timed := by
  obtain ⟨x, hx⟩ := s.openStep_eq timed tick start
  rw [hx, State.locked, State.flag, State.fld_tally_other _ _ (by decide) (by decide)]
  exact State.locked_showStep _ _ _

theorem State.stepCnt_openStep (s : State) (timed : Bool) (tick : Nat) (start : Phase) :
    (s.openStep timed tick start).fld .sch SCH.STEP_CNT = min (s.fld .sch SCH.STEP_CNT + 1) (2 ^ 64 - 1) := by
  obtain ⟨x, hx⟩ := s.openStep_eq timed tick start
  rw [hx, State.fld_tally_same _ _ (by decide) rfl rfl, State.fld_showStep_other _ _ _ (by decide)]
  rfl

/-! The end of a step (R62 to R64). -/

theorem State.regime_endStep (s : State) (committed judge : Bool) : (s.endStep committed judge).sch.regime = .none := rfl

theorem State.fld_endStep (s : State) (committed judge : Bool) (f : Fld) (hoff : f.off < 0x1000)
    (hs : stepReg .sch f.off = false) : (s.endStep committed judge).fld .sch f = s.fld .sch f := by
  unfold State.endStep
  extract_lets sch s1 s2 ended
  have h2 : s1.KeepsSch s2 := (State.KeepsSch.ite (keepsSch_watchdog s1) (.refl s1)).trans (keepsSch_ltrStepEnd _)
  exact (h2.trans (keepsSch_admitPending s2)).fld f hoff hs

theorem State.stepIndex_bumpIndex (s : State) :
    s.bumpIndex.fld .sch SCH.STEP_INDEX = (s.fld .sch SCH.STEP_INDEX + 1) % 2 ^ 32 :=
  State.fld_setFld_same _ _ _ _ (by decide) (by decide)

/-! Step starts and ends. -/

/-- The state at an armed tick, when the conditions of R16 are looked at (R61, R362; log 59). -/
def State.atTick (s : State) (tick : Nat) : State := (s.advanceTo (s.phaseOfTick tick)).settleZones

theorem State.keepsSch_atTick (s : State) (tick : Nat) : s.KeepsSch (s.atTick tick) :=
  (keepsSch_advanceTo s _).trans (keepsSch_settleZones _)

/-- STEP_START at a tick that is armed: the conditions of R16 decide. -/
theorem execStepStart_armed {s : State} {tick : Nat} {run : Bool} (harm : s.sch.armed = some (tick, run))
    (hst : s.schState = schArmed) (hu : s.flag .sch SCH.CTRL_UNTIMED = false) (hrun : s.running = true) :
    execStepStart s = .next (if (s.atTick tick).timedReady && (s.atTick tick).timedImage then
        (((s.atTick tick).freshStep (s.phaseOfTick tick)).openStep true tick (s.phaseOfTick tick)).seqCheck s.sch.seqDone
          (s.batchBegin s.sch.seqDone)
      else { s.atTick tick with sch := { (s.atTick tick).sch with valid := none } }.enterHeld) := by
  simp [execStepStart, harm, hst, hu, hrun, State.atTick]

theorem execUntimedStepStart_armed {s : State} (hst : s.schState = schArmed) (hu : s.flag .sch SCH.CTRL_UNTIMED = true)
    (hrun : s.running = true) (hseq : s.batches.length ≤ s.sch.seqDone) (hz : s.zonesMoving = false) :
    execUntimedStepStart s = .next ((s.freshStep s.clk.phase).openStep false s.ht s.clk.phase) := by
  simp [execUntimedStepStart, hst, hu, hrun, hseq, hz]

theorem execUntimedUStart_ended {s : State} (hr : s.sch.regime = .untimed) (hu : s.sch.uStarted = false) (hrun : s.running = true)
    (hs : s.streamsEnded = true) (hbe : s.fab.be = []) (hout : s.ltr.outQ = []) (hret : s.ltr.retQ = []) :
    execUntimedUStart s = .next { s.advanceTo s.tilesDone with sch := { s.sch with uStarted := true } } := by
  simp [execUntimedUStart, hr, hu, hrun, hs, hbe, hout, hret]

theorem execUntimedStepEnd_ended {s : State} (hr : s.sch.regime = .untimed) (hu : s.sch.uStarted = true) (hrun : s.running = true)
    (he : s.uEnded = true) :
    execUntimedStepEnd s = .next ((((s.advanceTo s.uDone).endStep true true).bumpIndex).enterHeld) := by
  simp [execUntimedStepEnd, hr, hu, hrun, he]

/-- Settles O20: what comes before the start and after it keeps the scheduler (`State.KeepsSch`), and the start itself is
`State.openStep`; the end is `State.endStep`, the index and `State.enterHeld`. -/
theorem stepsStartAndEnd : Obligations.StepsStartAndEnd := by
  refine ⟨?timedStart, ?untimedStart, ?uStart, ?untimedEnd⟩
  case timedStart =>
    intro s tick run harm hst hu hrun s1
    have atTick : s1 = s.atTick tick := rfl
    clear_value s1
    subst atTick
    have before := s.keepsSch_atTick tick
    have decided : exec .stepStart s = _ := execStepStart_armed harm hst hu hrun
    refine ⟨fun ready => ?started, fun failed => ?held⟩
    case started =>
      rw [if_pos ready] at decided
      generalize s.phaseOfTick tick = start at decided ⊢
      have fresh := before.trans (keepsSch_freshStep _ start)
      obtain ⟨regime, startTick, startPhase, armed⟩ := ((s.atTick tick).freshStep start).sch_openStep true tick start
      have after := keepsSch_seqCheck (((s.atTick tick).freshStep start).openStep true tick start) s.sch.seqDone
        (s.batchBegin s.sch.seqDone)
      refine ⟨_, decided, after.schState.trans (State.schState_openStep ..), after.regime.trans regime,
        after.locked.trans (State.locked_openStep ..), after.startTick.trans startTick, after.startPhase.trans startPhase,
        after.armed.trans armed, ?_⟩
      rw [after.fld _ (by decide) (by decide), State.stepCnt_openStep, fresh.fld _ (by decide) (by decide)]
    case held =>
      rw [failed, if_neg Bool.false_ne_true] at decided
      exact ⟨_, decided, State.schState_enterHeld _, (State.regime_enterHeld _).trans before.regime, State.armed_enterHeld _,
        State.locked_enterHeld _⟩
  case untimedStart =>
    intro s hst hu hrun hseq hz
    obtain ⟨regime, -, startPhase, -⟩ := (s.freshStep s.clk.phase).sch_openStep false s.ht s.clk.phase
    exact ⟨_, execUntimedStepStart_armed hst hu hrun hseq hz, State.schState_openStep .., regime, State.locked_openStep ..,
      startPhase⟩
  case uStart =>
    intro s hr hu hrun hs hbe hout hret
    exact execUntimedUStart_ended hr hu hrun hs hbe hout hret
  case untimedEnd =>
    intro s hr hu hrun he
    refine ⟨_, execUntimedStepEnd_ended hr hu hrun he, State.schState_enterHeld _, ?_, State.locked_enterHeld _, ?_⟩
    · exact (State.regime_enterHeld _).trans rfl
    · rw [State.fld_enterHeld_stepIndex, State.stepIndex_bumpIndex, State.fld_endStep _ _ _ _ (by decide) (by decide),
        (keepsSch_advanceTo s _).fld _ (by decide) (by decide)]

end Sys2Proof.Machine
end

section
/-! PROOFS. Digests and the verdict: the digest that is offered at its tick, what a result says, and the verdict that it decides. -/
namespace Sys2Proof.Machine

/-! Digest ticks (R20, R229). -/

theorem State.KeepsSch.lastDigestOf {s t : State} (h : s.KeepsSch t) (second : Bool) :
    t.lastDigestOf second = s.lastDigestOf second := by
  have img2 : t.sch.img2 = s.sch.img2 := by rw [h.sch]
  unfold State.lastDigestOf
  rw [img2, h.fld SCH.LAST_DIGEST (by decide) (by decide)]

theorem execDigestTick_due {s : State} {second : Bool} {tick : Nat} (hr : s.sch.regime = .timed) (hrun : s.running = true)
    (hn : s.nextDigest = some (second, tick)) :
    execDigestTick s = .next ((s.advanceTo (s.sch.startPhase + 4 * tick)).offerDigest second) := by
  simp [execDigestTick, hr, hrun, hn]

/-- The clock at the phase of a tick that has not passed shows that tick. -/
theorem State.stepTick_advanceTo (s : State) {tick : Nat} (h : s.clk.phase ≤ s.sch.startPhase + 4 * tick) :
    (s.advanceTo (s.sch.startPhase + 4 * tick)).stepTick = tick := by
  rw [State.stepTick, advanceTo_phase, State.advanceTo_sch, Nat.max_eq_right h, Nat.add_sub_cancel_left]
  exact Nat.mul_div_cancel_left tick (by decide)

/-- What offering a digest of second runnings does: nothing but the digest is the scheduler's (R229, R318). -/
theorem State.offerDigest_second (s : State) :
    (s.offerDigest true).sch = { s.sch with digested2 := s.sch.digested2 + 1 } ∧
      (s.offerDigest true).fab.digest2 = some (s.digestNow true) ∧ (s.offerDigest true).fab.digestAt2 = s.clk.phase ∧
      (s.offerDigest true).clk = s.clk := by
  refine ⟨rfl, rfl, rfl, ?_⟩
  simp only [State.offerDigest, if_true, State.setFlds_clk]

theorem State.schState_offerDigest_second (s : State) : (s.offerDigest true).schState = s.schState := by
  unfold State.offerDigest
  extract_lets d owed f s0
  have shown : s.KeepsSch s0 := keepsSch_setFlds s _ rfl
  clear_value s0 d
  rw [if_pos rfl]
  refine Eq.trans (State.schState_of_regs (s := s0) ?_) shown.schState
  rfl

/-- The primary job's last digest leaves the module waiting for the verdict (R75, R229). -/
theorem State.offerDigest_primary_eq (s : State) :
    ∃ u : State, s.offerDigest false = (if s.stepTick = s.fld .sch SCH.LAST_DIGEST && s.schState = schRunning then
        u.enterSch schVerdict else u) ∧
      u.sch = { s.sch with digested := s.sch.digested + 1 } ∧ u.fab.digest = some (s.digestNow false) ∧
      u.fab.digestAt = s.clk.phase ∧ u.clk = s.clk :=
  ⟨_, rfl, rfl, rfl, rfl, State.setFlds_clk ..⟩

theorem State.offerDigest_primary (s : State) :
    (s.offerDigest false).sch = { s.sch with digested := s.sch.digested + 1 } ∧
      (s.offerDigest false).fab.digest = some (s.digestNow false) ∧ (s.offerDigest false).fab.digestAt = s.clk.phase ∧
      (s.offerDigest false).clk = s.clk := by
  obtain ⟨u, hu, offered⟩ := s.offerDigest_primary_eq
  rw [hu]
  split
  · rw [State.enterSch_sch, State.enterSch_fab, State.enterSch_clk]
    exact offered
  · exact offered

theorem State.schState_offerDigest_last {s : State} (hlast : s.stepTick = s.fld .sch SCH.LAST_DIGEST)
    (hst : s.schState = schRunning) : (s.offerDigest false).schState = schVerdict := by
  obtain ⟨u, hu, -⟩ := s.offerDigest_primary_eq
  rw [hu, if_pos (by simp only [hlast, hst, decide_true, Bool.and_self])]
  exact State.schState_enterSch u (by decide)

/-! Results (R230, R318). -/

/-- A result has no cause exactly when counts and CRCs agree, the digest tells none, and nothing is missing. -/
theorem DigestRes.judge_eq_zero (r : DigestRes) :
    r.judge.1 = 0 ↔ bitsOf r.data.toNat 63 0 = bitsOf r.data.toNat 127 64 ∧
      bitsOf r.data.toNat 191 128 = bitsOf r.data.toNat 255 192 ∧ bitsOf r.data.toNat 261 256 = 0 ∧ r.missing = false := by
  have causes : r.judge.1 = 0 ↔ (bitsOf r.data.toNat 261 256 = 0 ∧ bitsOf r.data.toNat 63 0 = bitsOf r.data.toNat 127 64 ∧
      bitsOf r.data.toNat 191 128 = bitsOf r.data.toNat 255 192) ∧ r.missing = false := by
    simp [DigestRes.judge, Nat.or_eq_zero_iff]
  rw [causes]
  exact ⟨fun ⟨⟨told, counts, crcs⟩, came⟩ => ⟨counts, crcs, told, came⟩, fun ⟨counts, crcs, told, came⟩ => ⟨⟨told, counts, crcs⟩, came⟩⟩

/-- The state in which the first result that has come is taken. -/
def State.atResult (s : State) (r : DigestRes) (rest : List DigestRes) : State :=
  ({ s with sch := { s.sch with results := rest } } : State).advanceTo (s.sch.startPhase + r.tick)

theorem execDigestResult_first {s : State} {r : DigestRes} {rest : List DigestRes}
    (h : takeFirst DigestRes.tick s.sch.results = some (r, rest)) : execDigestResult s = .next ((s.atResult r rest).takeResult r) := by
  simp [execDigestResult, h, State.atResult]

@[simp] theorem State.atResult_sch (s : State) (r : DigestRes) (rest : List DigestRes) :
    (s.atResult r rest).sch = { s.sch with results := rest } := State.advanceTo_sch ..

theorem State.lastDigestOf_atResult (s : State) (r : DigestRes) (rest : List DigestRes) (second : Bool) :
    (s.atResult r rest).lastDigestOf second = s.lastDigestOf second :=
  ((keepsSch_advanceTo _ _).lastDigestOf second).trans (by cases second <;> rfl)

/-- A result of the last digest tick of its job that comes in time decides. -/
theorem State.takeResult_primary {s : State} {r : DigestRes} (hs : r.second = false) (hr : s.sch.regime = .timed)
    (hv : s.sch.valid = none) (hedge : 4 * s.lastDigestOf r.second ≤ r.edge)
    (htick : r.tick ≤ 4 * (s.lastDigestOf r.second + 3000)) :
    ∃ u : State, u.sch = s.sch ∧
      s.takeResult r = ({ u with sch := { u.sch with result := some r } } : State).takeVerdict r.judge.1 := by
  have decides : (s.sch.regime = .timed && s.sch.valid.isNone && 4 * s.lastDigestOf r.second ≤ r.edge &&
      r.tick ≤ 4 * (s.lastDigestOf r.second + 3000)) = true := by
    simp only [hr, hv, hedge, htick, Option.isNone_none, decide_true, Bool.and_self]
  unfold State.takeResult
  extract_lets j s1 last
  rw [if_neg (ne_true_of_eq_false hs), if_pos decides]
  exact ⟨s1, State.setFld_sch .., rfl⟩

theorem State.takeResult_second {s : State} {r : DigestRes} (hs : r.second = true) (hv : s.sch.verdict2 = true)
    (hedge : 4 * s.lastDigestOf r.second ≤ r.edge) (htick : r.tick ≤ 4 * (s.lastDigestOf r.second + 3000)) :
    ∃ u : State, u.sch = s.sch ∧ s.takeResult r = u.takeVerdict2 r.judge.1 := by
  have decides : (s.sch.verdict2 && 4 * s.lastDigestOf r.second ≤ r.edge && r.tick ≤ 4 * (s.lastDigestOf r.second + 3000)) = true := by
    simp only [hv, hedge, htick, decide_true, Bool.and_self]
  unfold State.takeResult
  extract_lets j s1 last
  rw [if_pos hs, if_pos decides]
  exact ⟨s1, State.setFld_sch .., rfl⟩

/-! The verdict (R62, R75, R320). -/

theorem State.takeVerdict_sch (s : State) (causes : Nat) :
    (s.takeVerdict causes).sch = { s.sch with valid := some (Decidable.decide (causes = 0)) } := by
  unfold State.takeVerdict
  dsimp only
  split <;> simp

theorem State.verdict_takeVerdict (s : State) (causes : Nat) :
    (s.takeVerdict causes).fld .sch SCH.VERDICT = causes % 2 ^ 6 := by
  unfold State.takeVerdict
  extract_lets ok sch s1 s2
  have told : s2 = (s1.setFld .sch SCH.VERDICT causes).setFld .sch SCH.STATUS_LAST_VALID ok.toNat := rfl
  clear_value s2
  have taken : s2.fld .sch SCH.VERDICT = causes % 2 ^ 6 := by
    rw [told, State.fld_setFld_otherReg _ _ (by decide)]
    exact s1.fld_setFld_same .sch SCH.VERDICT causes (by decide) (by decide)
  split
  · rw [State.fld_tally_other _ _ (by decide) (by decide), taken]
  · rw [State.fld_tally_other _ _ (by decide) (by decide), taken]

theorem State.takeVerdict2_sch (s : State) (causes : Nat) :
    (s.takeVerdict2 causes).sch = { s.sch with verdict2 := false } := by
  unfold State.takeVerdict2
  dsimp only
  split <;> simp

theorem State.last2Valid_takeVerdict2 (s : State) (causes : Nat) :
    (s.takeVerdict2 causes).flag .rack RACK.STATUS_LAST2_VALID = Decidable.decide (causes = 0) := by
  unfold State.takeVerdict2
  extract_lets ok sch s1 s2
  obtain ⟨u, told⟩ : ∃ u : State, s2 = u.setFld .rack RACK.STATUS_LAST2_VALID ok.toNat := ⟨_, rfl⟩
  clear_value s2
  have shown : s2.flag .rack RACK.STATUS_LAST2_VALID = ok := by
    rw [told, State.flag, State.fld_setFld_same _ _ _ _ (by decide) (by decide)]
    cases ok <;> rfl
  split
  · exact shown
  · rw [State.flag, State.fld_raise_other _ _ (by decide)]
    exact shown

/-- Settles O21: a digest tick comes to `State.offerDigest`; a result in time comes to the verdict of its job, whose causes are those of
`DigestRes.judge`. -/
theorem digestsDecideTheVerdict : Obligations.DigestsDecideTheVerdict := by
  refine ⟨?tick, ?result⟩
  case tick =>
    intro s second tick hr hrun hn a
    have before : s.KeepsSch a := keepsSch_advanceTo ..
    have sch : a.sch = s.sch := State.advanceTo_sch ..
    have stepTick : s.clk.phase ≤ s.sch.startPhase + 4 * tick → a.stepTick = tick := s.stepTick_advanceTo
    have offered : exec .digestTick s = .next (a.offerDigest second) := execDigestTick_due hr hrun hn
    clear_value a
    cases second with
    | false =>
      obtain ⟨tsch, digest, digestAt, clk⟩ := a.offerDigest_primary
      refine ⟨_, offered, by rw [tsch, sch]; exact hr, clk, fun _ => ⟨by rw [tsch, sch], digest, digestAt, ?_⟩,
        fun h => Bool.noConfusion h⟩
      intro hlast hphase hst
      have last : a.stepTick = a.fld .sch SCH.LAST_DIGEST := by
        rw [stepTick hphase, before.fld _ (by decide) (by decide), hlast]
      exact State.schState_offerDigest_last last (before.schState.trans hst)
    | true =>
      obtain ⟨tsch, digest, digestAt, clk⟩ := a.offerDigest_second
      exact ⟨_, offered, by rw [tsch, sch]; exact hr, clk, fun h => Bool.noConfusion h,
        fun _ => ⟨by rw [tsch, sch], digest, digestAt, (State.schState_offerDigest_second a).trans before.schState⟩⟩
  case result =>
    intro s r rest hfirst hedge htick ok
    have decides : r.judge.1 = 0 ↔ ok := r.judge_eq_zero
    have taken : exec .digestResult s = .next ((s.atResult r rest).takeResult r) := execDigestResult_first hfirst
    rw [← s.lastDigestOf_atResult r rest] at hedge htick
    have sch := s.atResult_sch r rest
    refine ⟨fun hs hr hv => ?primary, fun hs hv => ?second⟩
    case primary =>
      obtain ⟨u, usch, hu⟩ := State.takeResult_primary hs (by rw [sch]; exact hr) (by rw [sch]; exact hv) hedge htick
      have valid : ∀ t : State, (t.takeVerdict r.judge.1).sch.valid = some (Decidable.decide (r.judge.1 = 0)) := fun t => by
        rw [t.takeVerdict_sch]
      refine ⟨_, taken.trans (congrArg _ hu), by rw [State.takeVerdict_sch, usch, sch], ?_, ?_, ?_⟩
      · rw [valid, ← decides, Option.some.injEq, decide_eq_true_iff]
      · rw [valid]; rfl
      · intro h
        rw [valid, Option.some.injEq, decide_eq_true_iff] at h
        rw [State.verdict_takeVerdict, h, Nat.zero_mod]
    case second =>
      obtain ⟨u, usch, hu⟩ := State.takeResult_second hs (by rw [sch]; exact hv) hedge htick
      refine ⟨_, taken.trans (congrArg _ hu), by rw [State.takeVerdict2_sch, usch, sch], by rw [State.takeVerdict2_sch, usch, sch],
        by rw [State.takeVerdict2_sch], ?_⟩
      rw [State.last2Valid_takeVerdict2, ← decides, decide_eq_true_iff]

end Sys2Proof.Machine
end

section
/-! PROOFS. Number formats: the integers are two's complement, a number on a format's grid rounds to itself, and so rounding gives every
code back. -/
namespace Sys2Proof.Machine

/-! Two's complement (R80). -/

theorem sgn_eq_toInt {w : Nat} (hw : 0 < w) (v : Nat) : sgn w v = (BitVec.ofNat w v).toInt := by
  have half : 2 ^ w = 2 * 2 ^ (w - 1) := by rw [← Nat.pow_succ', Nat.succ_eq_add_one, Nat.sub_add_cancel hw]
  simp only [sgn, BitVec.toInt_eq_toNat_cond, BitVec.toNat_ofNat, half, Nat.mul_lt_mul_left Nat.two_pos]

theorem unsgn_eq_toNat (w : Nat) (x : Int) : unsgn w x = (BitVec.ofInt w x).toNat := rfl

theorem unsgn_lt (w : Nat) (x : Int) : unsgn w x < 2 ^ w := by
  rw [unsgn_eq_toNat]
  exact BitVec.isLt _

theorem sgn_unsgn {w : Nat} (hw : 0 < w) {x : Int} (lo : -2 ^ (w - 1) ≤ x) (hi : x < 2 ^ (w - 1)) : sgn w (unsgn w x) = x := by
  rw [sgn_eq_toInt hw, unsgn_eq_toNat, BitVec.ofNat_toNat, BitVec.setWidth_eq, BitVec.toInt_ofInt_eq_self hw lo hi]

theorem unsgn_sgn {w : Nat} (hw : 0 < w) {c : Nat} (hc : c < 2 ^ w) : unsgn w (sgn w c) = c := by
  rw [sgn_eq_toInt hw, unsgn_eq_toNat, BitVec.ofInt_toInt, BitVec.toNat_ofNat, Nat.mod_eq_of_lt hc]

theorem neg_two_pow_le_sgn {w : Nat} (hw : 0 < w) (c : Nat) : -2 ^ (w - 1) ≤ sgn w c := by
  rw [sgn_eq_toInt hw]
  exact BitVec.le_toInt _

theorem sgn_lt_two_pow {w : Nat} (hw : 0 < w) (c : Nat) : sgn w c < 2 ^ (w - 1) := by
  rw [sgn_eq_toInt hw]
  exact BitVec.toInt_lt

/-- `unsgn` on either side of zero: a magnitude stands as itself, and a negative number as its distance below the power of two. -/
theorem unsgn_eq_ite {w : Nat} {x : Int} (lo : -2 ^ w ≤ x) (hi : x < 2 ^ w) :
    unsgn w x = if x < 0 then 2 ^ w - x.natAbs else x.natAbs := by
  have cast : ((2 ^ w : Nat) : Int) = 2 ^ w := by push_cast; rfl
  unfold unsgn
  rw [← cast] at lo hi
  split
  · rw [← Int.add_emod_right, Int.emod_eq_of_lt] <;> omega
  · rw [Int.emod_eq_of_lt] <;> omega

theorem fpInt_inj {x y e : Int} (h : fpInt x e = fpInt y e) : x = y := by
  simp only [fpInt, Fp.fin.injEq, decide_eq_decide, and_true] at h
  omega

/-! Integer formats (R80). -/

theorem isIntFmt_iff {f : Nat} : isIntFmt f = true ↔ 8 ≤ f ∧ f ≤ 11 := by
  simp [isIntFmt]

theorem fmtWidth_pos {f : Nat} (hf : f ≤ 14) : 0 < fmtWidth f := by
  have each : ∀ f < 15, 0 < fmtWidth f := by decide
  exact each f (Nat.lt_succ_of_le hf)

theorem fmtWidth_pos_of_isIntFmt {f : Nat} (h : isIntFmt f = true) : 0 < fmtWidth f :=
  fmtWidth_pos (Nat.le_trans (isIntFmt_iff.mp h).2 (by decide))

theorem floatP_of_isIntFmt {f : Nat} (h : isIntFmt f = true) : floatP f = none := by
  have each : ∀ f < 12, isIntFmt f = true → floatP f = none := by decide
  exact each f (Nat.lt_succ_of_le (isIntFmt_iff.mp h).2) h

theorem valueOf_intFmt {f : Nat} (h : isIntFmt f = true) (c : Nat) : valueOf f c = fpInt (sgn (fmtWidth f) c) 0 := by
  simp only [valueOf, floatP_of_isIntFmt h, h, if_true]

/-- Among the codes of an integer format, the one of an integer is its two's complement. -/
theorem valueOf_eq_fpInt_iff {f c : Nat} (h : isIntFmt f = true) {x : Int} (lo : -2 ^ (fmtWidth f - 1) ≤ x)
    (hi : x < 2 ^ (fmtWidth f - 1)) (hc : c < 2 ^ fmtWidth f) : valueOf f c = fpInt x 0 ↔ c = unsgn (fmtWidth f) x := by
  have hw := fmtWidth_pos_of_isIntFmt h
  rw [valueOf_intFmt h]
  constructor
  · intro same
    rw [← fpInt_inj same, unsgn_sgn hw hc]
  · rintro rfl
    rw [sgn_unsgn hw lo hi]

/-- An INT8 code of an MX block under the scale 1 (R80, R84). -/
theorem elemValue_mx_int8_one (ts : Fp) (c : Nat) : elemValue 1 fINT8 ts 0x7F c = fpInt (sgn 8 c) (-6) := by
  have one : valueOf fUE8M0 0x7F = fpOne := by decide
  have int : valueOf fINT8 c = fpInt (sgn 8 c) 0 := valueOf_intFmt rfl c
  simp [elemValue, one, int, fpOne, fpInt, Fp.mul]

/-- Settles O31: the conversions between codes and integers are those of a bit vector, each the inverse of the other. -/
theorem integersAreTwosComplement : Obligations.IntegersAreTwosComplement := by
  refine ⟨fun f w hf x lo hi => ?codes, fun ts x lo hi => ?int8⟩
  case codes =>
    have formats : ∀ q ∈ [(fINT4, 4), (fINT8, 8), (fINT16, 16), (fINT32, 32)], isIntFmt q.1 = true ∧ fmtWidth q.1 = q.2 := by decide
    obtain ⟨int, rfl⟩ : isIntFmt f = true ∧ fmtWidth f = w := formats _ hf
    have code := fun c (hc : c < 2 ^ fmtWidth f) => valueOf_eq_fpInt_iff int lo (Int.lt_of_le_sub_one hi) hc
    exact ⟨unsgn_lt _ x, (code _ (unsgn_lt _ x)).mpr rfl, fun c hc => (code c hc).mp⟩
  case int8 =>
    rw [elemValue_mx_int8_one, sgn_unsgn (by decide) lo (Int.lt_of_le_sub_one hi)]

/-! A number on the grid: it rounds to itself (R89). -/

@[simp] theorem roundEven_one (n : Nat) : roundEven n 1 = n := by
  simp [roundEven, Nat.mod_one]

@[simp] theorem scaleQ_zero (n d : Nat) : scaleQ n d 0 = (n, d) := by
  simp [scaleQ]

theorem flog2_one {n : Nat} (h : n ≠ 0) : flog2 n 1 = n.log2 := by
  have one : Nat.log2 1 = 0 := by decide
  simp [flog2, one, Nat.log2_self_le h]

/-! Rounding to an integer format. -/

/-- The magnitude of an integer of a format is within the limit of its side of zero, and encodes as the two's complement. -/
theorem intCode_natAbs {f : Nat} (hw : 0 < fmtWidth f) {x : Int} (lo : -2 ^ (fmtWidth f - 1) ≤ x) (hi : x < 2 ^ (fmtWidth f - 1)) :
    x.natAbs ≤ intLimit f (x < 0) ∧ intCode f (x < 0) x.natAbs = unsgn (fmtWidth f) x := by
  have half : (2 : Nat) ^ fmtWidth f = 2 * 2 ^ (fmtWidth f - 1) := by
    rw [← Nat.pow_succ', Nat.succ_eq_add_one, Nat.sub_add_cancel hw]
  have cast : ∀ k : Nat, ((2 ^ k : Nat) : Int) = 2 ^ k := fun k => by push_cast; rfl
  rw [← cast] at lo hi
  rw [unsgn_eq_ite (by rw [← cast]; omega) (by rw [← cast]; omega)]
  simp only [intLimit, intCode, Bool.and_eq_true, decide_eq_true_eq]
  constructor
  · split <;> omega
  · split <;> split <;> omega

theorem rneQ_intFmt {f : Nat} (h : isIntFmt f = true) (sat s : Bool) {k : Nat} (hk : k ≤ intLimit f s) :
    (rneQ f sat s k 1 0).code = intCode f s k := by
  have notT2 : f ≠ fT2 := by rintro rfl; exact Bool.noConfusion h
  simp [rneQ, floatP_of_isIntFmt h, h, notT2, scaleQ_zero, roundEven_one, Nat.not_lt.mpr hk]

theorem rne_valueOf_intFmt {f c : Nat} (h : isIntFmt f = true) (sat : Bool) (hc : c < 2 ^ fmtWidth f) :
    (rne f sat (valueOf f c)).code = c := by
  have hw := fmtWidth_pos_of_isIntFmt h
  obtain ⟨limit, code⟩ := intCode_natAbs hw (neg_two_pow_le_sgn hw c) (sgn_lt_two_pow hw c)
  rw [unsgn_sgn hw hc] at code
  rw [valueOf_intFmt h, fpInt, rne]
  split
  · next zero =>
    rw [zero] at code
    simpa [zeroResult, floatP_of_isIntFmt h, intCode] using code
  · rw [rneQ_intFmt h sat _ limit, code]

/-! The grid of a float format (R77). -/

/-- The significand of the magnitude bits `a`: a leading one, unless subnormal. -/
def FloatP.sig (p : FloatP) (a : Nat) : Nat := if a / 2 ^ p.m = 0 then a % 2 ^ p.m else 2 ^ p.m + a % 2 ^ p.m

/-- The power of two that counts the significand of the magnitude bits `a`. -/
def FloatP.ulp (p : FloatP) (a : Nat) : Int := (a / 2 ^ p.m - 1 : Nat) + (1 - (p.b : Int) - p.m)

/-- The magnitude bits are so many whole binades above the first, and the significand. -/
theorem FloatP.binades_add_sig (p : FloatP) (a : Nat) : (a / 2 ^ p.m - 1) * 2 ^ p.m + p.sig a = a := by
  have split := Nat.div_add_mod' a (2 ^ p.m)
  unfold FloatP.sig
  split
  · next sub => rw [sub] at split ⊢; simpa using split
  · next normal =>
    rw [← Nat.add_assoc, ← Nat.succ_mul, Nat.succ_eq_add_one, Nat.sub_add_cancel (Nat.pos_of_ne_zero normal), split]

theorem FloatP.eq_zero_of_sig_eq_zero {p : FloatP} {a : Nat} (h : p.sig a = 0) : a = 0 := by
  have sum := p.binades_add_sig a
  have pos := Nat.two_pow_pos p.m
  have sub : a / 2 ^ p.m = 0 := by
    by_cases sub : a / 2 ^ p.m = 0
    · exact sub
    · rw [FloatP.sig, if_neg sub] at h
      omega
  rw [h, sub, Nat.zero_sub, Nat.zero_mul] at sum
  exact sum.symm

/-- The binade of a decoded magnitude, counted as R89 counts it. -/
theorem FloatP.binade_sig (p : FloatP) {a : Nat} (h : p.sig a ≠ 0) :
    (flog2 (p.sig a) 1 + p.ulp a - (1 - (p.b : Int))).toNat = a / 2 ^ p.m - 1 := by
  have low := Nat.mod_lt a (Nat.two_pow_pos p.m)
  rw [flog2_one h]
  by_cases sub : a / 2 ^ p.m = 0
  · have below : (p.sig a).log2 < p.m := (Nat.log2_lt h).mpr (by rwa [FloatP.sig, if_pos sub])
    simp only [FloatP.ulp, sub]
    omega
  · have top : (p.sig a).log2 = p.m := by
      rw [Nat.log2_eq_iff h, FloatP.sig, if_neg sub, Nat.pow_succ]
      omega
    simp only [FloatP.ulp, top]
    omega

/-- A decoded magnitude is a whole number of units of its binade. -/
theorem FloatP.scaleQ_sig (p : FloatP) (a : Nat) :
    scaleQ (p.sig a) 1 (p.ulp a - (1 - (p.b : Int) - p.m) - (a / 2 ^ p.m - 1 : Nat)) = (p.sig a, 1) := by
  rw [FloatP.ulp, Int.add_sub_cancel, Int.sub_self, scaleQ_zero]

theorem gridCode_sig (p : FloatP) {a : Nat} (h : p.sig a ≠ 0) : gridCode p (p.sig a) 1 (p.ulp a) = a := by
  simp only [gridCode, p.binade_sig h, p.scaleQ_sig, roundEven_one, p.binades_add_sig]

/-! Rounding to a float format. -/

theorem exists_floatP {f : Nat} (hf : f ≤ 7) : ∃ p, floatP f = some p := by
  have each : ∀ f < 8, (floatP f).isSome = true := by decide
  exact Option.isSome_iff_exists.mp (each f (Nat.lt_succ_of_le hf))

/-- A code is its top bit and the others. -/
theorem signBit_add_mod {f c : Nat} (hw : 0 < fmtWidth f) (hc : c < 2 ^ fmtWidth f) :
    signBit f (bitOf c (fmtWidth f - 1)) + c % 2 ^ (fmtWidth f - 1) = c := by
  have half : (2 : Nat) ^ fmtWidth f = 2 ^ (fmtWidth f - 1) * 2 := by rw [← Nat.pow_succ, Nat.succ_eq_add_one, Nat.sub_add_cancel hw]
  have top : c / 2 ^ (fmtWidth f - 1) < 2 := Nat.div_lt_of_lt_mul (half ▸ hc)
  have split := Nat.div_add_mod' c (2 ^ (fmtWidth f - 1))
  unfold signBit bitOf
  generalize c / 2 ^ (fmtWidth f - 1) = b at top split
  obtain rfl | rfl : b = 0 ∨ b = 1 := by omega
  · rwa [Nat.zero_mul] at split
  · rwa [Nat.one_mul] at split

/-- A finite code of a float format: a sign, and magnitude bits up to the largest finite code's. -/
theorem valueOf_floatFmt {f c : Nat} (hf : f ≤ 7) (hc : c < 2 ^ fmtWidth f) (fin : (valueOf f c).isFin = true) :
    ∃ p s a, floatP f = some p ∧ a ≤ p.maxCode ∧ signBit f s + a = c ∧ valueOf f c = .fin s (p.sig a) (p.ulp a) := by
  obtain ⟨p, h⟩ := exists_floatP hf
  have whole := signBit_add_mod (fmtWidth_pos (Nat.le_trans hf (by decide))) hc
  simp only [valueOf, h] at fin ⊢
  generalize c % 2 ^ (fmtWidth f - 1) = a at whole fin ⊢
  by_cases big : a > p.maxCode
  · rw [if_pos big] at fin
    split at fin <;> exact Bool.noConfusion fin
  · refine ⟨p, _, a, rfl, Nat.not_lt.mp big, whole, ?_⟩
    rw [if_neg big, FloatP.sig, FloatP.ulp]
    generalize a / 2 ^ p.m = e
    by_cases sub : e = 0
    · simp [sub]
    · simp only [if_neg sub, Fp.fin.injEq, true_and]
      omega

section
variable {f a : Nat} {p : FloatP} (h : floatP f = some p)
include h

theorem zeroResult_sig (s : Bool) (zero : p.sig a = 0) : (zeroResult f s).code = signBit f s + a := by
  simp [zeroResult, h, FloatP.eq_zero_of_sig_eq_zero zero]

theorem rneQ_sig (sat s : Bool) (inRange : a ≤ p.maxCode) (nonzero : p.sig a ≠ 0) :
    (rneQ f sat s (p.sig a) 1 (p.ulp a)).code = signBit f s + a := by
  simp only [rneQ, h, gridCode_sig p nonzero, if_neg (Nat.not_lt.mpr inRange)]

/-- Nothing is left over on the grid, so no random number is below it (R94). -/
theorem srQ_sig (s : Bool) (r : Nat) (inRange : a ≤ p.maxCode) (nonzero : p.sig a ≠ 0) :
    (srQ f s (p.sig a) 1 (p.ulp a) r).code = signBit f s + a := by
  simp [srQ, h, p.binade_sig nonzero, p.scaleQ_sig, p.binades_add_sig, Nat.mod_one, Nat.not_lt.mpr inRange]

end

theorem rne_valueOf_floatFmt {f c : Nat} (hf : f ≤ 7) (sat : Bool) (hc : c < 2 ^ fmtWidth f) (fin : (valueOf f c).isFin = true) :
    (rne f sat (valueOf f c)).code = c := by
  obtain ⟨p, s, a, h, inRange, rfl, value⟩ := valueOf_floatFmt hf hc fin
  rw [value, rne]
  split
  · next zero => exact zeroResult_sig h s zero
  · next nonzero => exact rneQ_sig h sat s inRange nonzero

theorem sr_valueOf_floatFmt {f c : Nat} (hf : f ≤ 7) (r : Nat) (hc : c < 2 ^ fmtWidth f) (fin : (valueOf f c).isFin = true) :
    (sr f (valueOf f c) r).code = c := by
  obtain ⟨p, s, a, h, inRange, rfl, value⟩ := valueOf_floatFmt hf hc fin
  simp only [value, sr]
  split
  · next zero => exact zeroResult_sig h s zero
  · next nonzero => exact srQ_sig h s r inRange nonzero

/-! T2 (R81, R92) and the formats of block scales (R82). -/

theorem rne_valueOf_t2 (sat : Bool) {c : Nat} (hc : c < 4) (h : c ≠ 2) : (rne fT2 sat (valueOf fT2 c)).code = c := by
  have each : ∀ c < 4, c ≠ 2 → (rne fT2 sat (valueOf fT2 c)).code = c := by revert sat; decide
  exact each c hc h

theorem overflowResult_t2_ne_two (s sat : Bool) : (overflowResult fT2 s sat).code ≠ 2 := by
  revert s sat; decide

theorem rneQ_t2_ne_two (sat s : Bool) (n d : Nat) (e : Int) : (rneQ fT2 sat s n d e).code ≠ 2 := by
  have code : (rneQ fT2 sat s n d e).code =
      if roundEven (scaleQ n d e).1 (scaleQ n d e).2 > 1 then (overflowResult fT2 s sat).code
      else if roundEven (scaleQ n d e).1 (scaleQ n d e).2 = 0 then 0 else if s then 3 else 1 := by
    show Conv.code (if _ then _ else _) = _
    split <;> rfl
  rw [code]
  split
  · exact overflowResult_t2_ne_two s sat
  · split
    · decide
    · cases s <;> decide

/-- Rounding into T2 writes the codes of 0, +1 and -1 alone (R81, R90, R91). -/
theorem rne_t2_ne_two (sat : Bool) : ∀ x : Fp, (rne fT2 sat x).code ≠ 2
  | .nan => Nat.zero_ne_add_one 1
  | .inf s => overflowResult_t2_ne_two s sat
  | .fin s m e => by
    rw [rne]
    split
    · exact Nat.zero_ne_add_one 1
    · exact rneQ_t2_ne_two sat s m 1 e

theorem rneQ_ue8m0 (sat : Bool) {c : Nat} (hc : c ≤ 254) : (rneQ fUE8M0 sat false 1 1 ((c : Int) - 127)).code = c := by
  have log : flog2 1 1 = 0 := by decide
  have inRange : ¬ (254 < (c : Int)) := by omega
  have nonneg : ¬ ((c : Int) < 0) := by omega
  simp [rneQ, floatP, isIntFmt, fUE8M0, fT2, log, inRange, nonneg]

/-- A value of UE6M2 is a number of quarters from 4 to 7 of its power of two. -/
theorem rneQ_ue6m2 (sat : Bool) {c : Nat} (hc : c ≤ 254) :
    (rneQ fUE6M2 sat false (4 + c % 4) 1 ((c / 4 : Nat) - 34)).code = c := by
  have nonzero : 4 + c % 4 ≠ 0 := by omega
  have log2 : (4 + c % 4).log2 = 2 := (Nat.log2_eq_iff nonzero).mpr ⟨by omega, by omega⟩
  have log : flog2 (4 + c % 4) 1 = 2 := by rw [flog2_one nonzero, log2]; rfl
  have unit : ((c / 4 : Nat) - 34 : Int) - (2 + ((c / 4 : Nat) - 34)) + 2 = 0 := by omega
  have code : (2 + ((c / 4 : Nat) - 34 : Int) + 32) * 4 + ((4 + c % 4 : Nat) - 4) = c := by omega
  have inRange : ¬ (254 < (c : Int)) := by omega
  have nonneg : ¬ ((c : Int) < 0) := by omega
  simp only [rneQ, floatP, isIntFmt, fUE8M0, fUE6M2, fT2, log, unit, scaleQ_zero, roundEven_one, code]
  simp [inRange, nonneg]

theorem rne_valueOf_ue8m0 (sat : Bool) {c : Nat} (hc : c < 256) (fin : (valueOf fUE8M0 c).isFin = true) :
    (rne fUE8M0 sat (valueOf fUE8M0 c)).code = c := by
  have notNan : c ≠ 255 := by rintro rfl; exact Bool.noConfusion fin
  have value : valueOf fUE8M0 c = .fin false 1 ((c : Int) - 127) := by
    simp [valueOf, floatP, isIntFmt, fUE8M0, fT2, Nat.mod_eq_of_lt hc, notNan]
  rw [value, rne, if_neg Nat.one_ne_zero, rneQ_ue8m0 sat (by omega)]

theorem rne_valueOf_ue6m2 (sat : Bool) {c : Nat} (hc : c < 256) (fin : (valueOf fUE6M2 c).isFin = true) :
    (rne fUE6M2 sat (valueOf fUE6M2 c)).code = c := by
  have notNan : c ≠ 255 := by rintro rfl; exact Bool.noConfusion fin
  have value : valueOf fUE6M2 c = .fin false (4 + c % 4) ((c / 4 : Nat) - 34) := by
    simp [valueOf, floatP, isIntFmt, fUE8M0, fUE6M2, fT2, Nat.mod_eq_of_lt hc, notNan]
  rw [value, rne, if_neg (by omega), rneQ_ue6m2 sat (by omega)]

/-- Settles O32: a code's value is on the grid of its format, so that nothing is left to round, up or down. -/
theorem roundingKeepsCodes : Obligations.RoundingKeepsCodes := by
  refine ⟨fun f c sat hf hc reserved fin => ?rne, fun f c r hf hc fin => ?sr, rfl, fun x sat => rne_t2_ne_two sat x⟩
  case rne =>
    obtain float | int | rfl | rfl | rfl : f ≤ 7 ∨ 8 ≤ f ∧ f ≤ 11 ∨ f = fT2 ∨ f = fUE8M0 ∨ f = fUE6M2 := by
      unfold fT2 fUE8M0 fUE6M2; omega
    · exact rne_valueOf_floatFmt float sat hc fin
    · exact rne_valueOf_intFmt (isIntFmt_iff.mpr int) sat hc
    · exact rne_valueOf_t2 sat hc (reserved rfl)
    · exact rne_valueOf_ue8m0 sat hc fin
    · exact rne_valueOf_ue6m2 sat hc fin
  case sr => exact sr_valueOf_floatFmt hf r hc fin

end Sys2Proof.Machine
end

section
/-! PROOFS. What a schedule fault of a tile and the POISON of its outputs leave alone: the tiles, the memories, and the registers of
every page but those that record them. -/
namespace Sys2Proof.Machine

/-! Registers of other pages (R415, R416). -/

theorem State.fld_setFld_otherPage (s : State) {p q : Page} {g f : Fld} (v : Nat) (h : q ≠ p) (hf : f.off < 0x1000)
    (hg : g.off < 0x1000) : (s.setFld p g v).fld q f = s.fld q f :=
  State.fld_setFld_otherReg s v (fldAddr_ne h hf hg)

theorem State.fld_raise_otherPage (s : State) {p q : Page} {f : Fld} (b : Nat) (h : q ≠ p) (hf : f.off < 0x1000) :
    (s.raise p b).fld q f = s.fld q f :=
  State.fld_of_reg (State.reg_raise_other s b (fldAddr_ne h hf (by decide)) (fldAddr_ne h hf (by decide))
    (fldAddr_ne h hf (by decide)))

theorem State.fld_tally_otherPage (s : State) {p q : Page} {c f : Fld} (b : Nat) (h : q ≠ p) (hf : f.off < 0x1000)
    (hc : c.off < 0x1000) : (s.tally p c b).fld q f = s.fld q f :=
  (State.fld_raise_otherPage _ b h hf).trans (State.fld_setFld_otherPage s _ h hf hc)

/-! Faults (R70, R72, R402). -/

theorem State.fld_invalid_otherPage (s : State) {q : Page} {f : Fld} (second : Bool) (c : Cause) (h : q ≠ .bst)
    (hf : f.off < 0x1000) : (s.invalid second c).fld q f = s.fld q f := by
  rw [State.invalid, State.fld_tally_otherPage _ _ h hf (by decide)]
  exact State.fld_of_reg (by simp only [State.reg, State.setCause_regs])

theorem State.fld_carveEvent_otherPage (s : State) {q : Page} {f : Fld} (second : Bool) (h : q ≠ .rack) (hf : f.off < 0x1000) :
    (s.carveEvent second).fld q f = s.fld q f := by
  unfold State.carveEvent
  split <;> exact State.fld_tally_otherPage _ _ h hf (by decide)

/-- A schedule fault is recorded in the pages SCH, BST and RACK and in no other. -/
theorem State.fld_schedFault_otherPage (s : State) {q : Page} {f : Fld} (second : Bool) (x : SFault) (w : FaultAt)
    (h : q ∉ [.sch, .bst, .rack]) (hf : f.off < 0x1000) : (s.schedFault second x w).fld q f = s.fld q f := by
  simp only [List.mem_cons, List.not_mem_nil, or_false, not_or] at h
  obtain ⟨sch, bst, rack⟩ := h
  unfold State.schedFault
  extract_lets s0 s1 s2
  have carved : s0.fld q f = s.fld q f := by
    simp only [s0]
    split
    · exact s.fld_carveEvent_otherPage second rack hf
    · rfl
  have counted : s1.fld q f = s0.fld q f := by
    simp only [s1]
    split <;> exact State.fld_tally_otherPage _ _ sch hf (by decide)
  have recorded : s2.fld q f = s1.fld q f := by
    simp only [s2]
    split
    · rfl
    · exact (State.fld_setFld_otherPage (g := SCH.FAULT_TIME) _ _ sch hf (by decide)).trans
        (State.fld_setFld_otherPage (g := SCH.FAULT_FIRST) _ _ sch hf (by decide))
  rw [State.fld_invalid_otherPage _ _ _ bst hf, recorded, counted, carved]

/-- What a schedule fault gives, and events and records of the tile's TCTL page keep, a fault of a tile instruction gives (R70, R124). -/
theorem State.tileFault_of {P : State → Prop} {s : State} {i : TileIssue} {x : SFault} (u : Unit_)
    (fault : ∀ second w, P (s.schedFault second x w)) (event : ∀ t c b, c.off < 0x1000 → P t → P (t.tally (.tctl i.tile) c b))
    (record : ∀ t v, P t → P (t.setFld (.tctl i.tile) TCTL.FAULT_FIRST v)) : P (s.tileFault i u x) := by
  unfold State.tileFault
  extract_lets p s1 s2
  have counted : P s2 := by
    simp only [s2]
    split <;> exact event _ _ _ (by decide) (fault _ _)
  split
  · exact counted
  · exact record _ _ counted

@[simp] theorem State.tileFault_tiles (s : State) (i : TileIssue) (u : Unit_) (x : SFault) : (s.tileFault i u x).tiles = s.tiles :=
  State.tileFault_of (P := fun t => t.tiles = s.tiles) u (fun _ _ => State.schedFault_tiles _ _ _ _)
    (fun _ _ _ _ h => (State.tally_tiles _ _ _ _).trans h) (fun _ _ h => (State.setFld_tiles _ _ _ _).trans h)

@[simp] theorem State.tileFault_mem (s : State) (i : TileIssue) (u : Unit_) (x : SFault) : (s.tileFault i u x).mem = s.mem :=
  State.tileFault_of (P := fun t => t.mem = s.mem) u (fun _ _ => State.schedFault_mem _ _ _ _)
    (fun _ _ _ _ h => (State.tally_mem _ _ _ _).trans h) (fun _ _ h => (State.setFld_mem _ _ _ _).trans h)

/-- A fault of a tile instruction is recorded in the tile's TCTL page and where every schedule fault is. -/
theorem State.fld_tileFault_otherPage (s : State) {q : Page} {f : Fld} (i : TileIssue) (u : Unit_) (x : SFault)
    (h : q ∉ [.sch, .bst, .rack]) (tctl : q ≠ .tctl i.tile) (hf : f.off < 0x1000) : (s.tileFault i u x).fld q f = s.fld q f :=
  State.tileFault_of (P := fun t => t.fld q f = s.fld q f) u (fun _ _ => s.fld_schedFault_otherPage _ _ _ h hf)
    (fun _ _ _ hc ht => (State.fld_tally_otherPage _ _ tctl hf hc).trans ht)
    (fun _ _ ht => (State.fld_setFld_otherPage _ _ tctl hf (by decide)).trans ht)

/-! POISON of an instruction's outputs (R71, R124). -/

@[simp] theorem State.poisonOut_tiles (s : State) (i : TileIssue) : (s.poisonOut i).tiles = s.tiles := by
  unfold State.poisonOut State.poisoned; split <;> simp
@[simp] theorem State.poisonOut_mem (s : State) (i : TileIssue) : (s.poisonOut i).mem = s.mem := by
  unfold State.poisonOut State.poisoned; split <;> simp

theorem State.fld_poisonOut_otherPage (s : State) {q : Page} {f : Fld} (i : TileIssue) (bst : q ≠ .bst) (tctl : q ≠ .tctl i.tile)
    (hf : f.off < 0x1000) : (s.poisonOut i).fld q f = s.fld q f := by
  rw [State.poisonOut, State.fld_tally_otherPage _ _ tctl hf (by decide)]
  unfold State.poisoned
  split
  · exact s.fld_invalid_otherPage _ _ bst hf
  · rfl

/-- The bit of an event that is raised reads set (R412). -/
theorem State.bitOf_raise_event (s : State) (p : Page) {b : Nat} (hb : b < 64) : bitOf ((s.raise p b).fld p COM.EVENT) b = true := by
  rw [State.fld_raise_event _ _ hb, bitOf_eq_testBit, Nat.testBit_or, Nat.testBit_two_pow_self, Bool.or_true]

end Sys2Proof.Machine
end

section
/-! PROOFS. The tensor array: its stationary buffers, the load that found no room, and the statement of its instructions. -/
namespace Sys2Proof.Machine

theorem State.arr_of_tiles {s u : State} (h : u.tiles = s.tiles) (t : Fin 128) : u.arr t = s.arr t := by
  simp only [State.arr, h]

@[simp] theorem State.arr_setArr (s : State) (t : Fin 128) (a : ArrSt) : (s.setArr t a).arr t = a := smGet_smSet_same _ _ _ _

/-! SHADOW_COLLISION (R100). -/

/-- The load of a block, as the fault that suppresses it names it. -/
def Block.loadIssue (b : Block) (t : Fin 128) (start : Phase) : TileIssue :=
  ⟨t, b.stream, ⟨0, BitVec.ofNat 32 ((b.issuedAt - start) / 4), b.desc, 0, 0, 0, 0, 0, false, false, false, 0, false, false, none⟩, 0⟩

/-- The buffers with the incoming block gone and the block held marked POISON, and SHADOW_COLLISION raised. -/
def State.collided (s : State) (t : Fin 128) (h : Block) : State :=
  (s.setArr t { s.arr t with held := some { h with poison := true }, incoming := none }).raise (.tarr t) TARR.EV_SHADOW_COLLISION

/-- A load past L + 8 whose shadow no SWAP stream has taken is suppressed, under a UNIT_COLLISION of its own. -/
theorem shadowCollide_late {s : State} {t : Fin 128} {h b : Block} (hreg : s.sch.regime = .timed) (hheld : (s.arr t).held = some h)
    (hin : (s.arr t).incoming = some b) (late : b.issuedAt + 8 * s.aclk t < s.clk.phase) :
    shadowCollide t s = ((s.collided t h).tileFault (b.loadIssue t s.sch.startPhase) .arrLoad .unitCollision).poisonOut
      (b.loadIssue t s.sch.startPhase) := by
  have collides : (s.sch.regime = .timed && s.clk.phase > b.issuedAt + 8 * s.aclk t) = true := by simp [hreg, late]
  simp only [shadowCollide, hheld, hin, collides, if_true, State.collided, Block.loadIssue]

theorem State.arr_collided (s : State) (t : Fin 128) (h : Block) :
    (s.collided t h).arr t = { s.arr t with held := some { h with poison := true }, incoming := none } :=
  (State.arr_of_tiles (State.raise_tiles _ _ _) t).trans (State.arr_setArr s t _)

theorem State.mem_collided (s : State) (t : Fin 128) (h : Block) : (s.collided t h).mem = s.mem := State.raise_mem _ _ _

theorem State.spad_collided (s : State) (t : Fin 128) (h : Block) : (s.collided t h).tiles.spad = s.tiles.spad := by
  rw [State.collided, State.raise_tiles]
  rfl

/-- The fault of an instruction and the POISON of its outputs leave the events of the array's page. -/
theorem State.event_tileFault_poisonOut (s : State) (t : Fin 128) (i : TileIssue) (u : Unit_) (x : SFault) :
    ((s.tileFault i u x).poisonOut i).fld (.tarr t) COM.EVENT = s.fld (.tarr t) COM.EVENT := by
  have bst : Page.tarr t ≠ .bst := nofun
  have tctl : Page.tarr t ≠ .tctl i.tile := nofun
  rw [State.fld_poisonOut_otherPage _ i bst tctl (by decide), State.fld_tileFault_otherPage s i u x (by simp) tctl (by decide)]

/-- Settles O27: a load and a stream meet the array at `State.arrayAt`, a drain its tile's state; a clean issue then launches its job
(`issueJob_clean`).  A suppressed load's fault and POISON are recorded in pages other than the array's. -/
theorem arrayRowsComplete : Obligations.ArrayRowsComplete := by
  refine ⟨fun i s clean => ?load, fun i s t ht clean => ?stream, fun i s clean => ?drain,
    fun t s h b hreg hheld hin late => ?collision⟩
  case load => exact congrArg Host.Outcome.next (issueJob_clean clean)
  case stream =>
    subst ht
    exact congrArg Host.Outcome.next (issueJob_clean clean)
  case drain => exact congrArg Host.Outcome.next (issueJob_clean clean)
  case collision =>
    refine ⟨_, congrArg Host.Outcome.next (shadowCollide_late hreg hheld hin late), ?_⟩
    generalize b.loadIssue t s.sch.startPhase = i
    rw [State.arr_of_tiles ((State.poisonOut_tiles _ i).trans (State.tileFault_tiles _ i _ _)), State.arr_collided,
      State.event_tileFault_poisonOut, State.poisonOut_mem, State.tileFault_mem, State.poisonOut_tiles, State.tileFault_tiles]
    exact ⟨rfl, rfl, rfl, State.bitOf_raise_event _ _ (by decide), s.mem_collided t h, s.spad_collided t h⟩

end Sys2Proof.Machine
end

section
/-! PROOFS. What time leaves alone as it goes on: the registers of every page but those of the HBM controllers, which count what is
written there. -/
namespace Sys2Proof.Machine

section
variable {p : Page} {f : Fld}

/-- A write to HBM is counted in the pages of the controllers and in no other (R324, R329). -/
theorem State.fld_storePhys_otherPage (s : State) (h : ∀ k, p ≠ .mem k) (hf : f.off < 0x1000) (g : Nat)
    (ps : List (Nat × List Byte)) (poison : Bool) : (s.storePhys g ps poison).fld p f = s.fld p f := by
  have counted : ∀ (t : State) (c : Fld), c.off < 0x1000 → (t.count (memPage (granStack g)) c).fld p f = t.fld p f :=
    fun t _ hc => State.fld_setFld_otherPage t _ (h _) hf hc
  have marked : ∀ t : State, (if poison then t.count (memPage (granStack g)) MEM.POISON_WR_CNT else t).fld p f = t.fld p f := by
    intro t
    split
    · exact counted t _ (by decide)
    · rfl
  exact (marked _).trans (counted s _ (by decide))

theorem State.regs_spadWrite (s : State) (t : Fin 128) (poison : Bool) (a : Nat) (data : List Byte) :
    (s.spadWrite t poison a data).regs = s.regs := by
  unfold State.spadWrite
  generalize linesOf (a, data.length) = ls
  induction ls generalizing s with
  | nil => rfl
  | cons l ls ih =>
    rw [List.foldl_cons, ih]
    split <;> rfl

theorem State.fld_apply_otherPage (s : State) (h : ∀ k, p ≠ .mem k) (hf : f.off < 0x1000) (d : DueAct) :
    (d.apply s).fld p f = s.fld p f := by
  cases d with
  | hbm g ps poison => exact s.fld_storePhys_otherPage h hf g ps poison
  | spad t a data poison => exact State.fld_of_reg (by simp only [DueAct.apply, State.reg, State.regs_spadWrite])
  | fetch t a g late till => rfl
  | cell t a n late shift x => rfl
  | reopen out => rfl

theorem State.fld_settleDue_otherPage (s : State) (h : ∀ k, p ≠ .mem k) (hf : f.off < 0x1000) (n : Nat) (t : Phase) :
    (State.settleDue n t s).fld p f = s.fld p f := by
  induction n generalizing s with
  | zero => rfl
  | succ n ih =>
    unfold State.settleDue
    split
    · rfl
    · split
      · exact (ih _).trans (State.fld_apply_otherPage _ h hf _)
      · rfl

/-- As time goes on the controllers of HBM count, and every other page keeps its registers. -/
theorem State.fld_advanceTo_otherPage (s : State) (h : ∀ k, p ≠ .mem k) (hf : f.off < 0x1000) (t : Phase) :
    (s.advanceTo t).fld p f = s.fld p f := s.fld_settleDue_otherPage h hf _ t

end

end Sys2Proof.Machine
end

section
/-! PROOFS. The cooperage: what a cycle takes and keeps, the search for a buffer, the answers to a request and what a release does, and
the statement of allocations and releases. -/
namespace Sys2Proof.Machine

/-! Registers of the page. -/

/-- A counter of 64 bits that is counted (R413). -/
theorem State.fld_count_64 (s : State) {p : Page} {c : Fld} (hlo : c.lo = 0) (hhi : c.hi = 63) :
    (s.count p c).fld p c = min (s.fld p c + 1) (2 ^ 64 - 1) := by
  rw [State.fld_count_same _ _ _ (by omega) (by omega), hlo, hhi]

theorem State.fld_setFld_otherOff (s : State) {p : Page} {f g : Fld} (v : Nat) (h : g.off ≠ f.off) :
    (s.setFld p f v).fld p g = s.fld p g :=
  State.fld_setFld_otherReg s v fun e => h (Nat.add_left_cancel e)

theorem State.fld_countN_other (s : State) {p : Page} {f g : Fld} (n : Nat) (h : g.off ≠ f.off) :
    (s.countN p f n).fld p g = s.fld p g := s.fld_setFld_otherOff _ h

theorem State.fld_count_other (s : State) {p : Page} {f g : Fld} (h : g.off ≠ f.off) :
    (s.count p f).fld p g = s.fld p g := s.fld_setFld_otherOff _ h

/-- The counters of the page lie below the registers of the pools, whichever pool (R205). -/
theorem State.fld_poolLow_counter (s : State) (n : Nat) (q : Pool) (fresh : Bool) {g : Fld} (h : g.off < 0x210) :
    (s.poolLow n q fresh).fld .coop g = s.fld .coop g :=
  s.fld_setFld_otherOff _ (by simp only [COOP.POOL_LOW]; omega)

/-! Failures (R197). -/

/-- The failures of a pool are counted above the counters of the page, whichever pool. -/
theorem State.fld_poolFail_counter (s : State) (n : Nat) (b : Bool) {g : Fld} (h : g.off < 0x210) :
    (if b then s.count .coop (COOP.POOL_FAIL n) else s).fld .coop g = s.fld .coop g := by
  split
  · exact s.fld_count_other (by simp only [COOP.POOL_FAIL]; omega)
  · rfl

theorem State.fld_allocFails_other (s : State) (n : Nat) {g : Fld} (h : g.off < 0x210) (hf : g.off ≠ COOP.FAIL_CNT.off) :
    (s.allocFails n).fld .coop g = s.fld .coop g :=
  (State.fld_count_other _ hf).trans (s.fld_poolFail_counter n _ h)

theorem State.fld_allocFails_fail (s : State) (n : Nat) :
    (s.allocFails n).fld .coop COOP.FAIL_CNT = min (s.fld .coop COOP.FAIL_CNT + 1) (2 ^ 64 - 1) := by
  rw [State.allocFails, State.fld_count_64 _ rfl rfl, s.fld_poolFail_counter n _ (by decide)]

@[simp] theorem State.allocFails_clk (s : State) (n : Nat) : (s.allocFails n).clk = s.clk := by
  unfold State.allocFails; split <;> rfl
@[simp] theorem State.allocFails_coop (s : State) (n : Nat) : (s.allocFails n).coop = s.coop := by
  unfold State.allocFails; split <;> rfl
@[simp] theorem State.allocFails_out (s : State) (n : Nat) : (s.allocFails n).out = s.out := by
  unfold State.allocFails; split <;> rfl

/-! Buffers. -/

@[simp] theorem State.buf_setBuf_same (s : State) (id : Nat) (b : Buf) : (s.setBuf id b).buf id = b := smGet_smSet_same _ _ _ _

theorem State.buf_setBuf_other (s : State) {id j : Nat} (b : Buf) (h : j ≠ id) : (s.setBuf id b).buf j = s.buf j :=
  smGet_smSet_other _ _ _ _ h

theorem State.buf_of_bufs {s t : State} (h : t.coop.bufs = s.coop.bufs) (j : Nat) : t.buf j = s.buf j := by
  simp only [State.buf, h]

@[simp] theorem State.buf_freeBuffer_same (s : State) (id : Nat) : (s.freeBuffer id).buf id = Buf.initial :=
  s.buf_setBuf_same id Buf.initial

theorem State.buf_freeBuffer_other (s : State) {id j : Nat} (h : j ≠ id) : (s.freeBuffer id).buf j = s.buf j :=
  s.buf_setBuf_other Buf.initial h

@[simp] theorem State.buf_poolLow (s : State) (n : Nat) (q : Pool) (fresh : Bool) (id : Nat) :
    (s.poolLow n q fresh).buf id = s.buf id :=
  State.buf_of_bufs (congrArg Coop.bufs (State.setFld_coop s .coop ..)) id

/-! The search (R195, R201). -/

/-- The free buffer of a class is not live, and each of the class before it is live or was freed in this cycle. -/
theorem State.freeBuf_eq_some {s : State} {p : Pool} {c id : Nat} (h : s.freeBuf p c = some id) :
    (s.buf id).live = false ∧ ∀ j, p.classBase c ≤ j → j < id → (s.buf j).live = true ∨ s.coop.freed.contains j = true := by
  rw [State.freeBuf, List.find?_map, Option.map_eq_some_iff] at h
  obtain ⟨i, hi, rfl⟩ := h
  obtain ⟨free, -, before⟩ := List.find?_range_eq_some.mp hi
  refine ⟨?_, fun j hj hlt => ?_⟩
  · simp only [Function.comp_apply, Bool.and_eq_true, Bool.not_eq_true'] at free
    exact free.1
  · have taken := before (j - p.classBase c) (by omega)
    rw [Function.comp_apply, Nat.add_sub_cancel' hj] at taken
    cases hl : (s.buf j).live with
    | true => exact .inl rfl
    | false => exact .inr (by simpa [hl] using taken)

/-- A search takes its buffer from the class that its steps lead to. -/
theorem State.search_found {s : State} {p : Pool} {fuel c k id steps : Nat} (h : s.search p fuel c k = (some id, steps)) :
    ∃ j, steps = k + j ∧ s.freeBuf p (c + j) = some id := by
  induction fuel generalizing c k with
  | zero => simp [State.search] at h
  | succ fuel ih =>
    unfold State.search at h
    split at h
    · next found =>
      cases h
      exact ⟨0, rfl, found⟩
    · split at h
      · cases h
      · obtain ⟨j, hj, found⟩ := ih h
        exact ⟨j + 1, by omega, by rwa [show c + (j + 1) = c + 1 + j by omega]⟩

/-! A request that a port takes (R195 to R198). -/

/-- The state with one request more taken in its cycle. -/
def State.taking (s : State) : State := { s with coop := { s.coop with accepted := s.coop.accepted + 1 } }

theorem State.search_taking (s : State) (p : Pool) (fuel c k : Nat) : s.taking.search p fuel c k = s.search p fuel c k := by
  induction fuel generalizing c k with
  | zero => rfl
  | succ fuel ih =>
    simp only [State.search, ih]
    rfl

section
variable {s : State} {n size : Nat} {init : BitVec 16}

/-- The ninth request of a cycle. -/
theorem State.accept_full (h : 8 ≤ s.coop.accepted) :
    s.accept n size init = ((none, 14), (s.tally .coop COOP.PORT_LIMIT_CNT COOP.EV_PORT_LIMIT).allocFails n) := if_pos h

theorem State.accept_bad (h : s.coop.accepted < 8) (bad : reqBad (s.pool n) size init = true) :
    s.accept n size init = ((none, 14), (s.taking.tally .coop COOP.REQ_BAD_CNT COOP.EV_REQ_BAD).allocFails n) :=
  (if_neg (Nat.not_le.mpr h)).trans (if_pos bad)

section
variable {q : Pool} (h : s.coop.accepted < 8) (hq : s.pool n = some q) (ok : reqBad (some q) size init = false)
include h hq ok

theorem State.accept_none {steps : Nat} (search : s.search q 6 (classFor size) 0 = (none, steps)) :
    s.accept n size init = ((none, 14), ((s.taking.countN .coop COOP.FALLBACK_CNT steps).allocFails n).raise .coop
      COOP.EV_ALLOC_FAIL) := by
  have pool : s.taking.pool n = some q := hq
  have found := (s.search_taking q 6 (classFor size) 0).trans search
  unfold State.accept
  rw [if_neg (Nat.not_le.mpr h)]
  simp only [State.taking] at pool found ⊢
  simp only [pool, ok, found, Bool.false_eq_true, if_false]

theorem State.accept_some {id steps : Nat} (search : s.search q 6 (classFor size) 0 = (some id, steps)) :
    s.accept n size init = ((some id, 4 + 2 * steps), ((s.taking.countN .coop COOP.FALLBACK_CNT steps).setBuf id
      ⟨true, if q.named then 0 else init.toNat, if q.named then init else 0, 0⟩).poolLow n q false) := by
  have pool : s.taking.pool n = some q := hq
  have found := (s.search_taking q 6 (classFor size) 0).trans search
  unfold State.accept
  rw [if_neg (Nat.not_le.mpr h)]
  simp only [State.taking] at pool found ⊢
  simp only [pool, ok, found, Bool.false_eq_true, if_false]

end
end

/-! What acts at the cooperage takes no time. -/

/-- No time passes, nothing is sent, and the answers that wait are the same. -/
structure State.Quiet (s t : State) : Prop where
  clk : t.clk = s.clk
  out : t.out = s.out
  waiting : t.coop.waiting = s.coop.waiting

theorem State.Quiet.of_coop {s t : State} (hclk : t.clk = s.clk) (hout : t.out = s.out) (hcoop : t.coop = s.coop) : s.Quiet t :=
  ⟨hclk, hout, by rw [hcoop]⟩

theorem State.Quiet.trans {s t u : State} (h : s.Quiet t) (k : t.Quiet u) : s.Quiet u :=
  ⟨k.clk.trans h.clk, k.out.trans h.out, k.waiting.trans h.waiting⟩

theorem quiet_tally (s : State) (p : Page) (c : Fld) (b : Nat) : s.Quiet (s.tally p c b) := .of_coop (by simp) (by simp) (by simp)

theorem quiet_raise (s : State) (p : Page) (b : Nat) : s.Quiet (s.raise p b) := .of_coop (by simp) (by simp) (by simp)

theorem quiet_setFld (s : State) (p : Page) (f : Fld) (v : Nat) : s.Quiet (s.setFld p f v) := .of_coop rfl rfl rfl

theorem quiet_countN (s : State) (p : Page) (c : Fld) (n : Nat) : s.Quiet (s.countN p c n) := quiet_setFld ..

theorem quiet_setBuf (s : State) (id : Nat) (b : Buf) : s.Quiet (s.setBuf id b) := ⟨rfl, rfl, rfl⟩

theorem quiet_poolLow (s : State) (n : Nat) (q : Pool) (fresh : Bool) : s.Quiet (s.poolLow n q fresh) := quiet_setFld ..

theorem quiet_allocFails (s : State) (n : Nat) : s.Quiet (s.allocFails n) := .of_coop (by simp) (by simp) (by simp)

theorem quiet_coopAt (s : State) (cycle : Nat) : s.Quiet (s.coopAt cycle) := by
  unfold State.coopAt
  split <;> exact ⟨rfl, rfl, rfl⟩

theorem quiet_releaseNow (s : State) (unit : BitVec 16) (id : Nat) : s.Quiet (s.releaseNow unit id) := by
  have counted : s.Quiet (s.count .coop COOP.RELEASE_CNT) := ⟨rfl, rfl, rfl⟩
  unfold State.releaseNow
  extract_lets s1 b
  refine counted.trans ?_
  split
  · split
    · split
      · exact ⟨rfl, rfl, rfl⟩
      · exact quiet_tally ..
    · split <;> exact ⟨rfl, rfl, rfl⟩
  · exact quiet_tally ..

theorem quiet_portRelease (s : State) (unit : BitVec 16) (id : Nat) : s.Quiet (s.portRelease unit id) := by
  have taken : s.Quiet { s with coop := { s.coop with releases := s.coop.releases + 1 } } := ⟨rfl, rfl, rfl⟩
  unfold State.portRelease
  split
  · exact quiet_tally ..
  · exact taken.trans (quiet_releaseNow ..)

theorem quiet_accept (s : State) (n size : Nat) (init : BitVec 16) : s.Quiet (s.accept n size init).2 := by
  have taken : s.Quiet s.taking := ⟨rfl, rfl, rfl⟩
  have searched : ∀ steps, s.Quiet (s.taking.countN .coop COOP.FALLBACK_CNT steps) := fun _ => taken.trans (quiet_countN ..)
  by_cases full : 8 ≤ s.coop.accepted
  · rw [State.accept_full full]
    exact (quiet_tally ..).trans (quiet_allocFails ..)
  · have room := Nat.not_le.mp full
    cases bad : reqBad (s.pool n) size init with
    | true =>
      rw [State.accept_bad room bad]
      exact taken.trans ((quiet_tally ..).trans (quiet_allocFails ..))
    | false =>
      cases hq : s.pool n with
      | none => simp [hq, reqBad] at bad
      | some q =>
        rw [hq] at bad
        rcases search : s.search q 6 (classFor size) 0 with ⟨_ | id, steps⟩
        · rw [State.accept_none room hq bad search]
          exact (searched steps).trans ((quiet_allocFails ..).trans (quiet_raise ..))
        · rw [State.accept_some room hq bad search]
          exact (searched steps).trans ((quiet_setBuf ..).trans (quiet_poolLow ..))

theorem CoopDue.serve_clk (d : CoopDue) (s : State) : (d.serve s).clk = s.clk := by
  have cycle := quiet_coopAt s (d.at_ / 2)
  unfold CoopDue.serve
  dsimp only
  split
  · exact (cycle.trans (quiet_portRelease ..)).clk
  · exact (cycle.trans (quiet_accept ..)).clk

theorem State.coopBefore_clk (s : State) (k : Nat) : (s.coopBefore k).clk = s.clk := by
  have all : ∀ (ds : List CoopDue) (t : State), (ds.foldl (fun s d => d.serve s) t).clk = t.clk := by
    intro ds
    induction ds with
    | nil => intro t; rfl
    | cons d ds ih => intro t; exact (ih _).trans (d.serve_clk t)
  exact all _ _

theorem State.coopNow_clk (s : State) : s.coopNow.clk = s.clk := s.coopBefore_clk _

theorem State.coopCycle_clk (s : State) : s.coopCycle.clk = s.clk := (quiet_coopAt ..).clk.trans (s.coopBefore_clk _)

/-! What units send (R196, R201; log 35). -/

/-- A unit sends a request or a release. -/
def State.sends (s : State) (d : CoopDue) : State := { s with coop := { s.coop with due := s.coop.due ++ [d] } }

theorem State.askBuf_eq (s : State) (r : AllocReq) :
    s.askBuf r = s.coopCycle.sends ⟨s.clk.phase, r.unit, .ask r.pool.val r.size r.init⟩ := by
  rw [← s.coopCycle_clk]; rfl

theorem State.releaseBuf_eq (s : State) (unit : BitVec 16) (id : Nat) :
    s.releaseBuf unit id = s.coopCycle.sends ⟨s.clk.phase, unit, .release id⟩ := by
  rw [← s.coopCycle_clk]; rfl

theorem exec_allocRequest {s : State} (r : AllocReq) (h : s.running = true) :
    exec (.allocRequest r) s = .next (s.coopCycle.sends ⟨s.clk.phase, r.unit, .ask r.pool.val r.size r.init⟩) := by
  rw [← s.askBuf_eq]
  exact congrArg Host.Outcome.next (if_pos h)

theorem exec_release {s : State} (unit buffer : BitVec 16) (h : s.running = true) :
    exec (.release unit buffer) s = .next (s.coopCycle.sends ⟨s.clk.phase, unit, .release buffer.toNat⟩) := by
  rw [← s.releaseBuf_eq]
  exact congrArg Host.Outcome.next (if_pos h)

theorem State.coopBefore_of_due_nil {s : State} (k : Nat) (h : s.coop.due = []) : s.coopBefore k = s := by
  simp only [State.coopBefore, h, List.filter_nil, sortOn, List.foldl_nil]
  rw [← h]

/-- What is sent where nothing waits acts in its cycle. -/
theorem State.coopNow_sends {s : State} {d : CoopDue} (h : s.coop.due = []) (cycle : d.at_ / 2 = s.clk.phase / 2) :
    (s.sends d).coopNow = d.serve s := by
  have now : d.order < coopPlace (s.clk.phase / 2 + 1) := by
    have unit : d.unit.toNat < 65536 := d.unit.isLt
    have last := Bool.toNat_le d.isRelease
    simp only [CoopDue.order, coopPlace, cycle]
    omega
  have due : (s.sends d).coop.due = [d] := by simp only [State.sends, h, List.nil_append]
  have rest : ({ s.sends d with coop := { (s.sends d).coop with due := [] } } : State) = s := by rw [← h]; rfl
  have clk : (s.sends d).clk = s.clk := rfl
  simp only [State.coopNow, State.coopBefore, clk, due, now, decide_true, Bool.not_true, Bool.false_eq_true, not_false_eq_true,
    List.filter_cons_of_pos, List.filter_cons_of_neg, List.filter_nil, sortOn, insertOn, List.foldl_cons, List.foldl_nil]
  exact congrArg d.serve rest

theorem State.coopAt_again (s : State) (cycle : Nat) : (s.coopAt cycle).coopAt cycle = s.coopAt cycle := by
  have begun : (s.coopAt cycle).coop.cycle ≥ cycle := by
    rw [State.coopAt]
    split
    · assumption
    · exact Nat.le_refl cycle
  exact if_pos begun

section
variable {s : State} (hd : s.coop.due = [])
include hd

/-- With nothing sent before, the cycle that is running begins and no more. -/
theorem State.coopCycle_of_due_nil : s.coopCycle = s.coopAt (s.clk.phase / 2) := by
  rw [State.coopCycle, State.coopBefore_of_due_nil _ hd]

theorem State.bufs_coopCycle : s.coopCycle.coop.bufs = s.coop.bufs := by
  rw [State.coopCycle_of_due_nil hd, State.coopAt]
  split <;> rfl

theorem State.pools_coopCycle : s.coopCycle.coop.pools = s.coop.pools := by
  rw [State.coopCycle_of_due_nil hd, State.coopAt]
  split <;> rfl

theorem State.due_coopCycle : s.coopCycle.coop.due = [] := by
  rw [State.coopCycle_of_due_nil hd, State.coopAt]
  split <;> exact hd

theorem State.fld_coopCycle (p : Page) (f : Fld) : s.coopCycle.fld p f = s.fld p f := by
  rw [State.coopCycle_of_due_nil hd, State.coopAt]
  split <;> rfl

theorem State.quiet_coopCycle : s.Quiet s.coopCycle := by
  rw [State.coopCycle_of_due_nil hd]
  exact quiet_coopAt ..

/-- A release reaches the ports of the cycle that is running. -/
theorem State.coopNow_releases (unit buffer : BitVec 16) :
    (s.coopCycle.sends ⟨s.clk.phase, unit, .release buffer.toNat⟩).coopNow = s.coopCycle.portRelease unit buffer.toNat := by
  rw [State.coopNow_sends (State.due_coopCycle hd) (by rw [s.coopCycle_clk]), CoopDue.serve, State.coopCycle_of_due_nil hd,
    State.coopAt_again]

/-- A request is answered from the state of the cycle that is running. -/
theorem State.coopNow_asks (r : AllocReq) :
    let x := s.coopCycle.accept r.pool.val r.size r.init
    (s.coopCycle.sends ⟨s.clk.phase, r.unit, .ask r.pool.val r.size r.init⟩).coopNow =
      { x.2 with coop := { x.2.coop with
          waiting := x.2.coop.waiting ++ [⟨(s.clk.phase / 2 + x.1.2) * 2, r.unit, x.1.1.map fun id => BitVec.ofNat 16 id⟩] } } := by
  rw [State.coopNow_sends (State.due_coopCycle hd) (by rw [s.coopCycle_clk]), CoopDue.serve, State.coopCycle_of_due_nil hd,
    State.coopAt_again]

/-- Answering a request takes no time and sends nothing. -/
theorem State.quiet_of_accept {r : AllocReq} {b : Option Nat} {cycles : Nat} {v : State}
    (h : s.coopCycle.accept r.pool.val r.size r.init = ((b, cycles), v)) : s.Quiet v := by
  have quiet := (State.quiet_coopCycle hd).trans (quiet_accept s.coopCycle r.pool.val r.size r.init)
  rwa [h] at quiet

end

/-! Completions (R195). -/

/-- Of an empty list alone nothing comes first. -/
theorem takeFirst_eq_none {α : Type} {key : α → Nat} {xs : List α} (h : takeFirst key xs = none) : xs = [] := by
  cases xs with
  | nil => rfl
  | cons x xs =>
    unfold takeFirst at h
    split at h
    · cases h
    · split at h <;> cases h

/-- What comes first comes no later than anything else. -/
theorem takeFirst_le {α : Type} {key : α → Nat} {xs : List α} {y : α} {rest : List α} (h : takeFirst key xs = some (y, rest)) :
    ∀ x ∈ xs, key y ≤ key x := by
  induction xs generalizing y rest with
  | nil => cases h
  | cons x xs ih =>
    unfold takeFirst at h
    split at h
    · next nothing =>
      cases h
      simp [takeFirst_eq_none nothing]
    · next z zs found =>
      have least := ih found
      split at h
      · next lt =>
        cases h
        exact List.forall_mem_cons.mpr ⟨Nat.le_of_lt lt, least⟩
      · next ge =>
        cases h
        exact List.forall_mem_cons.mpr ⟨Nat.le_refl _, fun w hw => Nat.le_trans (Nat.le_of_not_lt ge) (least w hw)⟩

/-- An answer is complete: its time comes, and it returns its buffer, which is counted, or its failure. -/
def State.answerAlloc (s : State) (r : AllocRes) : State :=
  let s1 := s.advanceTo r.at_
  (if r.buffer.isSome then s1.count .coop COOP.ALLOC_CNT else s1).send (.alloc r.unit r.buffer)

/-- The completion of the first of the answers that wait. -/
theorem exec_allocComplete {s : State} {r : AllocRes} {rest : List AllocRes}
    (h : takeFirst AllocRes.at_ s.coopNow.coop.waiting = some (r, rest)) : exec .allocComplete s =
      .next (({ s.coopNow with coop := { s.coopNow.coop with waiting := rest } } : State).answerAlloc r) := by
  show execAllocComplete s = _
  simp only [execAllocComplete, h, State.answerAlloc]

@[simp] theorem State.answerAlloc_coop (s : State) (r : AllocRes) : (s.answerAlloc r).coop = s.coop := by
  unfold State.answerAlloc
  dsimp only
  split <;> simp

@[simp] theorem State.buf_answerAlloc (s : State) (r : AllocRes) (id : Nat) : (s.answerAlloc r).buf id = s.buf id :=
  State.buf_of_bufs (by rw [State.answerAlloc_coop]) id

@[simp] theorem State.answerAlloc_out (s : State) (r : AllocRes) : (s.answerAlloc r).out = s.out ++ [.alloc r.unit r.buffer] := by
  unfold State.answerAlloc State.send
  dsimp only
  split <;> simp

@[simp] theorem State.answerAlloc_phase (s : State) (r : AllocRes) : (s.answerAlloc r).clk.phase = max s.clk.phase r.at_ := by
  unfold State.answerAlloc
  dsimp only
  split <;> simp

theorem State.fld_answerAlloc_none (s : State) {r : AllocRes} (h : r.buffer = none) {f : Fld} (hf : f.off < 0x1000) :
    (s.answerAlloc r).fld .coop f = s.fld .coop f := by
  simp only [State.answerAlloc, h, Option.isSome_none, Bool.false_eq_true, if_false]
  exact s.fld_advanceTo_otherPage (p := .coop) (fun _ => Page.noConfusion) hf _

theorem State.fld_answerAlloc_some (s : State) {r : AllocRes} (h : r.buffer.isSome = true) :
    (s.answerAlloc r).fld .coop COOP.ALLOC_CNT = min (s.fld .coop COOP.ALLOC_CNT + 1) (2 ^ 64 - 1) := by
  have counted := (s.advanceTo r.at_).fld_count_64 (p := .coop) (c := COOP.ALLOC_CNT) rfl rfl
  rw [s.fld_advanceTo_otherPage (p := .coop) (fun _ => Page.noConfusion) (by decide)] at counted
  simp only [State.answerAlloc, h, if_true]
  exact counted

section
variable {s : State} {r : AllocReq} (hd : s.coop.due = []) (hw : s.coop.waiting = [])
include hd hw

/-- A request that comes alone completes at the time that its cycle gives it. -/
theorem exec_allocComplete_asked {b : Option Nat} {cycles : Nat} {v : State}
    (h : s.coopCycle.accept r.pool.val r.size r.init = ((b, cycles), v)) :
    exec .allocComplete (s.coopCycle.sends ⟨s.clk.phase, r.unit, .ask r.pool.val r.size r.init⟩) =
      .next (v.answerAlloc ⟨(s.clk.phase / 2 + cycles) * 2, r.unit, b.map fun id => BitVec.ofNat 16 id⟩) := by
  have quiet := (State.quiet_coopCycle hd).trans (quiet_accept s.coopCycle r.pool.val r.size r.init)
  have waiting := quiet.waiting.trans hw
  have now := State.coopNow_asks hd r
  rw [h] at waiting now
  dsimp only at waiting now
  rw [waiting, List.nil_append] at now
  rw [exec_allocComplete (r := ⟨(s.clk.phase / 2 + cycles) * 2, r.unit, b.map fun id => BitVec.ofNat 16 id⟩) (rest := [])
    (by rw [now]; rfl), now]
  dsimp only
  rw [← waiting]

/-- A request that fails completes with nothing after fourteen cycles, and leaves the buffers as they are (R195, R197). -/
theorem allocComplete_fails {v : State} (h : s.coopCycle.accept r.pool.val r.size r.init = ((none, 14), v))
    (bufs : v.coop.bufs = s.coopCycle.coop.bufs) {c : Fld} (hc : c.off < 0x1000)
    (count : v.fld .coop c = min (s.coopCycle.fld .coop c + 1) (2 ^ 64 - 1)) :
    ∃ u, (exec .allocComplete (s.coopCycle.sends ⟨s.clk.phase, r.unit, .ask r.pool.val r.size r.init⟩) = .next u ∧
      u.out = s.out ++ [.alloc r.unit none] ∧ u.clk.phase = max s.clk.phase ((s.clk.phase / 2 + 14) * 2) ∧
      u.coop.bufs = s.coop.bufs) ∧ u.fld .coop c = min (s.fld .coop c + 1) (2 ^ 64 - 1) := by
  have quiet := State.quiet_of_accept hd h
  refine ⟨_, ⟨exec_allocComplete_asked hd hw h, ?_, ?_, ?_⟩, ?_⟩
  · rw [State.answerAlloc_out, quiet.out]; rfl
  · rw [State.answerAlloc_phase, quiet.clk]
  · rw [State.answerAlloc_coop, bufs, State.bufs_coopCycle hd]
  · rw [Option.map_none, v.fld_answerAlloc_none rfl hc, count, State.fld_coopCycle hd]

/-- A request that finds a buffer completes with it, four cycles later and two more for each fall-back step (R195, R198). -/
theorem allocComplete_finds {q : Pool} {id steps : Nat} (room : s.coopCycle.coop.accepted < 8)
    (hq : s.coopCycle.pool r.pool.val = some q) (ok : reqBad (some q) r.size r.init = false)
    (search : s.coopCycle.search q 6 (classFor r.size) 0 = (some id, steps)) :
    ∃ u, exec .allocComplete (s.coopCycle.sends ⟨s.clk.phase, r.unit, .ask r.pool.val r.size r.init⟩) = .next u ∧
      u.out = s.out ++ [.alloc r.unit (some (BitVec.ofNat 16 id))] ∧
      u.clk.phase = max s.clk.phase ((s.clk.phase / 2 + 4 + 2 * steps) * 2) ∧
      u.buf id = ⟨true, if q.named then 0 else r.init.toNat, if q.named then r.init else 0, 0⟩ ∧
      (s.buf id).live = false ∧ (∀ j, j ≠ id → u.buf j = s.buf j) ∧
      u.fld .coop COOP.ALLOC_CNT = min (s.fld .coop COOP.ALLOC_CNT + 1) (2 ^ 64 - 1) ∧
      (∀ j, q.classBase (classFor r.size + steps) ≤ j → j < id →
        (s.buf j).live = true ∨ s.coopCycle.coop.freed.contains j = true) := by
  have answer := State.accept_some room hq ok search
  have quiet := State.quiet_of_accept hd answer
  have buf := State.buf_of_bufs (State.bufs_coopCycle hd)
  obtain ⟨j, rfl, free⟩ := State.search_found search
  rw [Nat.zero_add] at *
  obtain ⟨dead, before⟩ := State.freeBuf_eq_some free
  simp only [buf] at dead before
  refine ⟨_, exec_allocComplete_asked hd hw answer, ?_, ?_, ?_, dead, fun k hk => ?_, ?_, before⟩
  · rw [State.answerAlloc_out, quiet.out]; rfl
  · rw [State.answerAlloc_phase, quiet.clk, Nat.add_assoc]
  · rw [State.buf_answerAlloc, State.buf_poolLow, State.buf_setBuf_same]
  · rw [State.buf_answerAlloc, State.buf_poolLow, State.buf_setBuf_other _ _ hk]
    exact buf k
  · rw [State.fld_answerAlloc_some _ rfl, State.fld_poolLow_counter _ _ _ _ (by decide)]
    exact congrArg (fun n => min (n + 1) (2 ^ 64 - 1))
      ((State.fld_countN_other s.coopCycle.taking j (by decide)).trans (State.fld_coopCycle hd _ _))

end

/-! Releases (R199 to R201). -/

@[simp] theorem State.buf_count (s : State) (p : Page) (c : Fld) (id : Nat) : (s.count p c).buf id = s.buf id := rfl

@[simp] theorem State.poolOf_count (s : State) (p : Page) (c : Fld) (id : Nat) : (s.count p c).poolOf id = s.poolOf id := rfl

@[simp] theorem State.buf_tally (s : State) (p : Page) (c : Fld) (b id : Nat) : (s.tally p c b).buf id = s.buf id :=
  State.buf_of_bufs (by rw [State.tally_coop]) id

section
variable {s : State} {unit : BitVec 16} {id : Nat}

/-- A release of a buffer that is not live, or that no pool holds. -/
theorem State.releaseNow_stray (stray : (s.buf id).live = false ∨ s.poolOf id = none) :
    s.releaseNow unit id = (s.count .coop COOP.RELEASE_CNT).tally .coop COOP.STRAY_CNT COOP.EV_STRAY_RELEASE := by
  unfold State.releaseNow
  simp only [State.buf_count, State.poolOf_count]
  split
  · next pool live => simp [pool, live] at stray
  · rfl

/-- A release of a live buffer of a pool. -/
theorem State.releaseNow_live {n : Nat} {p : Pool} (pool : s.poolOf id = some (n, p)) (live : (s.buf id).live = true) :
    s.releaseNow unit id =
      if p.named then
        if (s.buf id).owner = unit then (s.count .coop COOP.RELEASE_CNT).freeBuffer id
        else (s.count .coop COOP.RELEASE_CNT).tally .coop COOP.FOREIGN_CNT COOP.EV_FOREIGN_RELEASE
      else if (s.buf id).count ≤ 1 then (s.count .coop COOP.RELEASE_CNT).freeBuffer id
      else (s.count .coop COOP.RELEASE_CNT).setBuf id { s.buf id with count := (s.buf id).count - 1 } := by
  unfold State.releaseNow
  simp only [State.buf_count, State.poolOf_count, pool, live]
  rfl

/-- What each outcome of a release gives, the release gives. -/
theorem State.releaseNow_of {P : State → Prop} (free : P ((s.count .coop COOP.RELEASE_CNT).freeBuffer id))
    (tally : ∀ c ∈ [COOP.STRAY_CNT, COOP.FOREIGN_CNT], ∀ b, P ((s.count .coop COOP.RELEASE_CNT).tally .coop c b))
    (put : ∀ b, P ((s.count .coop COOP.RELEASE_CNT).setBuf id b)) : P (s.releaseNow unit id) := by
  have strays : (s.buf id).live = false ∨ s.poolOf id = none → P (s.releaseNow unit id) := by
    intro stray
    rw [State.releaseNow_stray stray]
    exact tally _ (by simp) _
  cases live : (s.buf id).live with
  | false => exact strays (.inl live)
  | true =>
    cases pool : s.poolOf id with
    | none => exact strays (.inr pool)
    | some np =>
      rw [State.releaseNow_live pool live]
      split
      · split
        · exact free
        · exact tally _ (by simp) _
      · split
        · exact free
        · exact put _

/-- Every release that acts is counted. -/
theorem State.fld_releaseNow_cnt :
    (s.releaseNow unit id).fld .coop COOP.RELEASE_CNT = min (s.fld .coop COOP.RELEASE_CNT + 1) (2 ^ 64 - 1) := by
  have counted := s.fld_count_64 (p := .coop) (c := COOP.RELEASE_CNT) rfl rfl
  have apart : ∀ c ∈ [COOP.STRAY_CNT, COOP.FOREIGN_CNT], COOP.RELEASE_CNT.off ≠ c.off := by decide
  exact State.releaseNow_of (P := fun u => u.fld .coop COOP.RELEASE_CNT = _) counted
    (fun c hc _ => (State.fld_tally_other _ _ (apart c hc) (by decide)).trans counted) fun _ => counted

/-- A release touches no buffer but its own. -/
theorem State.buf_releaseNow_other {j : Nat} (h : j ≠ id) : (s.releaseNow unit id).buf j = s.buf j :=
  State.releaseNow_of (P := fun u => u.buf j = s.buf j) (State.buf_freeBuffer_other _ h) (fun _ _ _ => State.buf_tally ..)
    fun _ => State.buf_setBuf_other _ _ h

/-- A stray release leaves every buffer and is counted. -/
theorem State.releaseNow_dead (dead : (s.buf id).live = false) : (s.releaseNow unit id).coop.bufs = s.coop.bufs ∧
    (s.releaseNow unit id).fld .coop COOP.STRAY_CNT = min (s.fld .coop COOP.STRAY_CNT + 1) (2 ^ 64 - 1) := by
  rw [State.releaseNow_stray (.inl dead), State.tally_coop, State.fld_tally_same _ _ (by decide) rfl rfl,
    s.fld_count_other (by decide)]
  exact ⟨rfl, rfl⟩

section
variable {n : Nat} {p : Pool} (pool : s.poolOf id = some (n, p)) (live : (s.buf id).live = true)
include pool live

theorem State.buf_releaseNow_own (named : p.named = true) (own : (s.buf id).owner = unit) :
    (s.releaseNow unit id).buf id = Buf.initial := by
  rw [State.releaseNow_live pool live, if_pos named, if_pos own, State.buf_freeBuffer_same]

/-- A foreign release leaves the buffer and is counted. -/
theorem State.releaseNow_foreign (named : p.named = true) (foreign : (s.buf id).owner ≠ unit) :
    (s.releaseNow unit id).buf id = s.buf id ∧
      (s.releaseNow unit id).fld .coop COOP.FOREIGN_CNT = min (s.fld .coop COOP.FOREIGN_CNT + 1) (2 ^ 64 - 1) := by
  rw [State.releaseNow_live pool live, if_pos named, if_neg foreign, State.buf_tally, State.fld_tally_same _ _ (by decide) rfl rfl,
    s.fld_count_other (by decide)]
  exact ⟨rfl, rfl⟩

theorem State.buf_releaseNow_counted (counted : p.named = false) (more : 1 < (s.buf id).count) :
    (s.releaseNow unit id).buf id = { s.buf id with count := (s.buf id).count - 1 } := by
  rw [State.releaseNow_live pool live, if_neg (ne_true_of_eq_false counted), if_neg (Nat.not_le.mpr more), State.buf_setBuf_same]

theorem State.buf_releaseNow_last (counted : p.named = false) (last : (s.buf id).count ≤ 1) :
    (s.releaseNow unit id).buf id = Buf.initial := by
  rw [State.releaseNow_live pool live, if_neg (ne_true_of_eq_false counted), if_pos last, State.buf_freeBuffer_same]

end

/-- The ninth release of a cycle. -/
theorem State.portRelease_full (h : 8 ≤ s.coop.releases) :
    s.portRelease unit id = s.tally .coop COOP.PORT_LIMIT_CNT COOP.EV_PORT_LIMIT := if_pos h

/-- A release that a port takes acts, on the buffers, pools and counters as they are. -/
theorem State.portRelease_taken (h : s.coop.releases < 8) : ∃ x : State, s.portRelease unit id = x.releaseNow unit id ∧
    x.coop.bufs = s.coop.bufs ∧ x.coop.pools = s.coop.pools ∧ ∀ p f, x.fld p f = s.fld p f :=
  ⟨_, if_neg (Nat.not_le.mpr h), rfl, rfl, fun _ _ => rfl⟩

theorem State.poolOf_of_pools {t : State} (h : t.coop.pools = s.coop.pools) (id : Nat) : t.poolOf id = s.poolOf id := by
  simp only [State.poolOf, h]

end

/-! The statement. -/

/-- Settles O41: with nothing sent before, a request or a release acts in the cycle that is running (`State.coopNow_sends`); the answer to a
request is that of `State.accept`, in its four cases, and a release is `State.releaseNow`. -/
theorem allocationsAndReleases : Obligations.AllocationsAndReleases := by
  refine ⟨fun s r running => ⟨_, exec_allocRequest r running, rfl, fun hd hw => ?asked⟩, fun s r rest first => ?completes,
    fun s unit buffer running => ⟨_, exec_release unit buffer running, rfl, fun hd => ?released⟩⟩
  case asked =>
    refine ⟨?found, ?bad, ?full, ?fails⟩
    case found =>
      intro q id steps room hq ok search wide
      exact allocComplete_finds hd hw room hq ok search
    case bad =>
      intro room bad
      refine allocComplete_fails hd hw (State.accept_bad room bad) (by rw [State.allocFails_coop, State.tally_coop]; rfl) (by decide) ?_
      rw [State.fld_allocFails_other _ _ (by decide) (by decide), State.fld_tally_same _ _ (by decide) rfl rfl]
      rfl
    case full =>
      intro full
      refine allocComplete_fails hd hw (State.accept_full full) (by rw [State.allocFails_coop, State.tally_coop]) (by decide) ?_
      rw [State.fld_allocFails_other _ _ (by decide) (by decide), State.fld_tally_same _ _ (by decide) rfl rfl]
    case fails =>
      intro q steps room hq ok search
      refine allocComplete_fails hd hw (State.accept_none room hq ok search) (by rw [State.raise_coop, State.allocFails_coop]; rfl)
        (by decide) ?_
      rw [State.fld_raise_other _ _ (by decide), State.fld_allocFails_fail, State.fld_countN_other _ _ (by decide)]
      rfl
  case completes =>
    refine ⟨_, exec_allocComplete first, ?_, ?_, ?_, ?_, takeFirst_le first⟩
    · rw [State.answerAlloc_coop]
    · rw [State.answerAlloc_out]
    · rw [State.answerAlloc_phase]
      simp only [s.coopNow_clk]
    · rw [State.answerAlloc_coop]
  case released =>
    rw [State.coopNow_releases hd]
    refine ⟨fun full => ?limit, fun room => ?taken⟩
    case limit =>
      rw [State.portRelease_full full, State.tally_coop, State.fld_tally_same _ _ (by decide) rfl rfl, State.fld_coopCycle hd]
      exact ⟨State.bufs_coopCycle hd, rfl⟩
    case taken =>
      obtain ⟨x, acts, hbufs, hpools, hfld⟩ := State.portRelease_taken (unit := unit) (id := buffer.toNat) room
      have bufs := hbufs.trans (State.bufs_coopCycle hd)
      have buf := State.buf_of_bufs bufs
      have poolOf := State.poolOf_of_pools (hpools.trans (State.pools_coopCycle hd)) buffer.toNat
      have cnt : ∀ f, s.fld .coop f = x.fld .coop f := fun f => ((hfld .coop f).trans (State.fld_coopCycle hd .coop f)).symm
      simp only [acts, ← buf, ← poolOf, ← bufs, cnt]
      exact ⟨State.fld_releaseNow_cnt, fun j => State.buf_releaseNow_other, State.releaseNow_dead, fun n p pool live =>
        ⟨State.buf_releaseNow_own pool live, State.releaseNow_foreign pool live, State.buf_releaseNow_counted pool live,
          State.buf_releaseNow_last pool live⟩⟩

end Sys2Proof.Machine
end

section
/-! PROOFS. The pages of a kiln and of its controller, and what a hand-off does: the statement of hand-off records. -/
namespace Sys2Proof.Machine

@[simp] theorem klnPage_val (k : Fin 8) : klnPage k.val = .kln k := by
  simp only [klnPage, Nat.mod_eq_of_lt k.isLt]

@[simp] theorem memPage_val (k : Fin 8) : memPage k.val = .mem k := by
  simp only [memPage, Nat.mod_eq_of_lt k.isLt]

/-- A field at another offset is left alone, in whatever page. -/
theorem State.fld_setFld_anyPage (s : State) {p q : Page} {f g : Fld} (v : Nat) (h : g.off ≠ f.off) (hf : f.off < 0x1000)
    (hg : g.off < 0x1000) : (s.setFld p f v).fld q g = s.fld q g := by
  by_cases hp : q = p
  · subst hp; exact s.fld_setFld_otherOff v h
  · exact s.fld_setFld_otherPage v hp hg hf

section
variable {p : Page} {f : Fld}

/-- A field that no write to HBM changes stays as time goes on. -/
theorem State.fld_advanceTo_of_storePhys
    (store : ∀ (s : State) g ps poison, (s.storePhys g ps poison).fld p f = s.fld p f) (s : State) (t : Phase) :
    (s.advanceTo t).fld p f = s.fld p f := by
  have act : ∀ (s : State) (d : DueAct), (d.apply s).fld p f = s.fld p f := by
    intro s d
    cases d with
    | hbm g ps poison => exact store s g ps poison
    | spad t a data poison => exact State.fld_of_reg (by simp only [DueAct.apply, State.reg, State.regs_spadWrite])
    | fetch t a g late till => rfl
    | cell t a n late shift x => rfl
    | reopen out => rfl
  have due : ∀ n (s : State), (State.settleDue n t s).fld p f = s.fld p f := by
    intro n
    induction n with
    | zero => intro s; rfl
    | succ n ih =>
      intro s
      unfold State.settleDue
      split
      · rfl
      · split
        · exact (ih _).trans (act _ _)
        · rfl
  exact due _ s

end

/-- As time goes on a controller counts no bad write in its control space (R329, R330). -/
theorem State.fld_advanceTo_ctrlBad (s : State) (p : Page) (t : Phase) :
    (s.advanceTo t).fld p MEM.CTRL_BAD_CNT = s.fld p MEM.CTRL_BAD_CNT := by
  refine State.fld_advanceTo_of_storePhys (fun s g ps poison => ?_) s t
  have written : ∀ t : State, (t.count (memPage (granStack g)) MEM.WR_GRAN_CNT).fld p MEM.CTRL_BAD_CNT =
      t.fld p MEM.CTRL_BAD_CNT := fun t => t.fld_setFld_anyPage _ (by decide) (by decide) (by decide)
  have marked : ∀ t : State, (t.count (memPage (granStack g)) MEM.POISON_WR_CNT).fld p MEM.CTRL_BAD_CNT =
      t.fld p MEM.CTRL_BAD_CNT := fun t => t.fld_setFld_anyPage _ (by decide) (by decide) (by decide)
  cases poison with
  | false => exact written s
  | true => exact (marked _).trans (written s)

theorem exec_handoffRecord {s : State} {k : Fin 8} {x : CtrlWrite} (h : s.kln.ctrlQ.find? (fun x => x.k = k.val) = some x) :
    exec (.handoffRecord k) s =
      .next ((({ s with kln := { s.kln with ctrlQ := s.kln.ctrlQ.erase x } } : State).advanceTo x.at_).controlWrite x) := by
  show execHandoffRecord k s = _
  simp only [execHandoffRecord, h]

theorem State.controlWrite_bad (s : State) {x : CtrlWrite} (h : x.off ≠ 0 ∨ x.size ≠ 16) :
    s.controlWrite x = s.tally (memPage x.k) MEM.CTRL_BAD_CNT MEM.EV_CTRL_BAD := if_pos (by simpa using h)

theorem State.controlWrite_refused {s : State} {x : CtrlWrite} {r : HandRefusal} (off : x.off = 0) (size : x.size = 16)
    (h : s.handDecide x.k x.data.toNat x.second = some r) : s.controlWrite x = s.handRefuse x.k x.data.toNat r := by
  simp [State.controlWrite, off, size, h]

theorem State.controlWrite_accepted {s : State} {x : CtrlWrite} (off : x.off = 0) (size : x.size = 16)
    (h : s.handDecide x.k x.data.toNat x.second = none) : s.controlWrite x = s.handAccept x.k x.data.toNat := by
  simp [State.controlWrite, off, size, h]

/-- The count of a refusal is neither an event register nor KLN_HANDOFF_FIRST. -/
theorem HandRefusal.cnt_apart (r : HandRefusal) : r.cnt.off ∉ [0x020, 0x030, 0x038] ∧ r.cnt.off ≠ KLN.HANDOFF_FIRST.off ∧
    r.cnt.off < 0x1000 ∧ r.cnt.lo = 0 ∧ r.cnt.hi = 63 := by
  cases r <;> exact ⟨by decide, by decide, by decide, rfl, rfl⟩

@[simp] theorem State.handRefuse_kln (s : State) (k v : Nat) (r : HandRefusal) : (s.handRefuse k v r).kln = s.kln := by
  unfold State.handRefuse
  extract_lets p s1 s2
  have counted : s1.kln = s.kln := State.tally_kln _ _ _ _
  have recorded : s2.kln = s1.kln := by
    simp only [s2]
    split
    · rfl
    · exact State.setFld_kln _ _ _ _
  rw [← counted, ← recorded]
  split
  · exact State.invalid_kln _ _ _
  · rfl

theorem State.fld_handRefuse_cnt (s : State) (k : Fin 8) (v : Nat) (r : HandRefusal) :
    (s.handRefuse k.val v r).fld (.kln k) r.cnt = min (s.fld (.kln k) r.cnt + 1) (2 ^ 64 - 1) := by
  obtain ⟨event, first, page, lo, hi⟩ := r.cnt_apart
  unfold State.handRefuse
  rw [klnPage_val]
  extract_lets p s1 s2
  have counted : s1.fld (.kln k) r.cnt = min (s.fld (.kln k) r.cnt + 1) (2 ^ 64 - 1) := s.fld_tally_same _ event lo hi
  have bst : Page.kln k ≠ .bst := nofun
  have recorded : s2.fld (.kln k) r.cnt = s1.fld (.kln k) r.cnt := by
    simp only [s2]
    split
    · rfl
    · exact s1.fld_setFld_otherOff _ first
  rw [← counted, ← recorded]
  split
  · exact s2.fld_invalid_otherPage _ _ bst page
  · rfl

theorem State.handAccept_handed (s : State) (k v : Nat) : (s.handAccept k v).kln.handed =
    smSet none s.kln.handed (klnKey k (v % 4096)) (some ⟨(s.handFormat (v % 4096) v).1, (s.handFormat (v % 4096) v).2, bitOf v 24,
      BitVec.ofNat 16 (bitsOf v 47 32)⟩) := by
  unfold State.handAccept
  dsimp only
  split <;> simp

theorem State.fld_handAccept_cnt (s : State) (k : Fin 8) (v : Nat) : (s.handAccept k.val v).fld (.kln k) KLN.HANDOFF_CNT =
    min (s.fld (.kln k) KLN.HANDOFF_CNT + 1) (2 ^ 64 - 1) := by
  unfold State.handAccept
  rw [klnPage_val]
  extract_lets t f h kln s1
  have counted : s1.fld (.kln k) KLN.HANDOFF_CNT = min (s.fld (.kln k) KLN.HANDOFF_CNT + 1) (2 ^ 64 - 1) :=
    (State.fld_countN_other (f := KLN.STATUS_HANDED) (g := KLN.HANDOFF_CNT) _ _ (by decide)).trans
      (State.fld_count_64 (c := KLN.HANDOFF_CNT) _ rfl rfl)
  have bst : Page.kln k ≠ .bst := nofun
  rw [← counted]
  split
  · exact s1.fld_invalid_otherPage _ _ bst (by decide)
  · rfl

/-- What a hand-off latches is kept with the hydrometer, which time leaves alone (R295). -/
theorem State.handFormat_of_hyd {s u : State} (h : u.hyd = s.hyd) (t v : Nat) : u.handFormat t v = s.handFormat t v := by
  have entry : u.hydEntry t = s.hydEntry t := by simp only [State.hydEntry, h]
  have chosen : u.selection t = s.selection t := by simp only [State.selection, entry, h]
  simp only [State.handFormat, entry, chosen]

/-- Settles O44: the record comes to `State.controlWrite` at its time, whose three cases are a bad write, a refusal and an acceptance. -/
theorem handoffsAreDecided : Obligations.HandoffsAreDecided := by
  intro s k x found
  have hk : x.k = k.val := by simpa using List.find?_some (p := fun x : CtrlWrite => decide (x.k = k.val)) found
  intro s1 v
  have handed : s1.kln.handed = s.kln.handed := by simp [s1]
  have cnt : ∀ f : Fld, f.off < 0x1000 → s1.fld (.kln k) f = s.fld (.kln k) f := fun f hf =>
    State.fld_advanceTo_otherPage _ (p := .kln k) (fun _ => nofun) hf _
  have fmt : ∀ t, s1.handFormat t v = s.handFormat t v := fun t => State.handFormat_of_hyd (by simp [s1]) t v
  simp only [exec_handoffRecord found]
  refine ⟨fun bad => ⟨_, rfl, ?_⟩, fun off size => ⟨fun r refused => ⟨_, rfl, ?_⟩, fun accepted => ⟨_, rfl, ?_⟩⟩⟩
  · rw [s1.controlWrite_bad bad, hk, memPage_val, State.tally_kln, s1.fld_tally_same _ (by decide) rfl rfl,
      State.fld_advanceTo_ctrlBad]
    exact ⟨handed, rfl⟩
  · rw [State.controlWrite_refused off size (hk ▸ refused), hk, State.handRefuse_kln, State.fld_handRefuse_cnt,
      cnt _ r.cnt_apart.2.2.1]
    exact ⟨handed, rfl⟩
  · rw [State.controlWrite_accepted off size (hk ▸ accepted), hk, State.handAccept_handed, State.fld_handAccept_cnt, handed, fmt,
      cnt _ (by decide)]
    exact ⟨smGet_smSet_same _ _ _ _, fun key other => smGet_smSet_other _ _ _ _ other, rfl⟩

end Sys2Proof.Machine
end

section
/-! PROOFS. The kiln's UPDATE: what it has done before it looks at its hand-off, the incomplete commit, the update of one element, and the
statement of UPDATE. -/
namespace Sys2Proof.Machine

/-! Issue (R268, R276 to R278). -/

/-- An UPDATE that has issued: its kiln is occupied for the time of its shard, and it is counted (R276, R277). -/
def State.updateBegun (s : State) (k t : Nat) (at_ : Phase) : State :=
  let e := if shValid (s.shard k t) then s.shard k t else 0
  let s1 := (s.uOccupy k .kln (at_ + kOcc e)).count (klnPage k) KLN.UPDATE_CNT
  { s1 with kln := { s1.kln with updated := s1.kln.updated ++ [(klnKey k t, at_ + kOcc e + 400)] } }

section
variable {s : State} {k : Nat} {w : Issue} (ecc : List EccErr) (at_ : Phase) (tensor : w.arg1.toNat < 4096)
include tensor

theorem kIssue_noGradient
    (h : smGet none s.kln.handed (klnKey k w.arg1.toNat) = none ∨ shValid (s.shard k w.arg1.toNat) = false) :
    kIssue k w ecc at_ s = (s.updateBegun k w.arg1.toNat at_).tally (klnPage k) KLN.NO_GRAD_CNT KLN.EV_NO_GRADIENT := by
  unfold kIssue
  rw [Nat.mod_eq_of_lt tensor]
  extract_lets t e s1 kln s2
  split
  · next h1 h2 =>
    rcases h with h | h
    · cases h1.symm.trans h
    · cases h2.symm.trans h
  · rfl

theorem kIssue_handed {h : Handed} (handed : smGet none s.kln.handed (klnKey k w.arg1.toNat) = some h)
    (valid : shValid (s.shard k w.arg1.toNat) = true) :
    kIssue k w ecc at_ s = if h.epoch ≠ s.epochOf w.arg1.toNat then
        ((s.updateBegun k w.arg1.toNat at_).tally (klnPage k) KLN.UPDATE_STALE_CNT KLN.EV_UPDATE_STALE).commitIncomplete k .stale
          w.arg1.toNat
      else kUpdate k w ecc w.arg1.toNat h at_ (s.updateBegun k w.arg1.toNat at_) := by
  unfold kIssue
  rw [Nat.mod_eq_of_lt tensor]
  extract_lets t e s1 kln s2
  split
  · next h1 h2 =>
    cases h1.symm.trans handed
    rfl
  · next other => exact absurd valid (other h handed)

end

/-- UPDATE is counted as it begins, and nothing else of its page changes. -/
theorem State.fld_updateBegun (s : State) (k t : Nat) (at_ : Phase) (p : Page) (f : Fld) :
    (s.updateBegun k t at_).fld p f = (s.count (klnPage k) KLN.UPDATE_CNT).fld p f := rfl

@[simp] theorem State.passU_mem (s : State) (k : Nat) (w : Issue) : (s.passU k w).mem = s.mem := rfl
@[simp] theorem State.fld_passU (s : State) (k : Nat) (w : Issue) (p : Page) (f : Fld) : (s.passU k w).fld p f = s.fld p f :=
  State.fld_of_reg rfl
@[simp] theorem State.flag_passU (s : State) (k : Nat) (w : Issue) (p : Page) (f : Fld) : (s.passU k w).flag p f = s.flag p f := by
  simp only [State.flag, State.fld_passU]

/-- What a clean UPDATE names is a tensor. -/
theorem tensor_of_uClean {s : State} {k : Nat} {w : Issue} {ecc : List EccErr}
    (clean : s.uClean k (updateJob k w ecc s) w = true) : w.arg1.toNat < 4096 := by
  have ok : updateBad w = false := by
    simp only [State.uClean, updateJob, Bool.and_eq_true, Bool.not_eq_true'] at clean
    exact clean.1.2
  simp only [updateBad, Bool.or_eq_false_iff, decide_eq_false_iff_not] at ok
  omega

theorem exec_update_clean {s : State} {k : Fin 8} {w : Issue} {ecc : List EccErr}
    (clean : s.uClean k.val (updateJob k.val w ecc s) w = true) :
    exec (.update k w ecc) s =
      .next ((kIssue k.val w ecc (s.uTime k.val .kln w) (s.advanceTo (s.uTime k.val .kln w))).passU k.val w) :=
  congrArg Host.Outcome.next (issueU_clean clean)

theorem State.shard_of_kln {s u : State} (h : u.kln = s.kln) (k t : Nat) : u.shard k t = s.shard k t := by
  simp only [State.shard, h]

theorem State.epochOf_of_rack {s u : State} (h : u.rack = s.rack) (t : Nat) : u.epochOf t = s.epochOf t := by
  simp only [State.epochOf, h]

/-! The incomplete commit (R278, R402). -/

/-- The commit's mark, its event and its class, before its first cause is recorded. -/
def State.commitMarked (s : State) (k : Nat) : State :=
  ((s.setFlag (klnPage k) KLN.STATUS_COMMIT_INCOMPLETE true).raise (klnPage k) KLN.EV_COMMIT_INCOMPLETE).degraded

theorem State.commitIncomplete_eq (s : State) (k : Nat) (c : CommitCause) (t : Nat) :
    s.commitIncomplete k c t = if (s.commitMarked k).flag (klnPage k) KLN.COMMIT_FIRST_VALID then s.commitMarked k else
      (s.commitMarked k).setFld (klnPage k) KLN.COMMIT_FIRST
        (t % 4096 + c.code * 2 ^ 16 + 2 ^ 31 + s.stepTick % 2 ^ 32 * 2 ^ 32) := rfl

@[simp] theorem State.commitIncomplete_mem (s : State) (k : Nat) (c : CommitCause) (t : Nat) :
    (s.commitIncomplete k c t).mem = s.mem := by
  have marked : (s.commitMarked k).mem = s.mem := by simp [State.commitMarked]
  rw [State.commitIncomplete_eq, ← marked]
  split
  · rfl
  · exact State.setFld_mem _ _ _ _

/-- Beside KLN_COMMIT_FIRST and the event registers an incomplete commit changes its mark alone. -/
theorem State.fld_commitIncomplete (s : State) (k : Fin 8) (c : CommitCause) (t : Nat) {f : Fld}
    (event : f.off ∉ [0x020, 0x030, 0x038]) (first : f.off ≠ KLN.COMMIT_FIRST.off) (page : f.off < 0x1000) :
    (s.commitIncomplete k.val c t).fld (.kln k) f = (s.setFlag (.kln k) KLN.STATUS_COMMIT_INCOMPLETE true).fld (.kln k) f := by
  have bst : Page.kln k ≠ .bst := nofun
  have marked : (s.commitMarked k.val).fld (.kln k) f = (s.setFlag (.kln k) KLN.STATUS_COMMIT_INCOMPLETE true).fld (.kln k) f := by
    rw [State.commitMarked, klnPage_val, State.degraded, State.fld_tally_otherPage _ _ bst page (by decide),
      State.fld_raise_other _ _ event]
  rw [State.commitIncomplete_eq, klnPage_val, ← marked]
  split
  · rfl
  · exact State.fld_setFld_otherOff _ _ first

theorem State.flag_setFlag_true (s : State) (p : Page) {f : Fld} (hl : f.lo ≤ f.hi) (hh : f.hi < 64) :
    (s.setFlag p f true).flag p f = true := by
  have one : 1 % 2 ^ (f.hi + 1 - f.lo) = 1 := Nat.mod_eq_of_lt (Nat.one_lt_two_pow (by omega))
  rw [State.flag, State.setFlag, State.fld_setFld_same _ _ _ _ hl hh, Bool.toNat_true, one]
  rfl

theorem State.flag_commitIncomplete (s : State) (k : Fin 8) (c : CommitCause) (t : Nat) :
    (s.commitIncomplete k.val c t).flag (.kln k) KLN.STATUS_COMMIT_INCOMPLETE = true := by
  rw [State.flag, State.fld_commitIncomplete _ _ _ _ (by decide) (by decide) (by decide)]
  exact s.flag_setFlag_true _ (by decide) (by decide)

/-! The update of an element (R269, R270). -/

section
variable {vote : Bool} {h : HyperVal} {x : KElem}

theorem kElem_notFinite (g : Fp) (state : x.finite vote = false) : kElem vote h x g = ⟨x, false, true, false⟩ := by
  simp [kElem, state]

/-- A gradient that is not finite updates the element as zero does, and is counted. -/
theorem kElem_gradient {g : Fp} (state : x.finite vote = true) (grad : g.isFin = false) :
    kElem vote h x g = { kElem vote h x fpZero with gradBad := true } := by
  have zero : fpZero.isFin = true := rfl
  simp only [kElem, state, grad, zero, Bool.not_true, Bool.not_false, Bool.false_eq_true, if_false, if_true]
  split <;> rfl

theorem kElem_finite {g : Fp} (state : x.finite vote = true) : (kElem vote h x g).stateBad = false := by
  simp only [kElem, state, Bool.not_true, Bool.false_eq_true, if_false]
  split <;> rfl

/-- A step that would make the master infinite leaves master and remainder. -/
theorem kElem_overflow {g : Fp} (inf : (kElem vote h x g).ovf = true) : (kElem vote h x g).el.w = x.w ∧ (kElem vote h x g).el.r = x.r := by
  revert inf
  unfold kElem
  split
  · exact fun _ => ⟨rfl, rfl⟩
  · dsimp only
    split
    · exact fun inf => nomatch inf
    · exact fun _ => ⟨rfl, rfl⟩

/-- SIGNVOTE has no momentum to change. -/
theorem kElem_vote (g : Fp) : (kElem true h x g).el.m = x.m := by
  unfold kElem
  split
  · rfl
  · dsimp only
    split <;> rfl

end

/-- Settles O45: a clean issue runs `kIssue` at its time (`issueU_clean`), whose cases are those of the hand-off. -/
theorem updateCompletes : Obligations.UpdateCompletes := by
  refine ⟨fun s k w ecc clean => ?issue, fun vote h x g => kElem_notFinite g, fun vote h x g state grad => ?gradient,
    fun vote h x g => kElem_overflow, fun h x g => kElem_vote g⟩
  case gradient =>
    refine ⟨?_, ?_, kElem_finite state⟩ <;> rw [kElem_gradient state grad]
  case issue =>
    intro n t a s1 s2
    have tensor : n < 4096 := tensor_of_uClean clean
    have kln : a.kln = s.kln := State.advanceTo_kln s t
    have shard : a.shard k.val n = s.shard k.val n := State.shard_of_kln kln _ _
    have begun : a.updateBegun k.val n t = s2 := by
      simp only [State.updateBegun, shard]
      rfl
    have exec_eq : exec (.update k w ecc) s = .next ((kIssue k.val w ecc t a).passU k.val w) := exec_update_clean clean
    have counted : ∀ f : Fld, f.off ≠ KLN.UPDATE_CNT.off → s2.fld (.kln k) f = a.fld (.kln k) f := by
      intro f hf
      rw [← begun, State.fld_updateBegun, klnPage_val, State.fld_count_other _ hf]
    have update : s2.fld (.kln k) KLN.UPDATE_CNT = min (a.fld (.kln k) KLN.UPDATE_CNT + 1) (2 ^ 64 - 1) := by
      rw [← begun, State.fld_updateBegun, klnPage_val, State.fld_count_64 _ rfl rfl]
    refine ⟨congrArg Host.Outcome.next (issueU_clean clean), fun missing => ⟨_, exec_eq, ?missing⟩,
      fun h handed valid => ?handed⟩
    case missing =>
      rw [← kln, ← shard] at missing
      rw [kIssue_noGradient ecc t tensor missing, begun, klnPage_val, State.passU_mem, State.tally_mem, State.fld_passU,
        State.fld_passU, s2.fld_tally_same (c := KLN.NO_GRAD_CNT) _ (by decide) rfl rfl,
        s2.fld_tally_other _ (by decide) (by decide), counted _ (by decide), update]
      exact ⟨rfl, rfl, rfl⟩
    case handed =>
      rw [← kln] at handed
      rw [← shard] at valid
      have run := kIssue_handed ecc t tensor handed valid
      rw [State.epochOf_of_rack (State.advanceTo_rack s t), begun] at run
      refine ⟨fun stale => ⟨_, exec_eq, ?_⟩, fun own => ?_⟩
      · rw [run, if_pos stale, klnPage_val, State.passU_mem, State.commitIncomplete_mem, State.tally_mem, State.fld_passU,
          State.flag_passU, State.flag_commitIncomplete, State.fld_commitIncomplete _ _ _ _ (by decide) (by decide) (by decide)]
        refine ⟨rfl, ?_, rfl⟩
        rw [State.setFlag, State.fld_setFld_otherOff _ _ (by decide), s2.fld_tally_same _ (by decide) rfl rfl,
          counted _ (by decide)]
      · rw [exec_eq, run, if_neg (not_not_intro own)]

end Sys2Proof.Machine
end

section
/-! PROOFS. The tables of the kilns: what the write of KLN_TAB_DATA7 stores, and what it does for each table. -/
namespace Sys2Proof.Machine

/-! A register without a lockable field (R3, R65). -/

/-- A write to a register without a lockable field stores its RW bits and does no more. -/
theorem State.store_of_rwl_eq_zero {p : Page} {off : Nat} (s : State) (w : RegW) (h : (regRow p off).rwl = 0) :
    s.store p off w = s.merged p off w (Half.mask w.half &&& (regRow p off).rw) := by
  simp [State.store, State.merged, takenBits, h]

theorem State.fld_merged_other (s : State) {p q : Page} {off : Nat} (w : RegW) (m : Nat) {f : Fld} (h : fldAddr q f ≠ pageBase p + off) :
    (s.merged p off w m).fld q f = s.fld q f := State.fld_of_reg (State.reg_setReg_other s _ h)

/-! The write of the last word of a table (R263, R281). -/

/-- The state with a write to KLN_TAB_DATA7 stored. -/
def State.tabStored (s : State) (k : Fin 8) (w : RegW) : State := s.store (.kln k) (KLN.TAB_DATA 7).off w

@[simp] theorem State.tabStored_kln (s : State) (k : Fin 8) (w : RegW) : (s.tabStored k w).kln = s.kln := s.store_kln _ _ _

theorem State.tabStored_eq (s : State) (k : Fin 8) (w : RegW) : s.tabStored k w =
    s.merged (.kln k) (KLN.TAB_DATA 7).off w (Half.mask w.half &&& (regRow (.kln k) (KLN.TAB_DATA 7).off).rw) :=
  s.store_of_rwl_eq_zero w rfl

theorem State.fld_tabStored_kln (s : State) (k : Fin 8) (w : RegW) {f : Fld} (h : f.off ≠ (KLN.TAB_DATA 7).off) :
    (s.tabStored k w).fld (.kln k) f = s.fld (.kln k) f := by
  rw [State.tabStored_eq]
  exact s.fld_merged_other w _ fun e => h (Nat.add_left_cancel e)

theorem State.fld_tabStored_otherPage (s : State) (k : Fin 8) (w : RegW) {p : Page} {f : Fld} (h : p ≠ .kln k) (hf : f.off < 0x1000) :
    (s.tabStored k w).fld p f = s.fld p f := by
  rw [State.tabStored_eq]
  exact s.fld_merged_other w _ (fldAddr_ne (g := KLN.TAB_DATA 7) h hf (by decide))

theorem State.locked_tabStored (s : State) (k : Fin 8) (w : RegW) : (s.tabStored k w).locked = s.locked := by
  have sch : Page.sch ≠ .kln k := nofun
  simp only [State.locked, State.flag, s.fld_tabStored_otherPage k w sch (f := SCH.STATUS_LOCKED) (by decide)]

/-- The checks of a shard entry read the features that are active and the other shards, and no more (R263). -/
theorem State.shardCheck_congr {s u : State} (kln : u.kln = s.kln) (feat : u.fld .glb GLB.FEAT_ACTIVE = s.fld .glb GLB.FEAT_ACTIVE)
    (k t e : Nat) : u.shardCheck k t e = s.shardCheck k t e := by
  have others : u.otherRegions k t = s.otherRegions k t := by simp only [State.otherRegions, kln]
  unfold State.shardCheck
  rw [others, feat]

theorem State.shardCheck_tabStored (s : State) (k : Fin 8) (w : RegW) (t v : Nat) :
    (s.tabStored k w).shardCheck k.val t v = s.shardCheck k.val t v := by
  have glb : Page.glb ≠ .kln k := nofun
  exact State.shardCheck_congr (s.tabStored_kln k w) (s.fld_tabStored_otherPage k w glb (by decide)) _ _ _

theorem State.shardCheck_le (s : State) (k t e : Nat) : s.shardCheck k t e ≤ 6 := by
  unfold State.shardCheck
  dsimp only
  repeat' split
  all_goals omega

theorem exec_klnTabWrite {s : State} {k : Fin 8} (w : RegW) (h : s.reaches (.kln k) = true) :
    exec (.klnTabWrite k w) s = .next (if w.half ≠ .low then klnCommit k.val (s.tabStored k w) else s.tabStored k w) := by
  show execKlnTabWrite k w s = _
  simp only [execKlnTabWrite, klnPage_val, commitWrite, h, if_true, State.tabStored]

/-! The entry that the words of KLN_TAB_DATA spell. -/

/-- The number that the eight words of KLN_TAB_DATA hold. -/
def State.tabValue (s : State) (k : Fin 8) : Nat :=
  ((List.range 8).map fun i => s.fld (.kln k) (KLN.TAB_DATA i) * 2 ^ (64 * i)).sum

theorem State.tabValue_congr {s u : State} {k : Fin 8}
    (h : ∀ i, i < 8 → u.fld (.kln k) (KLN.TAB_DATA i) = s.fld (.kln k) (KLN.TAB_DATA i)) : u.tabValue k = s.tabValue k := by
  unfold State.tabValue
  refine congrArg List.sum (List.map_congr_left fun i hi => ?_)
  rw [h i (List.mem_range.mp hi)]

/-- `n` words of 64 bits spell a number of `64 n` bits. -/
theorem sum_words_lt (a : Nat → Nat) (h : ∀ i, a i < 2 ^ 64) (n : Nat) :
    ((List.range n).map fun i => a i * 2 ^ (64 * i)).sum < 2 ^ (64 * n) := by
  induction n with
  | zero => simp
  | succ n ih =>
    have top : (a n + 1) * 2 ^ (64 * n) ≤ 2 ^ 64 * 2 ^ (64 * n) := Nat.mul_le_mul_right _ (h n)
    rw [Nat.add_mul, Nat.one_mul] at top
    rw [List.range_succ, List.map_append, List.sum_append, Nat.mul_succ, Nat.pow_add, Nat.mul_comm (2 ^ (64 * n))]
    simp only [List.map_cons, List.map_nil, List.sum_cons, List.sum_nil]
    omega

theorem State.tabValue_lt (s : State) (k : Fin 8) : s.tabValue k < 2 ^ (64 * 8) :=
  sum_words_lt (fun i => s.fld (.kln k) (KLN.TAB_DATA i)) (fun _ => bitsOf_lt _ _ _) 8

/-! The commit, table by table. -/

/-- A SHARD entry that is stored. -/
def State.putShard (s : State) (k t v : Nat) : State :=
  { s with kln := { s.kln with shard := smSet 0 s.kln.shard (klnKey k t) (BitVec.ofNat 512 v) } }

theorem State.shard_putShard_same (s : State) (k t : Nat) {v : Nat} (h : v < 2 ^ (64 * 8)) : (s.putShard k t v).shard k t = v := by
  have fits : ∀ n, v < 2 ^ n → (BitVec.ofNat n v).toNat = v := fun n hv => by rw [BitVec.toNat_ofNat, Nat.mod_eq_of_lt hv]
  rw [State.shard, State.putShard, smGet_smSet_same]
  exact fits (64 * 8) h

theorem State.shard_putShard_other (s : State) (k v : Nat) {t j : Nat} (h : j ≠ t) : (s.putShard k t v).shard k j = s.shard k j := by
  have key : klnKey k j ≠ klnKey k t := fun e => h (Nat.add_left_cancel e)
  exact congrArg BitVec.toNat (smGet_smSet_other 0 0 s.kln.shard _ key)

theorem State.putShard_regs (s : State) (k t v : Nat) : (s.putShard k t v).regs = s.regs := rfl

/-- A HYPER entry that is stored. -/
def State.putHyper (s : State) (k t v : Nat) : State :=
  { s with kln := { s.kln with hyper := smSet 0 s.kln.hyper (klnKey k t) (BitVec.ofNat 128 v) } }

theorem State.hyper_putHyper_same (s : State) (k t v : Nat) :
    (smGet 0 (s.putHyper k t v).kln.hyper (klnKey k t)).toNat = v % 2 ^ 128 := by
  rw [State.putHyper, smGet_smSet_same, BitVec.toNat_ofNat]

theorem State.putHyper_regs (s : State) (k t v : Nat) : (s.putHyper k t v).regs = s.regs := rfl
theorem State.putHyper_shard (s : State) (k t v : Nat) : (s.putHyper k t v).kln.shard = s.kln.shard := rfl
theorem State.putHyper_active (s : State) (k t v : Nat) : (s.putHyper k t v).kln.hyperActive = s.kln.hyperActive := rfl

section
variable {s : State} {k : Fin 8}

theorem klnCommit_shard_locked (table : s.fld (.kln k) KLN.TAB_SEL_TABLE = 0) (locked : s.locked = true) :
    klnCommit k.val s = s.lockWrite (.kln k) (KLN.TAB_DATA 7).off := by
  simp only [klnCommit, klnPage_val, table, locked, if_true]

/-- A SHARD entry that a check refuses: counted, and the check's number with its tensor recorded. -/
def State.shardRefused (s : State) (k : Fin 8) (t c : Nat) : State :=
  (s.tally (.kln k) KLN.TABLE_REJECT_CNT KLN.EV_TABLE_REJECT).setFld (.kln k) KLN.REJECT_INFO (t + c * 2 ^ 12 + 2 ^ 31)

theorem klnCommit_shard_refused (table : s.fld (.kln k) KLN.TAB_SEL_TABLE = 0) (unlocked : s.locked = false)
    (fails : s.shardCheck k.val (s.fld (.kln k) KLN.TAB_SEL_INDEX) (s.tabValue k) ≠ 0) :
    klnCommit k.val s = s.shardRefused k (s.fld (.kln k) KLN.TAB_SEL_INDEX)
      (s.shardCheck k.val (s.fld (.kln k) KLN.TAB_SEL_INDEX) (s.tabValue k)) := by
  simp only [State.tabValue] at fails
  simp only [klnCommit, klnPage_val, table, unlocked, Bool.false_eq_true, if_false, if_pos fails, State.shardRefused, State.tabValue]

theorem klnCommit_shard_stored (table : s.fld (.kln k) KLN.TAB_SEL_TABLE = 0) (unlocked : s.locked = false)
    (passes : s.shardCheck k.val (s.fld (.kln k) KLN.TAB_SEL_INDEX) (s.tabValue k) = 0) :
    klnCommit k.val s = s.putShard k.val (s.fld (.kln k) KLN.TAB_SEL_INDEX) (s.tabValue k) := by
  simp only [State.tabValue] at passes
  simp only [klnCommit, klnPage_val, table, unlocked, Bool.false_eq_true, if_false, passes, ne_eq, not_true_eq_false, State.putShard,
    State.tabValue]

theorem klnCommit_hyper (table : s.fld (.kln k) KLN.TAB_SEL_TABLE = 1) :
    klnCommit k.val s = s.putHyper k.val (s.fld (.kln k) KLN.TAB_SEL_INDEX) (s.tabValue k) := by
  simp only [klnCommit, klnPage_val, table, State.putHyper, State.tabValue]

theorem klnCommit_other (table : 2 ≤ s.fld (.kln k) KLN.TAB_SEL_TABLE) : klnCommit k.val s = s := by
  unfold klnCommit
  rw [klnPage_val]
  extract_lets p t v
  split
  · next h => exact absurd (h ▸ table) (by decide)
  · next h => exact absurd (h ▸ table) (by decide)
  · rfl

@[simp] theorem State.shardRefused_kln (s : State) (k : Fin 8) (t c : Nat) : (s.shardRefused k t c).kln = s.kln :=
  (State.setFld_kln _ _ _ _).trans (State.tally_kln _ _ _ _)

theorem State.fld_shardRefused_cnt (s : State) (k : Fin 8) (t c : Nat) : (s.shardRefused k t c).fld (.kln k) KLN.TABLE_REJECT_CNT =
    min (s.fld (.kln k) KLN.TABLE_REJECT_CNT + 1) (2 ^ 64 - 1) := by
  rw [State.shardRefused, State.fld_setFld_otherOff _ _ (by decide), s.fld_tally_same _ (by decide) rfl rfl]

theorem State.fld_shardRefused_info (s : State) (k : Fin 8) {t c : Nat} (ht : t < 4096) (hc : c ≤ 6) :
    (s.shardRefused k t c).fld (.kln k) KLN.REJECT_INFO = t + c * 2 ^ 12 + 2 ^ 31 := by
  rw [State.shardRefused, State.fld_setFld_same _ _ _ _ (by decide) (by decide)]
  exact Nat.mod_eq_of_lt (show t + c * 2 ^ 12 + 2 ^ 31 < 2 ^ 64 by omega)

/-- The words of KLN_TAB_DATA lie in their page apart from the event registers, the counters and the records. -/
theorem tabData_off {i : Nat} (h : i < 8) : 0x110 ≤ (KLN.TAB_DATA i).off ∧ (KLN.TAB_DATA i).off < 0x150 := by
  simp only [KLN.TAB_DATA]
  omega

theorem State.tabValue_of_regs {u : State} (h : u.regs = s.regs) : u.tabValue k = s.tabValue k :=
  State.tabValue_congr fun _ _ => State.fld_of_reg (by simp only [State.reg, h])

theorem State.tabValue_shardRefused (s : State) (k : Fin 8) (t c : Nat) : (s.shardRefused k t c).tabValue k = s.tabValue k := by
  refine State.tabValue_congr fun i hi => ?_
  obtain ⟨lo, hi⟩ := tabData_off hi
  have info : (KLN.TAB_DATA i).off ≠ KLN.REJECT_INFO.off := Nat.ne_of_lt (Nat.lt_of_lt_of_le hi (by decide))
  have cnt : (KLN.TAB_DATA i).off ≠ KLN.TABLE_REJECT_CNT.off := Nat.ne_of_gt (Nat.lt_of_lt_of_le (by decide) lo)
  have event : (KLN.TAB_DATA i).off ∉ [0x020, 0x030, 0x038] := by
    simp only [List.mem_cons, List.not_mem_nil, or_false]
    omega
  rw [State.shardRefused, State.fld_setFld_otherOff _ _ info, s.fld_tally_other _ cnt event]

theorem State.tabValue_lockWrite (s : State) (k : Fin 8) (p : Page) (off : Nat) : (s.lockWrite p off).tabValue k = s.tabValue k := by
  refine State.tabValue_congr fun i hi => State.fld_of_reg (State.reg_lockWrite_other _ _ _ fun o ho => ?_)
  have sch : Page.kln k ≠ .sch := nofun
  have low : ∀ o ∈ lockRecordOffs, o < 0x1000 := by decide
  exact fldAddr_ne (f := KLN.TAB_DATA i) (g := ⟨o, 63, 0⟩) sch (Nat.lt_trans (tabData_off hi).2 (by decide)) (low o ho)

/-- Writing the entry leaves the words that spell it. -/
theorem State.tabValue_klnCommit (s : State) (k : Fin 8) : (klnCommit k.val s).tabValue k = s.tabValue k := by
  rcases h : s.fld (.kln k) KLN.TAB_SEL_TABLE with _ | _ | n
  case zero =>
    cases hl : s.locked with
    | true => rw [klnCommit_shard_locked h hl, State.tabValue_lockWrite]
    | false =>
      by_cases hc : s.shardCheck k.val (s.fld (.kln k) KLN.TAB_SEL_INDEX) (s.tabValue k) = 0
      · rw [klnCommit_shard_stored h hl hc]
        exact State.tabValue_of_regs (s.putShard_regs _ _ _)
      · rw [klnCommit_shard_refused h hl hc, State.tabValue_shardRefused]
  case succ.zero =>
    rw [klnCommit_hyper h]
    exact State.tabValue_of_regs (s.putHyper_regs _ _ _)
  case succ.succ => rw [klnCommit_other (by omega)]

end

end Sys2Proof.Machine
end

section
/-! PROOFS. The swap of hyperparameters at a step start, and the statement of kiln tables. -/
namespace Sys2Proof.Machine

/-! Keys of a kiln's tensors, and tables by kiln. -/

theorem klnKey_div (k : Nat) {t : Nat} (h : t < 4096) : klnKey k t / 4096 = k := by
  simp only [klnKey]; omega

/-- A key of a kiln is that of one of its tensors. -/
theorem exists_klnKey {a k : Nat} (h : a / 4096 = k) : ∃ t, t < 4096 ∧ a = klnKey k t :=
  ⟨a % 4096, Nat.mod_lt _ (by decide), by simp only [klnKey]; omega⟩

section
variable {α : Type} {d : α} {k : Nat}

/-- A value that is not the default stands in the store. -/
theorem smGet_mem {m : SMap α} (h : smGet d m k ≠ d) : (k, smGet d m k) ∈ m := by
  induction m with
  | nil => exact absurd rfl h
  | cons e t ih =>
    obtain ⟨a, v⟩ := e
    by_cases hk : k = a
    · subst hk; simp [smGet]
    · simp only [smGet, hk, if_false] at h ⊢
      exact List.mem_cons_of_mem _ (ih h)

theorem smGet_eq_default {m : SMap α} (h : ∀ e ∈ m, e.1 ≠ k) : smGet d m k = d := by
  rcases Classical.em (smGet d m k = d) with same | other
  · exact same
  · exact absurd rfl (h _ (smGet_mem other))

theorem smGet_append_right {l r : SMap α} (h : ∀ e ∈ l, e.1 ≠ k) : smGet d (l ++ r) k = smGet d r k := by
  induction l with
  | nil => rfl
  | cons e t ih =>
    obtain ⟨head, tail⟩ := List.forall_mem_cons.mp h
    rw [List.cons_append, smGet, if_neg (Ne.symm head), ih tail]

theorem smGet_append_left {l r : SMap α} (h : ∀ e ∈ r, e.1 ≠ k) : smGet d (l ++ r) k = smGet d l k := by
  induction l with
  | nil => exact smGet_eq_default h
  | cons e t ih => rw [List.cons_append, smGet, smGet, ih]

theorem smGet_ofKiln (m : SMap α) {t : Nat} (h : t < 4096) : smGet d (ofKiln k m) (klnKey k t) = smGet d m (klnKey k t) := by
  have drop : ofKiln k m = smDrop (fun a => !decide (a / 4096 = k)) m := by simp only [ofKiln, smDrop, Bool.not_not]
  rw [drop]
  exact smGet_smDrop d _ m (by simp [klnKey_div k h])

/-- A table that is replaced for a kiln reads as the new one there. -/
theorem smGet_replaceKiln (old new : SMap α) {t : Nat} (h : t < 4096) :
    smGet d (replaceKiln k old new) (klnKey k t) = smGet d new (klnKey k t) := by
  have own := klnKey_div k h
  have below : ∀ e ∈ old.filter (fun e => e.1 / 4096 < k), e.1 ≠ klnKey k t := by
    intro e he same
    have lt : e.1 / 4096 < k := by simpa using (List.mem_filter.mp he).2
    rw [same, own] at lt
    exact Nat.lt_irrefl _ lt
  have above : ∀ e ∈ old.filter (fun e => k < e.1 / 4096), e.1 ≠ klnKey k t := by
    intro e he same
    have lt : k < e.1 / 4096 := by simpa using (List.mem_filter.mp he).2
    rw [same, own] at lt
    exact Nat.lt_irrefl _ lt
  rw [replaceKiln, smGet_append_left above, smGet_append_right below, smGet_ofKiln new h]

end

/-! The swap (R264). -/

/-- The shard entries that the swap's check goes through: the kiln's valid ones. -/
def State.swapChecked (s : State) (k : Nat) : SMap (BitVec 512) := (ofKiln k s.kln.shard).filter fun e => shValid e.2.toNat

theorem State.mem_swapChecked (s : State) (k : Nat) (e : Nat × BitVec 512) :
    e ∈ s.swapChecked k ↔ e ∈ s.kln.shard ∧ e.1 / 4096 = k ∧ shValid e.2.toNat = true := by
  simp only [State.swapChecked, ofKiln, List.mem_filter, decide_eq_true_eq, and_assoc]

section
variable {s : State} {k : Fin 8} (pend : s.flag (.kln k) KLN.STATUS_SWAP_PEND = true)
include pend

theorem State.hyperSwapAt_taken (passes : ∀ e ∈ s.swapChecked k.val, hyperCheck (smGet 0 s.kln.hyper e.1) = 0) :
    (s.hyperSwapAt k.val).kln = { s.kln with hyperActive := replaceKiln k.val s.kln.hyperActive s.kln.hyper } := by
  have nothing : (s.swapChecked k.val).find? (fun e => hyperCheck (smGet 0 s.kln.hyper e.1) ≠ 0) = none :=
    List.find?_eq_none.mpr fun e he => by simpa using passes e he
  simp only [State.swapChecked] at nothing
  simp only [State.hyperSwapAt, klnPage_val, pend, nothing, Bool.not_true, Bool.false_eq_true, if_false, State.setFlag_kln]

theorem State.hyperSwapAt_refused {e : Nat × BitVec 512} (checked : e ∈ s.swapChecked k.val)
    (fails : hyperCheck (smGet 0 s.kln.hyper e.1) ≠ 0) : ∃ info, s.hyperSwapAt k.val =
      ((s.setFlag (.kln k) KLN.STATUS_SWAP_PEND false).tally (.kln k) KLN.HYPER_REJECT_CNT KLN.EV_HYPER_REJECT).setFld (.kln k)
        KLN.REJECT_INFO info := by
  have found : ((s.swapChecked k.val).find? (fun e => hyperCheck (smGet 0 s.kln.hyper e.1) ≠ 0)).isSome = true :=
    List.find?_isSome.mpr ⟨e, checked, by simpa using fails⟩
  obtain ⟨f, hf⟩ := Option.isSome_iff_exists.mp found
  simp only [State.swapChecked] at hf
  simp only [State.hyperSwapAt, klnPage_val, pend, hf, Bool.not_true, Bool.false_eq_true, if_false]
  exact ⟨_, rfl⟩

/-- With every valid tensor's hyperparameters in range the whole of HYPER becomes active. -/
theorem State.hyperActive_hyperSwapAt
    (passes : ∀ t, t < 4096 → shValid (s.shard k.val t) = true → hyperCheck (smGet 0 s.kln.hyper (klnKey k.val t)) = 0)
    (canonical : ∀ e ∈ s.kln.shard, smGet 0 s.kln.shard e.1 = e.2) {t : Nat} (ht : t < 4096) :
    smGet 0 (s.hyperSwapAt k.val).kln.hyperActive (klnKey k.val t) = smGet 0 s.kln.hyper (klnKey k.val t) := by
  rw [State.hyperSwapAt_taken pend, smGet_replaceKiln _ _ ht]
  intro e checked
  obtain ⟨stands, own, valid⟩ := (s.mem_swapChecked _ _).mp checked
  obtain ⟨t, ht, key⟩ := exists_klnKey own
  have shown : s.shard k.val t = e.2.toNat := by rw [State.shard, ← key, canonical e stands]
  rw [key]
  exact passes t ht (shown ▸ valid)

/-- A valid tensor's hyperparameters out of range refuse the swap. -/
theorem State.hyperSwapAt_outOfRange {t : Nat} (ht : t < 4096) (valid : shValid (s.shard k.val t) = true)
    (fails : hyperCheck (smGet 0 s.kln.hyper (klnKey k.val t)) ≠ 0) :
    (s.hyperSwapAt k.val).kln = s.kln ∧ (s.hyperSwapAt k.val).fld (.kln k) KLN.HYPER_REJECT_CNT =
      min (s.fld (.kln k) KLN.HYPER_REJECT_CNT + 1) (2 ^ 64 - 1) := by
  have listed : smGet 0 s.kln.shard (klnKey k.val t) ≠ 0 := by
    intro zero
    have empty : ∀ n, (0 : BitVec n).toNat = 0 := fun _ => BitVec.toNat_zero
    rw [State.shard, zero, empty] at valid
    exact absurd valid (by decide)
  have checked := (s.mem_swapChecked k.val _).mpr ⟨smGet_mem listed, klnKey_div _ ht, valid⟩
  obtain ⟨info, swap⟩ := State.hyperSwapAt_refused pend checked fails
  rw [swap, State.setFld_kln, State.tally_kln, State.setFlag_kln, State.fld_setFld_otherOff _ _ (by decide),
    State.fld_tally_same _ _ (by decide) rfl rfl, State.setFlag, State.fld_setFld_otherOff _ _ (by decide)]
  exact ⟨rfl, rfl⟩

end

theorem exec_hyperSwap {s : State} {k : Fin 8} {w : RegW} (h : s.reaches (.kln k) = true)
    (asks : wHits w KLN.CTRL_HYPER_SWAP = true) : exec (.hyperSwap k w) s =
      .next (((onlyIf (wHits w COM.CNT_CLR) (fun s => s.clearCounters (.kln k)) s).store (.kln k) 0x010 w).setFlag (.kln k)
        KLN.STATUS_SWAP_PEND true) := by
  simp only [State.reaches, Bool.and_eq_true, Bool.not_eq_true'] at h
  obtain ⟨⟨answers, testing⟩, deaf⟩ := h
  show execHyperSwap k w s = _
  simp only [execHyperSwap, klnPage_val, ctrlWrite, answers, testing, deaf, klnCtrl, asks, Bool.not_false, Bool.and_self, if_true,
    Bool.false_eq_true, if_false]

/-- Settles O46: the write of the last word is stored and then comes to `klnCommit`, table by table; a swap is asked for by a flag and
comes to `State.hyperSwapAt`, which takes the table whole or not at all. -/
theorem kilnTablesFollow : Obligations.KilnTablesFollow := by
  refine ⟨fun s k w reach => ?write, fun s k w reach asks => ⟨_, exec_hyperSwap reach asks, ?asked⟩, fun s k pend =>
    ⟨fun passes canonical t => State.hyperActive_hyperSwapAt pend passes canonical, fun t => State.hyperSwapAt_outOfRange pend⟩⟩
  case asked =>
    refine ⟨State.flag_setFlag_true _ _ (by decide) (by decide), ?_⟩
    rw [State.setFlag_kln, State.store_kln]
    unfold onlyIf
    split <;> rfl
  case write =>
    have run := exec_klnTabWrite w reach
    by_cases low : w.half = .low
    · rw [if_neg (not_not_intro low)] at run
      exact ⟨_, run, fun _ => s.tabStored_kln k w, fun high => absurd low high⟩
    rw [if_pos low] at run
    refine ⟨_, run, ?_⟩
    have value : (klnCommit k.val (s.tabStored k w)).tabValue k = (s.tabStored k w).tabValue k := State.tabValue_klnCommit _ k
    have index := s.fld_tabStored_kln k w (f := KLN.TAB_SEL_INDEX) (by decide)
    have table := s.fld_tabStored_kln k w (f := KLN.TAB_SEL_TABLE) (by decide)
    have rejects := s.fld_tabStored_kln k w (f := KLN.TABLE_REJECT_CNT) (by decide)
    have check := s.shardCheck_tabStored k w
    have locks := s.locked_tabStored k w
    have kln := s.tabStored_kln k w
    have shard := State.shard_of_kln (s.tabStored_kln k w) k.val
    generalize s.tabStored k w = u at *
    simp only [State.tabValue] at value
    simp only [value, ← index, ← table, ← rejects, ← check, ← locks, ← kln, ← shard]
    refine ⟨fun h => absurd h low, fun _ => ⟨fun h0 unlocked => ⟨fun passes => ?stored, fun fails => ?refused⟩, fun h0 locked => ?locked,
      fun h1 => ?hyper, fun h2 => by rw [klnCommit_other h2]⟩⟩
    case stored =>
      rw [klnCommit_shard_stored h0 unlocked passes]
      exact ⟨u.shard_putShard_same k.val _ (u.tabValue_lt k), fun j _ other => u.shard_putShard_other k.val _ other⟩
    case refused =>
      rw [klnCommit_shard_refused h0 unlocked fails, State.shardRefused_kln, State.fld_shardRefused_cnt,
        u.fld_shardRefused_info k (bitsOf_lt _ _ _) (u.shardCheck_le _ _ _)]
      exact ⟨rfl, rfl, rfl⟩
    case locked => rw [klnCommit_shard_locked h0 locked, State.lockWrite_kln]
    case hyper =>
      rw [klnCommit_hyper h1]
      exact ⟨u.hyper_putHyper_same _ _ _, u.putHyper_shard _ _ _, u.putHyper_active _ _ _⟩

end Sys2Proof.Machine
end
